-- ==== Sys2Proof/Word.lean ====
section
/-! DEFINITION. The word and byte types and the plain names of things that instructions and events speak of:
creels, cores, threads, teams, messages, memory requests and replies. -/

namespace Sys2Proof

/-- A register's 64 data bits (R165). -/
abbrev Word := BitVec 64

/-- One byte of memory. -/
abbrev Byte := BitVec 8

/-- A creel by its global coordinates, x 0 to 127 and y 0 to 63 (R6). -/
structure CreelId where
  x : Nat
  y : Nat
  deriving DecidableEq, Repr

/-- A core by the creel it is attached to and its node code (R35). Node codes 0 to 6 are SI, SO, SM, C0 to C3.
A lengthsman core n of die d has node code 8 + n at the router of die-local creel (0, 0) (R30). -/
structure CoreId where
  x : Nat
  y : Nat
  node : Nat
  deriving DecidableEq, Repr

/-- A thread slot of a core (R7). -/
structure ThreadId where
  core : CoreId
  slot : Nat
  deriving DecidableEq, Repr

/-- A team: launch slot (bits [5:0] of the launch number, R112), level and team number (R90). -/
structure TeamKey where
  lslot : Nat
  level : Nat
  num : Nat
  deriving DecidableEq, Repr

/-- A channel message: the header fields of R196 and the payload bytes. `nflit` is the flit count of header byte 1,
`plen` the payload length field; the two are carried as sent, so that a malformed message can be told (R197). -/
structure Msg where
  mtype : Byte
  nflit : Nat
  reply : Bool
  plen : Nat
  dst : BitVec 32
  src : BitVec 32
  seq : BitVec 32
  cret : Byte
  lfmt : Byte
  fleet : BitVec 48
  payload : List Byte
  deriving DecidableEq, Repr

/-- Who sent a memory request and waits for its reply (R207): a slot's implicit memory endpoint, an engine
command, a gate test of the task queue, an instruction-line fetch, or a flight-image read. -/
inductive Requester where
  | slot (t : ThreadId)
  | engine (c : CreelId) (eng : Nat) (cmd : Nat)
  | gate (c : CreelId) (ring : Nat) (unit : Nat) (gate : Nat)
  | fetch (t : ThreadId) (va : Nat)
  | remote (addr : BitVec 32)
  deriving DecidableEq, Repr

/-- A memory request (type 0xFD) with the payload of R207. `tags` are the four sticky bits a SPILL or a tile
store carries (R239, R313); `aon` is byte 5 bit 2. `va` is kept by the sender for the trap a negative
acknowledgement raises (R225). -/
structure MemReq where
  who : Requester
  tok : Nat
  op : Nat
  wid : Byte
  len : Nat
  ver : Byte
  mig : Bool
  acq : Bool
  rel : Bool
  aon : Bool
  ord : Bool
  seq : Nat
  pa : Nat
  va : Nat
  data : List Byte
  tags : BitVec 4
  posted : Bool
  deriving DecidableEq, Repr

/-- The reply to a memory request: status 0 done, 1 poisoned, 2 RETRANSLATE, 3 unbacked (R207), the data and the
sticky tags read. -/
structure MemReply where
  req : MemReq
  status : Nat
  data : List Byte
  tags : BitVec 4
  deriving DecidableEq, Repr

/-- The network and transport content of a received Ethernet frame that R41 and R43 look at. -/
inductive FrameBody where
  | ipv4 (src dst : BitVec 32) (options : Bool) (fragment : Bool) (udp : Bool) (source port : Nat) (checksumOk : Bool)
      (payload : List Byte)
  | ipv6 (src dst : BitVec 128) (extension : Bool) (udp : Bool) (source port : Nat) (checksumZero : Bool) (checksumOk : Bool)
      (payload : List Byte)
  | icmp
  | other
  deriving DecidableEq, Repr

/-- A received Ethernet frame: priority code point, length, congestion mark and content (R41 to R43). -/
structure EthFrame where
  pcp : Nat
  len : Nat
  ce : Bool
  body : FrameBody
  deriving DecidableEq, Repr

/-- A translation shootdown as multicast (R58): who issued it and which entries it removes. -/
structure Shootdown where
  issuer : ThreadId
  asid : BitVec 16
  vpage : Nat
  size : Nat
  deriving DecidableEq, Repr

/-- One bank of one store of a creel (R126): store 1 scratchpad, 2 local store, 3 register file,
4 instruction cache; `core` the node code for core stores. -/
structure BankRef where
  creel : CreelId
  store : Nat
  core : Nat
  bank : Nat
  deriving DecidableEq, Repr

/-- What a bring-up phase found (R25, R27, R39, R126): failed stacks, capacity tiers and Ethernet ports, whether
the host port trained, which of the ten shared edges failed, and the banks that failed the self-test. -/
structure PhaseReport where
  hbmFail : BitVec 16
  lpFail : BitVec 8
  ethFail : BitVec 16
  hostPortOk : Bool
  edgeFail : BitVec 10
  badBanks : List BankRef
  deriving DecidableEq, Repr

/-- One element of a matrix operand as it travels: W32 or integer bits with the sticky bit. -/
structure MElem where
  bits : BitVec 32
  s : Bool
  deriving DecidableEq, Repr

/-- A multicast operand block of MTEAM (R385). `isA` tells an A block (with its A scales) from a B block. -/
structure MBlock where
  src : CoreId
  isA : Bool
  mseq : BitVec 32
  desc : List Byte
  cls : Nat
  elems : List MElem
  scales : List MElem
  deriving DecidableEq, Repr

/-- A pairwise swap message of MSWAP (R386). -/
structure SwapMsg where
  src : CoreId
  et : Nat
  total : Nat
  mseq : BitVec 32
  elems : List (BitVec 32 × Bool)
  deriving DecidableEq, Repr

/-- Where a soft error strikes (R142): a memory word's check unit, a register entry's stored bits, or, met by the check bits of
the bank itself, a register-file or instruction-cache bank: the store, core and bank numbers are those of R126. -/
inductive ErrorSite where
  | memory (pa : Nat) (uncorrectable : Bool)
  | bank (core : CoreId) (store bank : Nat) (uncorrectable : Bool)
  | register (core : CoreId) (entry : Nat) (flip : Word)
  deriving DecidableEq, Repr

/-- A flood flit of the boot unit (R412), travelling inside one die. `port` is the router port it arrives
through: 0 own creel or unit, 1 west, 2 south, 3 east, 4 north. -/
structure FloodFlit where
  kind : Nat
  fnum : Byte
  die : Nat
  fx : Int
  fy : Int
  fpkt : Nat
  last : Bool
  off : Nat
  bytes : List Byte
  deriving DecidableEq, Repr

end Sys2Proof
end

