-- ==== Sys2Proof/Syntax.lean ====
section
/-! DEFINITION. The instructions and events of spec/opcode_table.json, one constructor per row, in the table's
order within each kind. An encoded instruction's arguments are its fields, from the most significant down, named
as the table names them. An event's arguments say what arrives, where, and whom it concerns. -/

namespace Sys2Proof

/-- Everything the device can be made to do: the 314 encoded instructions and the 172 events of the table. -/
inductive Instr where
  /-- R18. MOOR_REQ counts as 1 after three equal samples and adds the PIN mooring holder. -/
  | moorReqRise
  /-- R18. MOOR_REQ counts as 0 after three equal samples and releases the PIN holder; resumption starts when no holder remains. -/
  | moorReqFall
  /-- R25. Power-good starts bring-up at phase 0, in which the boot ROM verifies the firmware image. -/
  | powerGood
  /-- R13. Removal of the supply takes the device to OFF from any state and loses all preserved state. -/
  | supplyRemoved
  /-- R25. A bring-up phase ends and the next begins; a unit that fails training is retrained once and otherwise marked degraded; READY rises after phase 5. -/
  | bringupPhaseComplete (r : PhaseReport)
  /-- R13. Command 0x01 moves IDLE or RUN to STANDBY, rejected with LAST_RESULT 0x01 if any team is resident. -/
  | pwrCmdStandby
  /-- R13. Command 0x02 takes STANDBY through bring-up phases 2 to 5 to IDLE, or from phase 0 while CODE is 1, and is rejected while a mooring holder remains. -/
  | pwrCmdWake
  /-- R14. Command 0x03 takes RUN to IDLE: issue stops at the next rotation boundary, the mesh drains, and clocks are gated. -/
  | pwrCmdIdle
  /-- R14. Command 0x04 takes IDLE to RUN; issue resumes at the first rotation boundary after clocks return, and stored mask writes take effect. -/
  | pwrCmdRun
  /-- R18. Command 0x05 adds the CMD mooring holder. -/
  | pwrCmdMoor
  /-- R18. Command 0x06 releases the CMD and TRIP holders together. -/
  | pwrCmdResume
  /-- R29. A PWR_CMD value outside 0x01 to 0x06 is rejected with LAST_RESULT 0x03 and no state change. -/
  | pwrCmdInvalid (c : Byte)
  /-- R13. A transition to STANDBY completes within 50 ms. -/
  | standbyEntryComplete
  /-- R14. After flits in flight are delivered, clocks other than those of die 0 lengthsman cores, always-on islands and host port are gated. -/
  | idleEntryComplete
  /-- R14. Clocks are restored and issue resumes at the first rotation boundary with every thread in its own slot. -/
  | runEntryComplete
  /-- R29. A write of LIMIT_8W in 125 to 525 sets the trip limit; a value outside is ignored and sets LAST_RESULT 0x05. -/
  | pwrLimitWrite (v : Word)
  /-- R16. Setting a creel bit clocks its compute cores within 64 cycles; clearing one pre-empts a resident team with deadline 1 ms and then gates the cores; writes outside RUN are stored. -/
  | pwrMaskWrite (n : Nat) (v : Word)
  /-- R17. At the end of each 1 ms window the average input power is stored in PWR_MEAS and compared with PWR_LIMIT. -/
  | powerWindowEnd (watts : BitVec 16)
  /-- R19. Writes are confirmed, DRAM enters self-refresh, dies are power-gated and the host port drops to one lane: MOORED is reached. -/
  | moorEntryComplete
  /-- R23. If step 5 is not complete at 2 ms, unwritten images are abandoned and LOSS is set. -/
  | moorEntryTimeout (lost : List TeamKey)
  /-- R22. Teams resume in place, the prior state returns, MOOR_DUR and MOOR_COUNT are updated and READY rises last. -/
  | resumptionComplete (bad : List BankRef)
  /-- R38. A die-link flit that fails its CRC is replayed from the sender's replay buffer in order and counted. -/
  | dieLinkReplay (edge : Nat) (link : Nat)
  /-- R38. After 8 consecutive failed replays the link is retrained with its traffic held. -/
  | dieLinkRetrain (edge : Nat) (link : Nat)
  /-- R38. A retrain ends; a link that failed it is replaced by a spare or folded onto the nearest working link. -/
  | dieLinkRetrainEnd (edge : Nat) (link : Nat) (ok : Bool)
  /-- R41. A received Ethernet frame is filtered under the supported MAC, IP and UDP rules and passed to Towline or dropped and counted. -/
  | ethFrameReceive (port : Nat) (f : EthFrame)
  /-- R42. A received priority pause frame is obeyed for lossless priorities. -/
  | pfcPauseReceive (port : Nat) (prio : Nat) (pause : Bool)
  /-- R43. An ARP request for a configured IPv4 address is answered. -/
  | arpRequest (port : Nat) (ip : BitVec 32)
  /-- R43. An IPv6 neighbour solicitation for a configured address is answered. -/
  | neighbourSolicitation (port : Nat) (ip : BitVec 128)
  /-- R43. At link-up the port sends one gratuitous ARP or unsolicited neighbour advertisement. -/
  | ethLinkUp (port : Nat)
  /-- R44. A write of ETH_CFG takes effect from the next cycle, except that a write breaking the XON or XOFF ranges is ignored. -/
  | ethCfgWrite (port : Nat) (v : Word)
  /-- R44. Writing PERSIST stores the host port's current addresses and enables as their reset values. -/
  | ethHostPersist
  /-- R44. Writing PORT stores the host-port choice in non-volatile storage for the next cold bring-up. -/
  | ethHostPortWrite (p : BitVec 4)
  /-- R196. A write of MOD_SELF sets the module number, and is ignored while any launch is accepted and not done. -/
  | modSelfWrite (m : Byte)
  /-- R56. A page-table entry read by a walker arrives; the walk goes on, ends at a leaf and fills the translation cache, or ends in a TRANSLATION trap. -/
  | walkEntryReply (walk : Nat) (entry : Word) (status : Nat)
  /-- R55. A translation-cache entry of a MIG page is dropped 2^24 cycles after its walk. -/
  | tlbMigEntryExpiry (c : CreelId) (asid : BitVec 16) (vpage : Nat) (size : Nat)
  /-- R58. A write of TSD_CTL multicasts a shootdown to every creel of its reach, or is ignored with REJ set while BUSY or for invalid fields. -/
  | tsdCtlShootdown (t : ThreadId) (v : Word)
  /-- R58. A creel receives a shootdown and waits for accesses that used matching entries to be performed. -/
  | shootdownReceive (c : CreelId) (sd : Shootdown)
  /-- R58. With matching accesses performed, the creel removes the entries and sends a completion up the reach's tree. -/
  | shootdownCreelDone (c : CreelId) (sd : Shootdown)
  /-- R58. A completion arriving at the issuer increments COUNT in TSD_STAT. -/
  | shootdownCompletion (t : ThreadId)
  /-- R60. At each 2^24-cycle epoch end the die updates idle counts, picks promotions and demotions, starts up to MAXMOVE moves and clears access counts. -/
  | migrationEpochEnd (die : Nat)
  /-- R134. One 64-byte line of a migrating page is copied to the new frame; writes to copied lines are forwarded. -/
  | migrationLineCopy (die : Nat) (move : Nat)
  /-- R61. The leaf entry is compare-and-swapped with new FRAME, TIER and VER+1, or the move is abandoned and counted if software changed it. -/
  | migrationCommit (die : Nat) (move : Nat)
  /-- R61. The old frame returns to its ring 2^24 cycles after the commit. -/
  | migrationFrameRelease (die : Nat) (ring : Nat) (frame : Nat)
  /-- R78. A written frame is appended to the free-frame ring, or refused and counted if of wrong size or tier or if the ring is full. -/
  | migFreeWrite (die : Nat) (ring : Nat) (v : Word)
  /-- R78. A write of MIG_RBASE changes the ring only while migration is disabled, and is ignored otherwise. -/
  | migRbaseWrite (die : Nat) (ring : Nat) (v : Word)
  /-- R65. A DATA packet is delivered to its endpoint in sequence once, or acknowledged and dropped as a duplicate, dropped out of window, answered RESET for a closed session, or answered MOORED while moored. -/
  | towlineData (session : Nat) (seq : BitVec 32) (acknum : BitVec 32) (ece : Bool) (m : Msg)
  /-- R65. An ACK cumulatively acknowledges DATA packets and adjusts the window, halving it on ECE. -/
  | towlineAck (session : Nat) (acknum : BitVec 32) (ece : Bool)
  /-- R64. An OPEN opens or resets a session, closing its open host endpoints, and is answered OPEN_OK, or MOORED while moored. -/
  | towlineOpen (session : Nat)
  /-- R65. A RESET from the host fails the session and closes its host endpoints at their current states. -/
  | towlineReset (session : Nat)
  /-- R65. An unacknowledged DATA packet is retransmitted with doubling wait up to 6.4 ms. -/
  | towlineRetransmitTimeout (session : Nat) (seq : BitVec 32)
  /-- R69. The management conversation reads a device register and answers REG_DATA with a status. -/
  | regRead (addr : Word)
  /-- R69. The management conversation writes a device register and answers REG_DONE with a status. -/
  | regWrite (addr : Word) (v : Word)
  /-- R82. Image bytes are written into the inactive firmware slot, or status 0x03 for the active slot or an out-of-range offset. -/
  | fwWrite (slot : Byte) (off : Nat) (data : List Byte)
  /-- R419. Starts a live update: UPDN increments, the inactive image is verified and its body copied, or REG_DONE answers 0x04. -/
  | fwActivate
  /-- R71. The host acknowledges a notice, letting the next held notice be sent. -/
  | noticeAck
  /-- R75. A launch record is checked in order and answered LAUNCH_ACK with a status or a new launch number; initial packets are addressed to their teams. -/
  | launch (rec : List Byte)
  /-- R70. A host READ of a physical range at its home is answered DATA, or REFUSED with a status. -/
  | bulkRead (server : BitVec 32) (pa : Nat) (len : Nat)
  /-- R70. A host WRITE is performed at its home in whole 8-byte words and answered WACK, or REFUSED with a status. -/
  | bulkWrite (server : BitVec 32) (pa : Nat) (data : List Byte)
  /-- R83. SPDM GET_VERSION is answered with version 1.3. -/
  | getVersion
  /-- R83. SPDM GET_CAPABILITIES reports CERT_CAP, CHAL_CAP and MEAS_CAP with signatures. -/
  | getCapabilities
  /-- R83. SPDM NEGOTIATE_ALGORITHMS selects SHA-256 and the HSS/LMS extended algorithm. -/
  | negotiateAlgorithms
  /-- R83. SPDM GET_DIGESTS returns the certificate chain digest of slot 0. -/
  | getDigests
  /-- R83. SPDM GET_CERTIFICATE returns the X.509 chain of slot 0. -/
  | getCertificate (slot : Nat) (off : Nat) (len : Nat)
  /-- R85. SPDM CHALLENGE is signed with the next identity-key leaf after advancing the counter, or answered ERROR once the leaves are spent. -/
  | challenge (nonce : List Byte)
  /-- R84. SPDM GET_MEASUREMENTS returns measurement blocks 1 to 5, signed when requested. -/
  | getMeasurements (index : Nat) (sign : Bool) (nonce : List Byte)
  /-- R83. Any other SPDM request is answered ERROR UnsupportedRequest. -/
  | spdmUnsupported (code : Byte)
  /-- R419. After verification, dispatch stops on every die, decided dispatches enter the rotation, firmware requests are held, and the old image is sent MKIND 0x02. -/
  | fwuQuiesced
  /-- R419. The old update thread's write of DONE makes the unit digest the handover body and start the new image, setting FWU_T0. -/
  | fwuSigDone (t : ThreadId)
  /-- R419. A write of FAIL by the old update thread sends the update to rollback. -/
  | fwuSigFail (t : ThreadId)
  /-- R419. With neither DONE nor FAIL 6,000,000 cycles after the entry, the update rolls back. -/
  | fwuHandoverTimeout (upd : Nat)
  /-- R419. A nonzero heartbeat by a new-half thread in time commits the update; other writes are ignored. -/
  | fwHbWrite (t : ThreadId) (seq : BitVec 16)
  /-- R419. With no heartbeat by T0 + 60,000,000 the update rolls back. -/
  | fwuHeartbeatTimeout (upd : Nat)
  /-- R92. A waiting team is placed on its nominal or first usable tile with the chosen footprint, restarting if the capacity version changes. -/
  | teamPlacement (k : TeamKey)
  /-- R100. Every 16 cycles while a slot is idle, and at each dispatch attempt, the queue tests gates and chooses the highest-priority eligible packet in its windows. -/
  | queueExamination (c : CreelId)
  /-- R98. The reply of a gate test load arrives and records whether the gate word was FULL. -/
  | gateTestReply (c : CreelId) (ring : Nat) (unit : Nat) (gate : Nat) (full : Bool)
  /-- R163. Eight cycles after the dispatch decision the thread enters the rotation and first issues at its own slot. -/
  | dispatchEnterRotation (t : ThreadId)
  /-- R106. A victim's queue answers with a non-STATIC packet it would choose and marks it taken, or fails the attempt. -/
  | stealRequest (victim : CreelId) (thief : CreelId) (k : TeamKey)
  /-- R106. The thief writes a stolen packet into its own ring with its original stamp, or counts the failure. -/
  | stealReply (thief : CreelId) (victim : CreelId) (k : TeamKey) (ring : Nat) (stamp : Nat) (pkt : List Byte)
  /-- R105. After a failed pass the thief waits 256 cycles and starts again from the first victim. -/
  | stealBackoffExpiry (c : CreelId)
  /-- R109. A creel with no packet, task or steal of the team left and all children done sends its combined done word to its tree parent. -/
  | doneSend (c : CreelId) (k : TeamKey)
  /-- R110. A done message is combined at the parent creel; a root with its tree and child instances complete reports the team done. -/
  | doneReceive (c : CreelId) (k : TeamKey) (word : BitVec 32)
  /-- R114. A pre-emption request with FORCE 0 chooses drain, discard or save by the cost estimator. -/
  | preReqEstimate (v : Word)
  /-- R113. A pre-emption with FORCE 1 saves the team at the next rotation boundary. -/
  | preReqSave (v : Word)
  /-- R113. A pre-emption with FORCE 2 stops and resets the team, refused with LAST 0x02 without RESTART. -/
  | preReqDiscard (v : Word)
  /-- R113. A pre-emption with FORCE 3 stops dispatch, lets tasks run to TDONE and writes an image without contexts. -/
  | preReqDrain (v : Word)
  /-- R112. RESUME releases a team kept after a dump for relaunch, or sets LAST 0x04. -/
  | preReqResume (v : Word)
  /-- R115. At the rotation boundary threads stop, in-flight work is completed or abandoned per R115, and the save begins. -/
  | preemptBoundaryStop (k : TeamKey)
  /-- R116. The team's save image is written in the save pool and the team leaves its rectangle, or the save fails and the team is discarded or reports CAPACITY. -/
  | saveComplete (k : TeamKey)
  /-- R117. A marker arriving saves the endpoint's buffer and, the first time, saves the thread and sends markers on its graph endpoints. -/
  | snapshotMarker (core : CoreId) (ep : Nat)
  /-- R118. A team that left is restored from its image, restarted with the largest fitting footprint, or reports CAPACITY. -/
  | teamRelaunch (k : TeamKey)
  /-- R163. After the image is restored, threads resume at the first rotation boundary in their own slots. -/
  | restoreComplete (k : TeamKey)
  /-- R126. A write with GO queues retirement of the named bank, or sets LAST for invalid, duplicate or moored requests. -/
  | retCtlRetire (c : CreelId) (v : Word)
  /-- R127. LOWER: the capacity field is lowered and the versions incremented. -/
  | sluiceStart (c : CreelId)
  /-- R127. Every faulted team has left the creel and the engine goes to PIN. -/
  | sluiceWaitfitDone (c : CreelId)
  /-- R127. No static region pins the bank; ALLOC fixes each moving unit's destination, or an instruction-cache bank commits at once. -/
  | sluicePinDone (c : CreelId)
  /-- R128. One unit is read from its source and written to its destination with its tag, sticky and check bits. -/
  | sluiceUnitCopy (c : CreelId)
  /-- R122. A write of 0 to a BCE register clears its four counts; other values are ignored. -/
  | bceWrite (c : CreelId) (reg : Nat) (v : Word)
  /-- R76. A write of 0 clears an error counter; other values are ignored. -/
  | errorCounterWrite (die : Nat) (n : Nat) (v : Word)
  /-- R137. An effect held in the comparator for more than 2^16 cycles is a paired mismatch. -/
  | pairedHoldTimeout (t : ThreadId) (item : Nat)
  /-- R139. Routers on the boundary of the fenced rectangle are fenced and uncrossed messages discarded. -/
  | fenceBoundary (k : TeamKey)
  /-- R139. Every thread of the team and descendants stops and its endpoints close with notices to outside peers. -/
  | fenceStop (k : TeamKey)
  /-- R139. The rectangle's creels are reset to R26 values; the team is relaunched or reports CAPACITY and FENCED. -/
  | fenceReset (k : TeamKey)
  /-- R139. A message addressed into a fenced rectangle is answered with a negative acknowledgement. -/
  | boundaryNack (m : Msg)
  /-- R225. A negative acknowledgement closes the requesting endpoint, leading to a CLOSED trap, or is dropped and counted for a message expecting no reply. -/
  | nackReceive (m : Msg)
  /-- R145. Debug op 0x01 halts the creel with CAUSE 1 and returns h. -/
  | dbgHalt (c : CreelId)
  /-- R147. Debug op 0x02 resumes the halted creel at the cycle r matching the halt's slot. -/
  | dbgResume (c : CreelId)
  /-- R147. Debug op 0x03 releases one issue of the named slot. -/
  | dbgStep (t : ThreadId)
  /-- R144. Debug op 0x04 reads a debug-block register. -/
  | dbgRegRead (c : CreelId) (off : Nat)
  /-- R144. Debug op 0x05 writes a debug-block register. -/
  | dbgRegWrite (c : CreelId) (off : Nat) (v : Word)
  /-- R144. Debug op 0x06 reads a halted thread's register with its S bit. -/
  | dbgThreadRegRead (t : ThreadId) (n : Nat)
  /-- R153. Debug op 0x07 pre-empts the team by save, keeps the image unrelaunched and writes an index block. -/
  | dbgDumpTeam (t : ThreadId) (level : Nat)
  /-- R153. Debug op 0x08 writes the halted creel's blocks in save-image form with an index block. -/
  | dbgDumpCreel (c : CreelId)
  /-- R145. A team cross-trigger arriving on the multicast network halts the creel with CAUSE 5. -/
  | haltCrossTrigger (c : CreelId)
  /-- R147. At cycle r each core resumes at r + delta and the engines at r + 3. -/
  | debugResumePoint (c : CreelId)
  /-- R147. The stepped issue has taken place; the step answers and CAUSE becomes 6. -/
  | debugStepComplete (t : ThreadId)
  /-- R152. Every 2^LOG2P cycles a kind-0x07 sample of the next (core, slot) position is recorded. -/
  | sampleTick (c : CreelId)
  /-- R157. A write starts a thread at PC in the slot named by SLOT_SEL, optionally bound to a team, or is ignored with REJ. -/
  | slotStart (t : ThreadId) (v : Word)
  /-- R201. A write of CHPOOL declares the channel pool, ignored while any endpoint holds a buffer. -/
  | chpoolWrite (core : CoreId) (v : Word)
  /-- R242. A SYSWR of STATUS changes only its RW fields, leaving RM unchanged for values 6 and 7. -/
  | statusWrite (t : ThreadId) (v : Word)
  /-- R269. A SYSRD of DEV_DATA reads the die-block register named by DEV_ADDR, parking until performed. -/
  | devDataRead (t : ThreadId) (d : BitVec 7)
  /-- R269. A SYSWR of DEV_DATA writes the die-block register named by DEV_ADDR, parking until performed. -/
  | devDataWrite (t : ThreadId) (v : Word)
  /-- R8. A write of a register without a row of its own stores its fields under their access codes. -/
  | registerWrite (t : ThreadId) (n : BitVec 11) (v : Word)
  /-- R173. The barge slot takes the next FULL served mailbox, empties it and pushes the copy command for the requesting slot. -/
  | bargeTake (core : CoreId)
  /-- R176. A message for a service endpoint starts a handler thread in the lowest free fitting slot of its vector entry's class. -/
  | handlerStart (core : CoreId) (ep : Nat)
  /-- R171. A missed instruction line arrives from its home and the fetching thread issues. -/
  | icacheLineFill (t : ThreadId) (va : Nat) (pa : Nat) (bytes : List Byte) (status : Nat)
  /-- R182. A running repetition buffer issues one beat in its owner's slot and moves to the next instruction or iteration. -/
  | repBufferBeat (t : ThreadId)
  /-- R304. A WFE parked for 2^16 cycles completes. -/
  | wfeTimeout (t : ThreadId) (since : Nat)
  /-- R195. An arriving user message is checked in sequence order against ASTATE and written to its slot, or dropped and the endpoint closed with cause 5. -/
  | userMessageArrival (m : Msg)
  /-- R200. A Connect is handled by an ACCEPTING endpoint, held in the connect store, or answered Accept status 3. -/
  | connectMessage (m : Msg)
  /-- R199. An Accept completes the CONNECT: the endpoint opens with its peer and credit, or returns to BOUND with its status. -/
  | acceptMessage (m : Msg)
  /-- R203. A credit return adds its CRET to the endpoint's CREDIT, waking a send parked for credit. -/
  | creditReturn (m : Msg)
  /-- R213. A TRANSFER arrives at B's carrier and is checked and buffered for the RECV at the DEL state. -/
  | delegateTransfer (m : Msg)
  /-- R213. A on TAKEN sets FWD, sends REDIRECT and forwards unconsumed messages of X. -/
  | taken (m : Msg)
  /-- R213. P on REDIRECT sets PEER to Y and DCUT, and sends REDIRECTED to A and B. -/
  | redirect (m : Msg)
  /-- R213. At A it triggers forwarding the rest, FWD_END and buffer release; at Y it releases parked sends. -/
  | redirected (m : Msg)
  /-- R213. At Y it adds the carried credit and, with REDIRECTED in, makes Y OPEN. -/
  | fwdEnd (m : Msg)
  /-- R217. A closed notice closes the endpoint with cause 2 and the named state, or is dropped if already CLOSED or FREE. -/
  | closedNotice (m : Msg)
  /-- R206. The network interface helper runs an inline-code message's slots through the outside port, then consumes and credits it. -/
  | inlineCodeRun (core : CoreId) (ep : Nat)
  /-- R207. A load request is performed at its home and answered with status and data. -/
  | memLoad (q : MemReq)
  /-- R207. A posted store is performed at its home and acknowledged, or refused for a poisoned check unit. -/
  | memStore (q : MemReq)
  /-- R319. An atomic request reads and writes its word indivisibly at the home and returns the old value. -/
  | memAtomic (q : MemReq)
  /-- R229. A sub-byte store is applied as a read-modify-write of its byte in ORD sequence order. -/
  | memSubByteStore (q : MemReq)
  /-- R209. A destination add request adds each element indivisibly into the home's memory. -/
  | memDestAdd (q : MemReq)
  /-- R209. A destination minimum request applies minimum to each element indivisibly. -/
  | memDestMin (q : MemReq)
  /-- R209. A destination maximum request applies maximum to each element indivisibly. -/
  | memDestMax (q : MemReq)
  /-- R316. A full/empty operation is performed or recorded as a waiter at the home, and waiters are served after each bit change. -/
  | memFullEmpty (q : MemReq)
  /-- R207. A reply arrives at the requester, writing the waiting register or acknowledging a posted write, or causing RETRANSLATE reissue, poison or unbacked trap. -/
  | memoryReply (r : MemReply)
  /-- R317. A cancel from a stopped waiter removes its record, or finds it served and its reply completes the instruction. -/
  | waitCancel (q : MemReq)
  /-- R316. A wait held at its source for a full waiter store is resent when a record frees. -/
  | waiterStoreResend (q : MemReq)
  /-- R406. A tile request is checked and answered with TILE in walk order or TREF with a status. -/
  | treq (m : Msg)
  /-- R208. A tile write is checked, performed and answered TWACK, or TREF with a status. -/
  | twrite (m : Msg)
  /-- R208. TBYE ends the client's tile conversation at END. -/
  | tbye (m : Msg)
  /-- R335. The flight image has been read and checked, and AUTLOAD completes with the flight number or a refusal. -/
  | autloadComplete (t : ThreadId)
  /-- R97. An ENQ to a child's root creel is written into its ring if room, and answered. -/
  | enqRemoteArrival (t : ThreadId) (k : TeamKey) (pkt : List Byte)
  /-- R341. The target queue's answer arrives and completes the parked ENQ with its gd code. -/
  | enqAnswer (t : ThreadId) (code : Nat)
  /-- R345. An engine command's last write is performed and its result or completion entry enters. -/
  | engineCommandComplete (c : CreelId) (eng : Nat) (cmd : Nat)
  /-- R378. The matrix unit accepts the next queued M-form instruction and begins its D beats. -/
  | matrixAccept (core : CoreId)
  /-- R378. At the last beat all results commit at once, stream positions advance and the issuing thread wakes. -/
  | matrixCommit (core : CoreId)
  /-- R385. A multicast operand block arrives in a core's latch and is used, held, or completes the instance by mismatch. -/
  | mteamBlockArrival (core : CoreId) (blk : MBlock)
  /-- R386. A pairwise swap message arrives whole into the latch for writing to zb, or completes by mismatch. -/
  | mswapMessageArrival (core : CoreId) (m : SwapMsg)
  /-- R412. BOOT_CTL GO with KIND 1 clears presence and starts a discovery flood, or sets REJ. -/
  | bootDiscoveryFlood (die : Nat) (v : Word)
  /-- R413. BOOT_CTL GO with KIND 2 injects the image packets down the tree, or sets REJ. -/
  | bootImageFlood (die : Nat) (v : Word)
  /-- R412. A router taking a discovery flit first time records coordinates and parent, forwards it, and its usable creel answers. -/
  | floodFlitArrival (c : CreelId) (port : Nat) (f : FloodFlit)
  /-- R412. An answer at the boot unit sets its PRES bit and increments ANS, or sets LATE after the window. -/
  | floodAnswer (die : Nat) (f : FloodFlit)
  /-- R413. A router accepts an image packet from its parent, forwards it and its creel writes the bytes, acknowledging after the last. -/
  | imagePacketArrival (c : CreelId) (port : Nat) (f : FloodFlit)
  /-- R413. An acknowledgement increments IMGACK, clearing BUSY when it equals ANS. -/
  | imageAck (die : Nat) (f : FloodFlit)
  /-- R412. BUSY clears 4,096 cycles after a discovery start. -/
  | discoveryWindowEnd (die : Nat) (fnum : Byte)
  /-- R413. BUSY clears 65,536 cycles after an image start. -/
  | imageWindowEnd (die : Nat) (fnum : Byte)
  /-- R286. gd := ga + gb. -/
  | add (b : BitVec 7) (a : BitVec 7) (d : BitVec 7)
  /-- R286. gd := ga - gb. -/
  | sub (b : BitVec 7) (a : BitVec 7) (d : BitVec 7)
  /-- R286. Bitwise AND. -/
  | and (b : BitVec 7) (a : BitVec 7) (d : BitVec 7)
  /-- R286. Bitwise OR. -/
  | or (b : BitVec 7) (a : BitVec 7) (d : BitVec 7)
  /-- R286. Bitwise XOR. -/
  | xor (b : BitVec 7) (a : BitVec 7) (d : BitVec 7)
  /-- R286. ga AND NOT gb. -/
  | andn (b : BitVec 7) (a : BitVec 7) (d : BitVec 7)
  /-- R286. ga OR NOT gb. -/
  | orn (b : BitVec 7) (a : BitVec 7) (d : BitVec 7)
  /-- R286. Shift left by gb[5:0]. -/
  | shl (b : BitVec 7) (a : BitVec 7) (d : BitVec 7)
  /-- R286. Logical shift right by gb[5:0]. -/
  | shr (b : BitVec 7) (a : BitVec 7) (d : BitVec 7)
  /-- R286. Arithmetic shift right by gb[5:0]. -/
  | sar (b : BitVec 7) (a : BitVec 7) (d : BitVec 7)
  /-- R286. Rotate left by gb[5:0]. -/
  | rol (b : BitVec 7) (a : BitVec 7) (d : BitVec 7)
  /-- R286. Signed minimum. -/
  | min (b : BitVec 7) (a : BitVec 7) (d : BitVec 7)
  /-- R286. Signed maximum. -/
  | max (b : BitVec 7) (a : BitVec 7) (d : BitVec 7)
  /-- R286. Natural minimum. -/
  | minn (b : BitVec 7) (a : BitVec 7) (d : BitVec 7)
  /-- R286. Natural maximum. -/
  | maxn (b : BitVec 7) (a : BitVec 7) (d : BitVec 7)
  /-- R286. gd := ga if gd nonzero else gb, copying D and S. -/
  | sel (b : BitVec 7) (a : BitVec 7) (d : BitVec 7)
  /-- R287. Low 64 bits of the product. -/
  | mul (b : BitVec 7) (a : BitVec 7) (d : BitVec 7)
  /-- R287. High 64 bits of the signed product, 2 beats. -/
  | mulh (b : BitVec 7) (a : BitVec 7) (d : BitVec 7)
  /-- R287. High 64 bits of the natural product, 2 beats. -/
  | mulhn (b : BitVec 7) (a : BitVec 7) (d : BitVec 7)
  /-- R287. Signed quotient under R258, 4 beats. -/
  | div (b : BitVec 7) (a : BitVec 7) (d : BitVec 7)
  /-- R287. Natural quotient, 4 beats. -/
  | divn (b : BitVec 7) (a : BitVec 7) (d : BitVec 7)
  /-- R287. Signed remainder, 4 beats. -/
  | rem (b : BitVec 7) (a : BitVec 7) (d : BitVec 7)
  /-- R287. Natural remainder, 4 beats. -/
  | remn (b : BitVec 7) (a : BitVec 7) (d : BitVec 7)
  /-- R287. 1 if ga < gb signed. -/
  | slt (b : BitVec 7) (a : BitVec 7) (d : BitVec 7)
  /-- R287. 1 if ga < gb natural. -/
  | sltn (b : BitVec 7) (a : BitVec 7) (d : BitVec 7)
  /-- R287. 1 if ga = gb. -/
  | seq (b : BitVec 7) (a : BitVec 7) (d : BitVec 7)
  /-- R288. gd := ga + gb shifted left by sh. -/
  | lea (h : BitVec 4) (b : BitVec 7) (a : BitVec 7) (d : BitVec 7)
  /-- R288. Count leading zeros. -/
  | clz (a : BitVec 7) (d : BitVec 7)
  /-- R288. Count trailing zeros. -/
  | ctz (a : BitVec 7) (d : BitVec 7)
  /-- R288. Count set bits. -/
  | popc (a : BitVec 7) (d : BitVec 7)
  /-- R288. Reverse bits. -/
  | brev (a : BitVec 7) (d : BitVec 7)
  /-- R288. Reverse bytes. -/
  | bswap (a : BitVec 7) (d : BitVec 7)
  /-- R288. Sign-extend the low width bits. -/
  | exts (w : BitVec 7) (a : BitVec 7) (d : BitVec 7)
  /-- R288. Zero-extend the low width bits. -/
  | extz (w : BitVec 7) (a : BitVec 7) (d : BitVec 7)
  /-- R288. Extract a bit field, zero-extended. -/
  | bfx (l : BitVec 5) (p : BitVec 6) (a : BitVec 7) (d : BitVec 7)
  /-- R288. Insert a bit field into gd. -/
  | bfi (l : BitVec 5) (p : BitVec 6) (a : BitVec 7) (d : BitVec 7)
  /-- R289. gd := ga + imm. -/
  | addi (i : BitVec 11) (a : BitVec 7) (d : BitVec 7)
  /-- R289. gd := ga AND imm. -/
  | andi (i : BitVec 11) (a : BitVec 7) (d : BitVec 7)
  /-- R289. gd := ga OR imm. -/
  | ori (i : BitVec 11) (a : BitVec 7) (d : BitVec 7)
  /-- R289. gd := ga XOR imm. -/
  | xori (i : BitVec 11) (a : BitVec 7) (d : BitVec 7)
  /-- R289. Shift left by n. -/
  | shli (n : BitVec 6) (a : BitVec 7) (d : BitVec 7)
  /-- R289. Logical shift right by n. -/
  | shri (n : BitVec 6) (a : BitVec 7) (d : BitVec 7)
  /-- R289. Arithmetic shift right by n. -/
  | sari (n : BitVec 6) (a : BitVec 7) (d : BitVec 7)
  /-- R289. 1 if ga < imm signed. -/
  | slti (i : BitVec 11) (a : BitVec 7) (d : BitVec 7)
  /-- R289. 1 if ga < imm natural. -/
  | sltni (i : BitVec 11) (a : BitVec 7) (d : BitVec 7)
  /-- R289. Low 64 bits of ga × imm. -/
  | muli (i : BitVec 11) (a : BitVec 7) (d : BitVec 7)
  /-- R290. gd := sign-extended imm18. -/
  | li (i : BitVec 18) (d : BitVec 7)
  /-- R290. gd := gd × 2^18 + imm18. -/
  | lix (i : BitVec 18) (d : BitVec 7)
  /-- R291. Branch if ga = 0. -/
  | bz (i : BitVec 16) (a : BitVec 7)
  /-- R291. Branch if ga ≠ 0. -/
  | bnz (i : BitVec 16) (a : BitVec 7)
  /-- R291. Branch if ga < 0. -/
  | bltz (i : BitVec 16) (a : BitVec 7)
  /-- R291. Branch if ga ≥ 0. -/
  | bgez (i : BitVec 16) (a : BitVec 7)
  /-- R292. Jump by disp18 slots, linking the next slot. -/
  | jal (i : BitVec 18) (d : BitVec 7)
  /-- R311. Load n bytes at ga + off, extended, with S clear. -/
  | ld (o : BitVec 8) (w : BitVec 3) (a : BitVec 7) (d : BitVec 7)
  /-- R311. Load at ga + gb unscaled. -/
  | ldx (w : BitVec 4) (b : BitVec 7) (a : BitVec 7) (d : BitVec 7)
  /-- R312. Store the low n bytes of gs, final-rounding when S is set. -/
  | st (o : BitVec 8) (w : BitVec 3) (a : BitVec 7) (s : BitVec 7)
  /-- R311. Acquire load. -/
  | lda (o : BitVec 8) (w : BitVec 3) (a : BitVec 7) (d : BitVec 7)
  /-- R312. Release store. -/
  | stl (o : BitVec 8) (w : BitVec 3) (a : BitVec 7) (s : BitVec 7)
  /-- R313. Store D with S in quarter-0 tag. -/
  | spill (i : BitVec 11) (a : BitVec 7) (s : BitVec 7)
  /-- R313. Load D with S from quarter-0 tag. -/
  | fill (i : BitVec 11) (a : BitVec 7) (d : BitVec 7)
  /-- R315. Wait for FULL, read and set EMPTY. -/
  | ldfe (a : BitVec 7) (d : BitVec 7)
  /-- R315. Wait for FULL and read. -/
  | ldff (a : BitVec 7) (d : BitVec 7)
  /-- R315. Wait for EMPTY, write and set FULL. -/
  | stef (b : BitVec 7) (a : BitVec 7)
  /-- R315. Write and set FULL. -/
  | stff (b : BitVec 7) (a : BitVec 7)
  /-- R315. Set the word EMPTY. -/
  | feset (a : BitVec 7)
  /-- R315. Read the full/empty bit. -/
  | fepeek (a : BitVec 7) (d : BitVec 7)
  /-- R318. Write gb[3:0] into the low nibble. -/
  | sbstLo (b : BitVec 7) (a : BitVec 7)
  /-- R318. Write gb[3:0] into the high nibble. -/
  | sbstHi (b : BitVec 7) (a : BitVec 7)
  /-- R319. Relaxed atomic add. -/
  | amoadd (b : BitVec 7) (a : BitVec 7) (d : BitVec 7)
  /-- R319. Relaxed atomic AND. -/
  | amoand (b : BitVec 7) (a : BitVec 7) (d : BitVec 7)
  /-- R319. Relaxed atomic OR. -/
  | amoor (b : BitVec 7) (a : BitVec 7) (d : BitVec 7)
  /-- R319. Relaxed atomic XOR. -/
  | amoxor (b : BitVec 7) (a : BitVec 7) (d : BitVec 7)
  /-- R319. Relaxed atomic signed minimum. -/
  | amomin (b : BitVec 7) (a : BitVec 7) (d : BitVec 7)
  /-- R319. Relaxed atomic signed maximum. -/
  | amomax (b : BitVec 7) (a : BitVec 7) (d : BitVec 7)
  /-- R319. Relaxed atomic swap. -/
  | amoswap (b : BitVec 7) (a : BitVec 7) (d : BitVec 7)
  /-- R319. Relaxed compare-and-swap. -/
  | amocas (b : BitVec 7) (a : BitVec 7) (d : BitVec 7)
  /-- R320. Relaxed atomic floating add on a W32 element with S. -/
  | amofadd (b : BitVec 7) (a : BitVec 7) (d : BitVec 7)
  /-- R321. Release count-down that fills the word at zero. -/
  | amodf (b : BitVec 7) (a : BitVec 7) (d : BitVec 7)
  /-- R319. Acquire atomic add. -/
  | amoaddAcq (b : BitVec 7) (a : BitVec 7) (d : BitVec 7)
  /-- R319. Acquire atomic AND. -/
  | amoandAcq (b : BitVec 7) (a : BitVec 7) (d : BitVec 7)
  /-- R319. Acquire atomic OR. -/
  | amoorAcq (b : BitVec 7) (a : BitVec 7) (d : BitVec 7)
  /-- R319. Acquire atomic XOR. -/
  | amoxorAcq (b : BitVec 7) (a : BitVec 7) (d : BitVec 7)
  /-- R319. Acquire atomic minimum. -/
  | amominAcq (b : BitVec 7) (a : BitVec 7) (d : BitVec 7)
  /-- R319. Acquire atomic maximum. -/
  | amomaxAcq (b : BitVec 7) (a : BitVec 7) (d : BitVec 7)
  /-- R319. Acquire atomic swap. -/
  | amoswapAcq (b : BitVec 7) (a : BitVec 7) (d : BitVec 7)
  /-- R319. Acquire compare-and-swap. -/
  | amocasAcq (b : BitVec 7) (a : BitVec 7) (d : BitVec 7)
  /-- R320. Acquire atomic floating add. -/
  | amofaddAcq (b : BitVec 7) (a : BitVec 7) (d : BitVec 7)
  /-- R321. Acquire and release count-down fill. -/
  | amodfAcq (b : BitVec 7) (a : BitVec 7) (d : BitVec 7)
  /-- R319. Release atomic add. -/
  | amoaddRel (b : BitVec 7) (a : BitVec 7) (d : BitVec 7)
  /-- R319. Release atomic AND. -/
  | amoandRel (b : BitVec 7) (a : BitVec 7) (d : BitVec 7)
  /-- R319. Release atomic OR. -/
  | amoorRel (b : BitVec 7) (a : BitVec 7) (d : BitVec 7)
  /-- R319. Release atomic XOR. -/
  | amoxorRel (b : BitVec 7) (a : BitVec 7) (d : BitVec 7)
  /-- R319. Release atomic minimum. -/
  | amominRel (b : BitVec 7) (a : BitVec 7) (d : BitVec 7)
  /-- R319. Release atomic maximum. -/
  | amomaxRel (b : BitVec 7) (a : BitVec 7) (d : BitVec 7)
  /-- R319. Release atomic swap. -/
  | amoswapRel (b : BitVec 7) (a : BitVec 7) (d : BitVec 7)
  /-- R319. Release compare-and-swap. -/
  | amocasRel (b : BitVec 7) (a : BitVec 7) (d : BitVec 7)
  /-- R320. Release atomic floating add. -/
  | amofaddRel (b : BitVec 7) (a : BitVec 7) (d : BitVec 7)
  /-- R321. Release count-down fill. -/
  | amodfRel (b : BitVec 7) (a : BitVec 7) (d : BitVec 7)
  /-- R322. Acquire fence. -/
  | fenceAcq
  /-- R322. Release fence; waits for posted writes. -/
  | fenceRel
  /-- R322. Full fence. -/
  | fenceFull
  /-- R323. Waits for posted writes and discards unlocked instruction-cache lines. -/
  | ifence
  /-- R325. Release arrival at a phase barrier, returning the phase. -/
  | barrive (a : BitVec 7) (d : BitVec 7)
  /-- R326. Acquire wait until BPH differs from gb. -/
  | bwait (b : BitVec 7) (a : BitVec 7)
  /-- R328. Parks until a message-queue entry for the slot is present. -/
  | waitmsg
  /-- R328. Pops the slot's oldest entry into gd and g(d+1), 2 beats. -/
  | msgpop (d : BitVec 7)
  /-- R327. Wait for EMPTY, fill mailbox N with ga. -/
  | mbput (n : BitVec 4) (a : BitVec 7)
  /-- R327. Wait for FULL, take mailbox N. -/
  | mbget (n : BitVec 4) (d : BitVec 7)
  /-- R329. Release write of SEQTAG into a tile's metadata word. -/
  | tagset (b : BitVec 7) (a : BitVec 7)
  /-- R294. Floating add under R246. -/
  | fadd (b : BitVec 7) (a : BitVec 7) (d : BitVec 7)
  /-- R294. Floating subtract. -/
  | fsub (b : BitVec 7) (a : BitVec 7) (d : BitVec 7)
  /-- R294. Floating multiply. -/
  | fmul (b : BitVec 7) (a : BitVec 7) (d : BitVec 7)
  /-- R294. Floating divide, 4 beats. -/
  | fdiv (b : BitVec 7) (a : BitVec 7) (d : BitVec 7)
  /-- R294. Floating square root, 4 beats. -/
  | fsqrt (a : BitVec 7) (d : BitVec 7)
  /-- R294. Floating minimum under R248. -/
  | fmin (b : BitVec 7) (a : BitVec 7) (d : BitVec 7)
  /-- R294. Floating maximum under R248. -/
  | fmax (b : BitVec 7) (a : BitVec 7) (d : BitVec 7)
  /-- R294. Clear the sign, keeping S. -/
  | fabs (a : BitVec 7) (d : BitVec 7)
  /-- R294. Invert the sign, keeping S. -/
  | fneg (a : BitVec 7) (d : BitVec 7)
  /-- R295. Compare under R247 writing one result bit. -/
  | fcmp (b : BitVec 7) (a : BitVec 7) (d : BitVec 7)
  /-- R295. Classify the value and S. -/
  | fclass (a : BitVec 7) (d : BitVec 7)
  /-- R294. gd := ga × gb + gd with one RoundOdd. -/
  | ffma (b : BitVec 7) (a : BitVec 7) (d : BitVec 7)
  /-- R296. Convert between register types, optionally keeping S into W19. -/
  | fcvt (k : BitVec 1) (y : BitVec 3) (x : BitVec 3) (a : BitVec 7) (d : BitVec 7)
  /-- R297. Final-round into W32 under a chosen mode. -/
  | frnd (o : BitVec 3) (a : BitVec 7) (d : BitVec 7)
  /-- R298. gd := S of ga. -/
  | sget (a : BitVec 7) (d : BitVec 7)
  /-- R298. Copy D, S := S OR (gb ≠ 0). -/
  | sset (b : BitVec 7) (a : BitVec 7) (d : BitVec 7)
  /-- R298. Copy D with S clear. -/
  | sclr (a : BitVec 7) (d : BitVec 7)
  /-- R299. Encode a held value through a codebook slot. -/
  | qenc (w : BitVec 1) (a : BitVec 7) (d : BitVec 7)
  /-- R299. Decode a codebook code to W32. -/
  | qdec (w : BitVec 1) (a : BitVec 7) (d : BitVec 7)
  /-- R300. Load 1,024 bytes into codebook slot n, written at the end. -/
  | cbload (n : BitVec 2) (a : BitVec 7)
  /-- R302. Packed W32 add. -/
  | paddW32 (b : BitVec 7) (a : BitVec 7) (d : BitVec 7)
  /-- R302. Packed W32 subtract. -/
  | psubW32 (b : BitVec 7) (a : BitVec 7) (d : BitVec 7)
  /-- R302. Packed W32 multiply. -/
  | pmulW32 (b : BitVec 7) (a : BitVec 7) (d : BitVec 7)
  /-- R302. Packed W32 fused multiply-add. -/
  | pfmaW32 (b : BitVec 7) (a : BitVec 7) (d : BitVec 7)
  /-- R302. Packed W32 minimum. -/
  | pminW32 (b : BitVec 7) (a : BitVec 7) (d : BitVec 7)
  /-- R302. Packed W32 maximum. -/
  | pmaxW32 (b : BitVec 7) (a : BitVec 7) (d : BitVec 7)
  /-- R302. Packed W32 dot product into held gd. -/
  | pdotW32 (b : BitVec 7) (a : BitVec 7) (d : BitVec 7)
  /-- R302. Packed W32 lane shuffle. -/
  | pshufW32 (b : BitVec 7) (a : BitVec 7) (d : BitVec 7)
  /-- R303. Convert W32 lanes to BF16. -/
  | pcvtBf16W32 (g : BitVec 2) (a : BitVec 7) (d : BitVec 7)
  /-- R303. Convert W32 lanes to FP16. -/
  | pcvtFp16W32 (g : BitVec 2) (a : BitVec 7) (d : BitVec 7)
  /-- R303. Convert W32 lanes to INT8. -/
  | pcvtI8W32 (g : BitVec 2) (a : BitVec 7) (d : BitVec 7)
  /-- R303. Convert W32 lanes to INT32. -/
  | pcvtI32W32 (g : BitVec 2) (a : BitVec 7) (d : BitVec 7)
  /-- R302. Packed BF16 add. -/
  | paddBf16 (b : BitVec 7) (a : BitVec 7) (d : BitVec 7)
  /-- R302. Packed BF16 subtract. -/
  | psubBf16 (b : BitVec 7) (a : BitVec 7) (d : BitVec 7)
  /-- R302. Packed BF16 multiply. -/
  | pmulBf16 (b : BitVec 7) (a : BitVec 7) (d : BitVec 7)
  /-- R302. Packed BF16 fused multiply-add. -/
  | pfmaBf16 (b : BitVec 7) (a : BitVec 7) (d : BitVec 7)
  /-- R302. Packed BF16 minimum. -/
  | pminBf16 (b : BitVec 7) (a : BitVec 7) (d : BitVec 7)
  /-- R302. Packed BF16 maximum. -/
  | pmaxBf16 (b : BitVec 7) (a : BitVec 7) (d : BitVec 7)
  /-- R302. Packed BF16 dot product. -/
  | pdotBf16 (b : BitVec 7) (a : BitVec 7) (d : BitVec 7)
  /-- R302. Packed BF16 lane shuffle. -/
  | pshufBf16 (b : BitVec 7) (a : BitVec 7) (d : BitVec 7)
  /-- R303. Convert BF16 lanes to W32. -/
  | pcvtW32Bf16 (g : BitVec 2) (a : BitVec 7) (d : BitVec 7)
  /-- R303. Convert BF16 lanes to FP16. -/
  | pcvtFp16Bf16 (g : BitVec 2) (a : BitVec 7) (d : BitVec 7)
  /-- R303. Convert BF16 lanes to INT8. -/
  | pcvtI8Bf16 (g : BitVec 2) (a : BitVec 7) (d : BitVec 7)
  /-- R303. Convert BF16 lanes to INT32. -/
  | pcvtI32Bf16 (g : BitVec 2) (a : BitVec 7) (d : BitVec 7)
  /-- R302. Packed FP16 add. -/
  | paddFp16 (b : BitVec 7) (a : BitVec 7) (d : BitVec 7)
  /-- R302. Packed FP16 subtract. -/
  | psubFp16 (b : BitVec 7) (a : BitVec 7) (d : BitVec 7)
  /-- R302. Packed FP16 multiply. -/
  | pmulFp16 (b : BitVec 7) (a : BitVec 7) (d : BitVec 7)
  /-- R302. Packed FP16 fused multiply-add. -/
  | pfmaFp16 (b : BitVec 7) (a : BitVec 7) (d : BitVec 7)
  /-- R302. Packed FP16 minimum. -/
  | pminFp16 (b : BitVec 7) (a : BitVec 7) (d : BitVec 7)
  /-- R302. Packed FP16 maximum. -/
  | pmaxFp16 (b : BitVec 7) (a : BitVec 7) (d : BitVec 7)
  /-- R302. Packed FP16 dot product. -/
  | pdotFp16 (b : BitVec 7) (a : BitVec 7) (d : BitVec 7)
  /-- R302. Packed FP16 lane shuffle. -/
  | pshufFp16 (b : BitVec 7) (a : BitVec 7) (d : BitVec 7)
  /-- R303. Convert FP16 lanes to W32. -/
  | pcvtW32Fp16 (g : BitVec 2) (a : BitVec 7) (d : BitVec 7)
  /-- R303. Convert FP16 lanes to BF16. -/
  | pcvtBf16Fp16 (g : BitVec 2) (a : BitVec 7) (d : BitVec 7)
  /-- R303. Convert FP16 lanes to INT8. -/
  | pcvtI8Fp16 (g : BitVec 2) (a : BitVec 7) (d : BitVec 7)
  /-- R303. Convert FP16 lanes to INT32. -/
  | pcvtI32Fp16 (g : BitVec 2) (a : BitVec 7) (d : BitVec 7)
  /-- R302. Packed INT8 add. -/
  | paddI8 (b : BitVec 7) (a : BitVec 7) (d : BitVec 7)
  /-- R302. Packed INT8 subtract. -/
  | psubI8 (b : BitVec 7) (a : BitVec 7) (d : BitVec 7)
  /-- R302. Packed INT8 multiply. -/
  | pmulI8 (b : BitVec 7) (a : BitVec 7) (d : BitVec 7)
  /-- R302. Packed INT8 multiply-add. -/
  | pfmaI8 (b : BitVec 7) (a : BitVec 7) (d : BitVec 7)
  /-- R302. Packed INT8 minimum. -/
  | pminI8 (b : BitVec 7) (a : BitVec 7) (d : BitVec 7)
  /-- R302. Packed INT8 maximum. -/
  | pmaxI8 (b : BitVec 7) (a : BitVec 7) (d : BitVec 7)
  /-- R302. Packed INT8 dot product into gd[31:0]. -/
  | pdotI8 (b : BitVec 7) (a : BitVec 7) (d : BitVec 7)
  /-- R302. Packed INT8 lane shuffle. -/
  | pshufI8 (b : BitVec 7) (a : BitVec 7) (d : BitVec 7)
  /-- R303. Convert INT8 lanes to W32. -/
  | pcvtW32I8 (g : BitVec 2) (a : BitVec 7) (d : BitVec 7)
  /-- R303. Convert INT8 lanes to BF16. -/
  | pcvtBf16I8 (g : BitVec 2) (a : BitVec 7) (d : BitVec 7)
  /-- R303. Convert INT8 lanes to FP16. -/
  | pcvtFp16I8 (g : BitVec 2) (a : BitVec 7) (d : BitVec 7)
  /-- R303. Convert INT8 lanes to INT32. -/
  | pcvtI32I8 (g : BitVec 2) (a : BitVec 7) (d : BitVec 7)
  /-- R302. Packed INT32 add. -/
  | paddI32 (b : BitVec 7) (a : BitVec 7) (d : BitVec 7)
  /-- R302. Packed INT32 subtract. -/
  | psubI32 (b : BitVec 7) (a : BitVec 7) (d : BitVec 7)
  /-- R302. Packed INT32 multiply. -/
  | pmulI32 (b : BitVec 7) (a : BitVec 7) (d : BitVec 7)
  /-- R302. Packed INT32 multiply-add. -/
  | pfmaI32 (b : BitVec 7) (a : BitVec 7) (d : BitVec 7)
  /-- R302. Packed INT32 minimum. -/
  | pminI32 (b : BitVec 7) (a : BitVec 7) (d : BitVec 7)
  /-- R302. Packed INT32 maximum. -/
  | pmaxI32 (b : BitVec 7) (a : BitVec 7) (d : BitVec 7)
  /-- R302. Packed INT32 dot product into gd. -/
  | pdotI32 (b : BitVec 7) (a : BitVec 7) (d : BitVec 7)
  /-- R302. Packed INT32 lane shuffle. -/
  | pshufI32 (b : BitVec 7) (a : BitVec 7) (d : BitVec 7)
  /-- R303. Convert INT32 lanes to W32. -/
  | pcvtW32I32 (g : BitVec 2) (a : BitVec 7) (d : BitVec 7)
  /-- R303. Convert INT32 lanes to BF16. -/
  | pcvtBf16I32 (g : BitVec 2) (a : BitVec 7) (d : BitVec 7)
  /-- R303. Convert INT32 lanes to FP16. -/
  | pcvtFp16I32 (g : BitVec 2) (a : BitVec 7) (d : BitVec 7)
  /-- R303. Convert INT32 lanes to INT8 with saturation. -/
  | pcvtI8I32 (g : BitVec 2) (a : BitVec 7) (d : BitVec 7)
  /-- R290. gd := slot address + 4 × imm18. -/
  | addpc (i : BitVec 18) (d : BitVec 7)
  /-- R292. Jump to ga + 4 × imm11, linking the next slot. -/
  | jalr (i : BitVec 11) (a : BitVec 7) (d : BitVec 7)
  /-- R293. Decrement ga and branch if nonzero. -/
  | loop (i : BitVec 16) (a : BitVec 7)
  /-- R304. No effect. -/
  | nop
  /-- R304. Parks for one rotation. -/
  | yield
  /-- R304. Stops issuing; a SLOT_START thread is ended and its slot freed after its writes and commands complete. -/
  | halt
  /-- R276. Returns from a trap handler to xpc. -/
  | xret
  /-- R305. Halts the creel with BKH, otherwise raises BREAK. -/
  | bkpt
  /-- R304. Parks until a message for the slot, a FULL mailbox, or 2^16 cycles. -/
  | wfe
  /-- R307. Reads a performance counter. -/
  | perfrd (a : BitVec 7) (d : BitVec 7)
  /-- R305. Raises TRAP with xinfo = n. -/
  | trap (i : BitVec 11)
  /-- R306. Reads a system register. -/
  | sysrd (i : BitVec 11) (d : BitVec 7)
  /-- R306. Writes a system register. -/
  | syswr (i : BitVec 11) (a : BitVec 7)
  /-- R341. Enqueues a work packet as a release and parks until the target queue answers. -/
  | enq (a : BitVec 7) (d : BitVec 7)
  /-- R341. Ends the task after its writes and commands, frees endpoints, slot and registers, and joins the done combination. -/
  | tdone (a : BitVec 7)
  /-- R341. Raises task progress and the team's progress counter. -/
  | progress (a : BitVec 7)
  /-- R342. Pushes a 64-byte command to an engine as a release. -/
  | pushc (b : BitVec 7) (a : BitVec 7)
  /-- R343. Pops an engine result for the slot, acquiring its writes. -/
  | popr (a : BitVec 7) (d : BitVec 7)
  /-- R346. Begins a static region, checking banks and locking code lines. -/
  | srbegin (a : BitVec 7)
  /-- R346. Ends a static region and releases locked lines. -/
  | srend
  /-- R347. Loads up to 8 instruction slots and staggers into the repetition buffer. -/
  | repload (b : BitVec 7) (a : BitVec 7)
  /-- R347. Runs the loaded body g(a) times from iteration gb. -/
  | reprun (b : BitVec 7) (a : BitVec 7)
  /-- R347. Ends the running repetition run after its current instruction. -/
  | repstop
  /-- R338. Sends a payload at a SEND state, taking credit. -/
  | send (a : BitVec 7) (t : BitVec 8) (e : BitVec 6)
  /-- R337. Sends a stream walk converted to the link format. -/
  | sendt (a : BitVec 7) (t : BitVec 8) (e : BitVec 6)
  /-- R339. Consumes the next message at a RECV state, or takes a delegated endpoint at a DEL state. -/
  | recv (a : BitVec 7) (t : BitVec 8) (e : BitVec 6)
  /-- R337. Receives a tile through a stream write walk. -/
  | recvt (a : BitVec 7) (t : BitVec 8) (e : BitVec 6)
  /-- R337. Consumes the message of any branch at an OFFER state. -/
  | offer (a : BitVec 7) (e : BitVec 6)
  /-- R337. Sends the named branch at a SELECT state. -/
  | select (a : BitVec 7) (t : BitVec 8) (e : BitVec 6)
  /-- R340. Sends TRANSFER of an endpoint through a DEL carrier; the endpoint becomes DELEGATED. -/
  | deleg (a : BitVec 7) (e : BitVec 6)
  /-- R335. Loads a flight image into the automaton store, parking until checked. -/
  | autload (a : BitVec 7)
  /-- R335. Binds a FREE endpoint to a flight. -/
  | epopen (a : BitVec 7) (e : BitVec 6)
  /-- R336. Reserves a buffer and sends Connect, parking until Accept. -/
  | connect (a : BitVec 7) (e : BitVec 6)
  /-- R336. Reserves a buffer and waits for a Connect to handle. -/
  | accept (a : BitVec 7) (e : BitVec 6)
  /-- R335. Closes the endpoint with cause 1 and sends a notice. -/
  | close (a : BitVec 7) (e : BitVec 6)
  /-- R335. Reads an endpoint word, setting SEEN on a closed endpoint. -/
  | epstat (a : BitVec 7) (e : BitVec 6)
  /-- R185. Frees the endpoint and its buffer, closing or waiting for FWD_END first as needed. -/
  | epfree (e : BitVec 6)
  /-- R335. Writes a vector-table entry for a message type. -/
  | msgvec (a : BitVec 7) (t : BitVec 8)
  /-- R363. Elementwise add. -/
  | vadd (r : BitVec 2) (t : BitVec 3) (b : BitVec 3) (a : BitVec 3) (d : BitVec 3)
  /-- R363. Elementwise subtract. -/
  | vsub (r : BitVec 2) (t : BitVec 3) (b : BitVec 3) (a : BitVec 3) (d : BitVec 3)
  /-- R363. Elementwise multiply. -/
  | vmul (r : BitVec 2) (t : BitVec 3) (b : BitVec 3) (a : BitVec 3) (d : BitVec 3)
  /-- R363. Elementwise fused multiply-add. -/
  | vfma (r : BitVec 2) (t : BitVec 3) (c : BitVec 3) (b : BitVec 3) (a : BitVec 3) (d : BitVec 3)
  /-- R363. Elementwise minimum. -/
  | vmin (r : BitVec 2) (t : BitVec 3) (b : BitVec 3) (a : BitVec 3) (d : BitVec 3)
  /-- R363. Elementwise maximum. -/
  | vmax (r : BitVec 2) (t : BitVec 3) (b : BitVec 3) (a : BitVec 3) (d : BitVec 3)
  /-- R363. Elementwise absolute value. -/
  | vabs (r : BitVec 2) (t : BitVec 3) (a : BitVec 3) (d : BitVec 3)
  /-- R363. Elementwise negation. -/
  | vneg (r : BitVec 2) (t : BitVec 3) (a : BitVec 3) (d : BitVec 3)
  /-- R363. Copies elements with their S unchanged. -/
  | vcpy (t : BitVec 3) (a : BitVec 3) (d : BitVec 3)
  /-- R363. Fills the destination with one source element. -/
  | vfill (t : BitVec 3) (a : BitVec 3) (d : BitVec 3)
  /-- R363. Elementwise clamp between two streams. -/
  | vclamp (r : BitVec 2) (t : BitVec 3) (c : BitVec 3) (b : BitVec 3) (a : BitVec 3) (d : BitVec 3)
  /-- R364. Multiplies each element by its block scale. -/
  | vscl (r : BitVec 2) (t : BitVec 3) (c : BitVec 3) (b : BitVec 3) (a : BitVec 3) (d : BitVec 3)
  /-- R365. Elementwise 2^x. -/
  | vexp2 (r : BitVec 2) (t : BitVec 3) (a : BitVec 3) (d : BitVec 3)
  /-- R365. Elementwise log2. -/
  | vlog2 (r : BitVec 2) (t : BitVec 3) (a : BitVec 3) (d : BitVec 3)
  /-- R365. Elementwise reciprocal. -/
  | vrcp (r : BitVec 2) (t : BitVec 3) (a : BitVec 3) (d : BitVec 3)
  /-- R365. Elementwise reciprocal square root. -/
  | vrsq (r : BitVec 2) (t : BitVec 3) (a : BitVec 3) (d : BitVec 3)
  /-- R365. Elementwise square root. -/
  | vsqrt (r : BitVec 2) (t : BitVec 3) (a : BitVec 3) (d : BitVec 3)
  /-- R365. Elementwise tanh. -/
  | vtanh (r : BitVec 2) (t : BitVec 3) (a : BitVec 3) (d : BitVec 3)
  /-- R365. Elementwise sigmoid. -/
  | vsigm (r : BitVec 2) (t : BitVec 3) (a : BitVec 3) (d : BitVec 3)
  /-- R366. Row sum in the fixed tree order. -/
  | vrsum (r : BitVec 2) (t : BitVec 3) (a : BitVec 3) (d : BitVec 3)
  /-- R366. Row maximum fold. -/
  | vrmax (r : BitVec 2) (t : BitVec 3) (a : BitVec 3) (d : BitVec 3)
  /-- R366. Row minimum fold. -/
  | vrmin (r : BitVec 2) (t : BitVec 3) (a : BitVec 3) (d : BitVec 3)
  /-- R366. Inclusive prefix sum per row. -/
  | vscan (r : BitVec 2) (t : BitVec 3) (a : BitVec 3) (d : BitVec 3)
  /-- R366. Row dot products. -/
  | vdot (r : BitVec 2) (t : BitVec 3) (b : BitVec 3) (a : BitVec 3) (d : BitVec 3)
  /-- R366. Count of nonzero row elements. -/
  | vcount (r : BitVec 2) (t : BitVec 3) (a : BitVec 3) (d : BitVec 3)
  /-- R367. Elementwise equal compare. -/
  | vcmpEq (r : BitVec 2) (t : BitVec 3) (b : BitVec 3) (a : BitVec 3) (d : BitVec 3)
  /-- R367. Elementwise not-equal compare. -/
  | vcmpNe (r : BitVec 2) (t : BitVec 3) (b : BitVec 3) (a : BitVec 3) (d : BitVec 3)
  /-- R367. Elementwise less-than compare. -/
  | vcmpLt (r : BitVec 2) (t : BitVec 3) (b : BitVec 3) (a : BitVec 3) (d : BitVec 3)
  /-- R367. Elementwise less-or-equal compare. -/
  | vcmpLe (r : BitVec 2) (t : BitVec 3) (b : BitVec 3) (a : BitVec 3) (d : BitVec 3)
  /-- R367. Elementwise greater-than compare. -/
  | vcmpGt (r : BitVec 2) (t : BitVec 3) (b : BitVec 3) (a : BitVec 3) (d : BitVec 3)
  /-- R367. Elementwise greater-or-equal compare. -/
  | vcmpGe (r : BitVec 2) (t : BitVec 3) (b : BitVec 3) (a : BitVec 3) (d : BitVec 3)
  /-- R367. Selects a or b by c. -/
  | vsel (r : BitVec 2) (t : BitVec 3) (c : BitVec 3) (b : BitVec 3) (a : BitVec 3) (d : BitVec 3)
  /-- R367. Elementwise AND. -/
  | vand (r : BitVec 2) (t : BitVec 3) (b : BitVec 3) (a : BitVec 3) (d : BitVec 3)
  /-- R367. Elementwise OR. -/
  | vor (r : BitVec 2) (t : BitVec 3) (b : BitVec 3) (a : BitVec 3) (d : BitVec 3)
  /-- R367. Elementwise XOR. -/
  | vxor (r : BitVec 2) (t : BitVec 3) (b : BitVec 3) (a : BitVec 3) (d : BitVec 3)
  /-- R367. Elementwise shift left. -/
  | vshl (r : BitVec 2) (t : BitVec 3) (b : BitVec 3) (a : BitVec 3) (d : BitVec 3)
  /-- R367. Elementwise shift right. -/
  | vshr (r : BitVec 2) (t : BitVec 3) (b : BitVec 3) (a : BitVec 3) (d : BitVec 3)
  /-- R368. Gathers source elements by index stream. -/
  | vgath (t : BitVec 3) (b : BitVec 3) (a : BitVec 3) (d : BitVec 3)
  /-- R368. Scatters elements by index stream. -/
  | vscat (t : BitVec 3) (b : BitVec 3) (a : BitVec 3) (d : BitVec 3)
  /-- R368. Shuffles each beat's window. -/
  | vshuf (t : BitVec 3) (b : BitVec 3) (a : BitVec 3) (d : BitVec 3)
  /-- R368. Writes walk positions or global indices. -/
  | viota (r : BitVec 2) (t : BitVec 3) (d : BitVec 3)
  /-- R369. Converts element types. -/
  | vcvt (r : BitVec 2) (t : BitVec 3) (a : BitVec 3) (d : BitVec 3)
  /-- R369. Scales by E8M0 and encodes through a codebook. -/
  | vqenc (r : BitVec 2) (t : BitVec 3) (c : BitVec 3) (b : BitVec 3) (a : BitVec 3) (d : BitVec 3)
  /-- R369. Decodes codes and applies E8M0 scales. -/
  | vqdec (r : BitVec 2) (t : BitVec 3) (c : BitVec 3) (b : BitVec 3) (a : BitVec 3) (d : BitVec 3)
  /-- R354. Binds a stream register to a memory base and shape record. -/
  | zbind (b : BitVec 7) (a : BitVec 7) (n : BitVec 3)
  /-- R355. Binds a stream register to an endpoint and shape record. -/
  | zbindc (b : BitVec 7) (a : BitVec 7) (n : BitVec 3)
  /-- R356. Reads a stream register's binding and position. -/
  | zstat (n : BitVec 3) (d : BitVec 7)
  /-- R375. Loads the slot's matrix descriptor. -/
  | mset (a : BitVec 3)
  /-- R388. Clears n accumulator regions. -/
  | mclr (n : BitVec 2) (q : BitVec 3)
  /-- R387. Fills an accumulator tile from a stream. -/
  | mload (c : BitVec 3) (a : BitVec 3) (q : BitVec 3)
  /-- R389. Reads the slot's matrix status. -/
  | mstat (a : BitVec 3)
  /-- R381. Matrix multiply-accumulate into accumulators. -/
  | mma (c : BitVec 3) (z : BitVec 1) (b : BitVec 3) (a : BitVec 3) (q : BitVec 3)
  /-- R381. Row-gathered matrix multiply-accumulate. -/
  | mmag (c : BitVec 3) (z : BitVec 1) (x : BitVec 3) (b : BitVec 3) (a : BitVec 3) (q : BitVec 3)
  /-- R384. Team-grid matrix product with multicast operands. -/
  | mteam (c : BitVec 3) (z : BitVec 1) (b : BitVec 3) (a : BitVec 3) (q : BitVec 3)
  /-- R386. Exchanges a stream with the mirrored grid core. -/
  | mswap (b : BitVec 3) (a : BitVec 3)
  /-- R387. Fills an accumulator tile with the transpose of a stream. -/
  | mldt (c : BitVec 3) (a : BitVec 3) (q : BitVec 3)
  /-- R391. Writes an accumulator tile through scale, bias and activation to a stream. -/
  | mepi (r : BitVec 2) (p : BitVec 1) (o : BitVec 1) (g : BitVec 1) (n : BitVec 1) (b : BitVec 3) (a : BitVec 3) (q : BitVec 3)
  /-- R264. Compact OR gd, ga, g0. -/
  | cMov (a : BitVec 5) (d : BitVec 5)
  /-- R264. Compact ADD gd, gd, ga. -/
  | cAdd (a : BitVec 5) (d : BitVec 5)
  /-- R264. Compact SUB gd, gd, ga. -/
  | cSub (a : BitVec 5) (d : BitVec 5)
  /-- R264. Compact AND gd, gd, ga. -/
  | cAnd (a : BitVec 5) (d : BitVec 5)
  /-- R264. Compact OR gd, gd, ga. -/
  | cOr (a : BitVec 5) (d : BitVec 5)
  /-- R264. Compact XOR gd, gd, ga. -/
  | cXor (a : BitVec 5) (d : BitVec 5)
  /-- R264. Compact SHL gd, gd, ga. -/
  | cShl (a : BitVec 5) (d : BitVec 5)
  /-- R264. Compact SHR gd, gd, ga. -/
  | cShr (a : BitVec 5) (d : BitVec 5)
  /-- R264. Compact SAR gd, gd, ga. -/
  | cSar (a : BitVec 5) (d : BitVec 5)
  /-- R264. Compact ADDI gd, gd, imm5. -/
  | cAddi (i : BitVec 5) (d : BitVec 5)
  /-- R264. Compact LI gd, imm5. -/
  | cLi (i : BitVec 5) (d : BitVec 5)
  /-- R264. Compact SHLI gd, gd, n. -/
  | cShli (n : BitVec 5) (d : BitVec 5)
  /-- R264. Compact SHRI gd, gd, n. -/
  | cShri (n : BitVec 5) (d : BitVec 5)
  /-- R264. Compact SARI gd, gd, n. -/
  | cSari (n : BitVec 5) (d : BitVec 5)
  /-- R264. Compact ANDI gd, gd, imm5. -/
  | cAndi (i : BitVec 5) (d : BitVec 5)
  /-- R264. Compact SLT gd, gd, ga. -/
  | cSlt (a : BitVec 5) (d : BitVec 5)
  /-- R264. Compact SEQ gd, gd, ga. -/
  | cSeq (a : BitVec 5) (d : BitVec 5)
  /-- R264. Compact MIN gd, gd, ga. -/
  | cMin (a : BitVec 5) (d : BitVec 5)
  /-- R264. Compact MAX gd, gd, ga. -/
  | cMax (a : BitVec 5) (d : BitVec 5)
  /-- R264. Compact 8-byte LD gd, [ga]. -/
  | cLd (a : BitVec 5) (d : BitVec 5)
  /-- R264. Compact 8-byte ST gd, [ga]. -/
  | cSt (a : BitVec 5) (d : BitVec 5)
  /-- R264. Compact SUB gd, g0, ga. -/
  | cNeg (a : BitVec 5) (d : BitVec 5)
  /-- R264. Compact ORN gd, g0, ga. -/
  | cNot (a : BitVec 5) (d : BitVec 5)
  /-- R264. Compact branch if gd = 0. -/
  | cBz (i : BitVec 5) (d : BitVec 5)
  /-- R264. Compact branch if gd ≠ 0. -/
  | cBnz (i : BitVec 5) (d : BitVec 5)
  /-- R264. Compact jump by disp10 slots. -/
  | cJ (i : BitVec 10)
  /-- R264. Compact JALR g0, ga, 0. -/
  | cJr (a : BitVec 5)
  /-- R264. Compact NOP. -/
  | cNop
  /-- R264. Compact YIELD. -/
  | cYield
  /-- R264. Compact FADD gd, gd, ga. -/
  | cFadd (a : BitVec 5) (d : BitVec 5)
  /-- R265. A thread issues a slot whose pattern is unassigned (an unassigned major, m, k, vfn or mfn, op5 0 or 31, a zero slot) and takes a precise ILLEGAL trap. -/
  | illegalEncoding (slot : BitVec 32) (high : Bool)
  /-- R142. A soft error changes a stored word or register entry so that its check unit or residue becomes corrected-error or uncorrectable. -/
  | softError (site : ErrorSite)
  /-- R44. An Ethernet port loses its link, LINK clears and Towline packets sent meanwhile are lost. -/
  | ethLinkDown (port : Nat)
  /-- R66. The device as a Towline sender receives a MOORED answer and retransmits every 10 ms without limit, not counting toward the retransmission limit. -/
  | towlineMooredReceive (session : Nat)
  deriving DecidableEq, Repr

end Sys2Proof
end

