-- ==== Sys2Proof/WellFormed.lean ====
section
/-! DEFINITION. Which field values an encoding admits beyond its own bits (R265): the checks that R273, R288, R293,
R296, R297, R303, R328, R334, R241, R364, R367, R369 and R376 lay on single fields. An instruction that fails its
check raises ILLEGAL at issue. -/

namespace Sys2Proof

/-- R288. BFX and BFI: position plus length (field plus one) is at most 64. -/
def okBitField (l : BitVec 5) (p : BitVec 6) : Bool := decide (p.toNat + l.toNat + 1 ≤ 64)

/-- R273. The width codes of loads: 0 to 6. -/
def okLoadWidth (w : Nat) : Bool := decide (w ≤ 6)

/-- R273. The width codes of stores: 0, 2, 4 and 6. -/
def okStoreWidth (w : Nat) : Bool := decide (w = 0 ∨ w = 2 ∨ w = 4 ∨ w = 6)

/-- R296. FCVT: code 7 in neither field, and `.keep` only with destination W19. -/
def okFcvt (k : BitVec 1) (y x : BitVec 3) : Bool :=
  decide (x ≠ 7#3 ∧ y ≠ 7#3 ∧ (k = 1#1 → y = 1#3))

/-- R297. FRND: mode 7 is refused. -/
def okFrnd (o : BitVec 3) : Bool := decide (o ≠ 7#3)

/-- R293. LOOP: a = 0 is refused. -/
def okLoop (a : BitVec 7) : Bool := decide (a ≠ 0#7)

/-- R328. MSGPOP: d is even. -/
def okMsgpop (d : BitVec 7) : Bool := decide (d.toNat % 2 = 0)

/-- R303. PCVT: with as many target lanes as source lanes or more, grp is 0; otherwise it is below their ratio. -/
def okGroup (src dst : Nat) (g : BitVec 2) : Bool :=
  if src ≤ dst then decide (g = 0#2) else decide (g.toNat < src / dst)

/-- R334. A message type that SEND, SENDT, RECV, RECVT and SELECT may name: 0xF9 to 0xFF are refused at decode. -/
def okType (m : Byte) : Bool := decide (m.toNat < 0xF9)

/-- R241. rc = 11 (keep) with et 6 or 7 is refused. -/
def okRound (rc : BitVec 2) (et : BitVec 3) : Bool := decide (¬ (rc = 3#2 ∧ (et = 6#3 ∨ et = 7#3)))

/-- An integer et, 4 or 5 (R263). -/
def etInt (et : BitVec 3) : Bool := decide (et = 4#3 ∨ et = 5#3)

/-- R364. The block-size field of VSCL, VQENC and VQDEC: 0 to 3. -/
def okBlk (zc : BitVec 3) : Bool := decide (zc.toNat ≤ 3)

/-- R265. An accumulator field: 0 to 3. -/
def okAcc (q : BitVec 3) : Bool := decide (q.toNat ≤ 3)

/-- R377. The operand class of MMA, MMAG and MTEAM: class 4 is refused. -/
def okMulClass (c : BitVec 3) : Bool := decide (c ≠ 4#3)

/-- The lane counts of the packed types (R301). -/
def lanesW32 : Nat := 2
/-- R301. -/
def lanesBf16 : Nat := 4
/-- R301. -/
def lanesFp16 : Nat := 4
/-- R301. -/
def lanesI8 : Nat := 8
/-- R301. -/
def lanesI32 : Nat := 2

/-- R265. The single-field checks of every encoded instruction; events are always well formed. -/
def Instr.wellFormed (i : Instr) : Bool :=
  match i with
  | .bfx l p _ _ => okBitField l p
  | .bfi l p _ _ => okBitField l p
  | .ld _ w _ _ => okLoadWidth w.toNat
  | .ldx w _ _ _ => okLoadWidth w.toNat
  | .st _ w _ _ => okStoreWidth w.toNat
  | .lda _ w _ _ => okLoadWidth w.toNat
  | .stl _ w _ _ => okStoreWidth w.toNat
  | .msgpop d => okMsgpop d
  | .fcvt k y x _ _ => okFcvt k y x
  | .frnd o _ _ => okFrnd o
  | .pcvtBf16W32 g _ _ => okGroup lanesW32 lanesBf16 g
  | .pcvtFp16W32 g _ _ => okGroup lanesW32 lanesFp16 g
  | .pcvtI8W32 g _ _ => okGroup lanesW32 lanesI8 g
  | .pcvtI32W32 g _ _ => okGroup lanesW32 lanesI32 g
  | .pcvtW32Bf16 g _ _ => okGroup lanesBf16 lanesW32 g
  | .pcvtFp16Bf16 g _ _ => okGroup lanesBf16 lanesFp16 g
  | .pcvtI8Bf16 g _ _ => okGroup lanesBf16 lanesI8 g
  | .pcvtI32Bf16 g _ _ => okGroup lanesBf16 lanesI32 g
  | .pcvtW32Fp16 g _ _ => okGroup lanesFp16 lanesW32 g
  | .pcvtBf16Fp16 g _ _ => okGroup lanesFp16 lanesBf16 g
  | .pcvtI8Fp16 g _ _ => okGroup lanesFp16 lanesI8 g
  | .pcvtI32Fp16 g _ _ => okGroup lanesFp16 lanesI32 g
  | .pcvtW32I8 g _ _ => okGroup lanesI8 lanesW32 g
  | .pcvtBf16I8 g _ _ => okGroup lanesI8 lanesBf16 g
  | .pcvtFp16I8 g _ _ => okGroup lanesI8 lanesFp16 g
  | .pcvtI32I8 g _ _ => okGroup lanesI8 lanesI32 g
  | .pcvtW32I32 g _ _ => okGroup lanesI32 lanesW32 g
  | .pcvtBf16I32 g _ _ => okGroup lanesI32 lanesBf16 g
  | .pcvtFp16I32 g _ _ => okGroup lanesI32 lanesFp16 g
  | .pcvtI8I32 g _ _ => okGroup lanesI32 lanesI8 g
  | .loop _ a => okLoop a
  | .send _ t _ => okType t
  | .sendt _ t _ => okType t
  | .recv _ t _ => okType t
  | .recvt _ t _ => okType t
  | .select _ t _ => okType t
  | .vadd r t _ _ _ => okRound r t
  | .vsub r t _ _ _ => okRound r t
  | .vmul r t _ _ _ => okRound r t
  | .vfma r t _ _ _ _ => okRound r t
  | .vmin r t _ _ _ => okRound r t
  | .vmax r t _ _ _ => okRound r t
  | .vabs r t _ _ => okRound r t
  | .vneg r t _ _ => okRound r t
  | .vclamp r t _ _ _ _ => okRound r t
  | .vscl r t c _ _ _ => okRound r t && !etInt t && okBlk c
  | .vexp2 r t _ _ => okRound r t && !etInt t
  | .vlog2 r t _ _ => okRound r t && !etInt t
  | .vrcp r t _ _ => okRound r t && !etInt t
  | .vrsq r t _ _ => okRound r t && !etInt t
  | .vsqrt r t _ _ => okRound r t && !etInt t
  | .vtanh r t _ _ => okRound r t && !etInt t
  | .vsigm r t _ _ => okRound r t && !etInt t
  | .vrsum r t _ _ => okRound r t
  | .vrmax r t _ _ => okRound r t
  | .vrmin r t _ _ => okRound r t
  | .vscan r t _ _ => okRound r t
  | .vdot r t _ _ _ => okRound r t
  | .vcount r t _ _ => okRound r t && etInt t
  | .vcmpEq r t _ _ _ => okRound r t && etInt t
  | .vcmpNe r t _ _ _ => okRound r t && etInt t
  | .vcmpLt r t _ _ _ => okRound r t && etInt t
  | .vcmpLe r t _ _ _ => okRound r t && etInt t
  | .vcmpGt r t _ _ _ => okRound r t && etInt t
  | .vcmpGe r t _ _ _ => okRound r t && etInt t
  | .vsel r t _ _ _ _ => okRound r t
  | .vand r t _ _ _ => okRound r t && etInt t
  | .vor r t _ _ _ => okRound r t && etInt t
  | .vxor r t _ _ _ => okRound r t && etInt t
  | .vshl r t _ _ _ => okRound r t && etInt t
  | .vshr r t _ _ _ => okRound r t && etInt t
  | .viota r t _ => okRound r t
  | .vcvt r t _ _ => okRound r t
  | .vqenc r t c _ _ _ => okRound r t && okBlk c && decide (t = 6#3 ∨ t = 7#3)
  | .vqdec r t c _ _ _ => okRound r t && okBlk c && decide (t.toNat ≤ 3)
  | .mclr _ q => okAcc q
  | .mload _ _ q => okAcc q
  | .mma c _ _ _ q => okAcc q && okMulClass c
  | .mmag c _ _ _ _ q => okAcc q && okMulClass c
  | .mteam c _ _ _ q => okAcc q && okMulClass c
  | .mldt _ _ q => okAcc q
  | .mepi _ _ _ _ _ _ _ q => okAcc q
  | _ => true

end Sys2Proof
end

