-- ==== Sys2Proof/Decode.lean ====
section
/-! DEFINITION. Decoding a code slot (R261 to R264, R270 to R272), total on every pattern and refusing by name, and
after it the encoder, written from the same maps. A pattern that the decoder refuses, and one whose instruction is
not well formed, raise ILLEGAL (R265). -/

namespace Sys2Proof

noncomputable section

/-- Why a slot has no instruction (R261, R265). Each raises ILLEGAL at issue. -/
inductive DecodeError where
  /-- A PC naming the high parcel of a 32-bit slot (R261). -/
  | highParcelOf32
  /-- The high parcel's bit 0 is 1, so the whole slot is refused (R261). -/
  | highParcelNotCompact
  /-- op5 is 0 or 31 (R261, R264). -/
  | reservedOp5
  /-- A compact field that must be zero is not (R264). -/
  | compactNonzero
  /-- The major is unassigned or reserved (R270). -/
  | unassignedMajor
  /-- A selector is unassigned, or a field marked zero is nonzero (R265, R271, R272). -/
  | unassignedSelector
  deriving DecidableEq, Repr

/-- Field [hi:lo] of a 32-bit slot (R4). -/
def fld (w : BitVec 32) (hi lo : Nat) : BitVec (hi + 1 - lo) := w.extractLsb' lo (hi + 1 - lo)

/-- Field [hi:lo] of a 16-bit parcel (R4). -/
def fldC (p : BitVec 16) (hi lo : Nat) : BitVec (hi + 1 - lo) := p.extractLsb' lo (hi + 1 - lo)

/-- Major 0 (R270): ADD, SUB, AND, OR and others. -/
def decMajor0 (w : BitVec 32) : Except DecodeError Instr :=
  if fld w 31 28 = 0#4 then .ok (.add (fld w 27 21) (fld w 20 14) (fld w 13 7)) else
  if fld w 31 28 = 1#4 then .ok (.sub (fld w 27 21) (fld w 20 14) (fld w 13 7)) else
  if fld w 31 28 = 2#4 then .ok (.and (fld w 27 21) (fld w 20 14) (fld w 13 7)) else
  if fld w 31 28 = 3#4 then .ok (.or (fld w 27 21) (fld w 20 14) (fld w 13 7)) else
  if fld w 31 28 = 4#4 then .ok (.xor (fld w 27 21) (fld w 20 14) (fld w 13 7)) else
  if fld w 31 28 = 5#4 then .ok (.andn (fld w 27 21) (fld w 20 14) (fld w 13 7)) else
  if fld w 31 28 = 6#4 then .ok (.orn (fld w 27 21) (fld w 20 14) (fld w 13 7)) else
  if fld w 31 28 = 7#4 then .ok (.shl (fld w 27 21) (fld w 20 14) (fld w 13 7)) else
  if fld w 31 28 = 8#4 then .ok (.shr (fld w 27 21) (fld w 20 14) (fld w 13 7)) else
  if fld w 31 28 = 9#4 then .ok (.sar (fld w 27 21) (fld w 20 14) (fld w 13 7)) else
  if fld w 31 28 = 10#4 then .ok (.rol (fld w 27 21) (fld w 20 14) (fld w 13 7)) else
  if fld w 31 28 = 11#4 then .ok (.min (fld w 27 21) (fld w 20 14) (fld w 13 7)) else
  if fld w 31 28 = 12#4 then .ok (.max (fld w 27 21) (fld w 20 14) (fld w 13 7)) else
  if fld w 31 28 = 13#4 then .ok (.minn (fld w 27 21) (fld w 20 14) (fld w 13 7)) else
  if fld w 31 28 = 14#4 then .ok (.maxn (fld w 27 21) (fld w 20 14) (fld w 13 7)) else
  if fld w 31 28 = 15#4 then .ok (.sel (fld w 27 21) (fld w 20 14) (fld w 13 7)) else
  .error .unassignedSelector

/-- Major 1 (R270): MUL, MULH, MULHN, DIV and others. -/
def decMajor1 (w : BitVec 32) : Except DecodeError Instr :=
  if fld w 31 28 = 0#4 then .ok (.mul (fld w 27 21) (fld w 20 14) (fld w 13 7)) else
  if fld w 31 28 = 1#4 then .ok (.mulh (fld w 27 21) (fld w 20 14) (fld w 13 7)) else
  if fld w 31 28 = 2#4 then .ok (.mulhn (fld w 27 21) (fld w 20 14) (fld w 13 7)) else
  if fld w 31 28 = 3#4 then .ok (.div (fld w 27 21) (fld w 20 14) (fld w 13 7)) else
  if fld w 31 28 = 4#4 then .ok (.divn (fld w 27 21) (fld w 20 14) (fld w 13 7)) else
  if fld w 31 28 = 5#4 then .ok (.rem (fld w 27 21) (fld w 20 14) (fld w 13 7)) else
  if fld w 31 28 = 6#4 then .ok (.remn (fld w 27 21) (fld w 20 14) (fld w 13 7)) else
  if fld w 31 28 = 7#4 then .ok (.slt (fld w 27 21) (fld w 20 14) (fld w 13 7)) else
  if fld w 31 28 = 8#4 then .ok (.sltn (fld w 27 21) (fld w 20 14) (fld w 13 7)) else
  if fld w 31 28 = 9#4 then .ok (.seq (fld w 27 21) (fld w 20 14) (fld w 13 7)) else
  .error .unassignedSelector

/-- Major 2 (R270): LEA. -/
def decMajor2 (w : BitVec 32) : Except DecodeError Instr :=
  .ok (.lea (fld w 31 28) (fld w 27 21) (fld w 20 14) (fld w 13 7))

/-- Major 3 (R270): CLZ, CTZ, POPC, BREV and others. -/
def decMajor3 (w : BitVec 32) : Except DecodeError Instr :=
  if fld w 31 21 = 0#11 then .ok (.clz (fld w 20 14) (fld w 13 7)) else
  if fld w 31 21 = 128#11 then .ok (.ctz (fld w 20 14) (fld w 13 7)) else
  if fld w 31 21 = 256#11 then .ok (.popc (fld w 20 14) (fld w 13 7)) else
  if fld w 31 21 = 384#11 then .ok (.brev (fld w 20 14) (fld w 13 7)) else
  if fld w 31 21 = 512#11 then .ok (.bswap (fld w 20 14) (fld w 13 7)) else
  .error .unassignedSelector

/-- Major 4 (R270): EXTS, EXTZ. -/
def decMajor4 (w : BitVec 32) : Except DecodeError Instr :=
  if fld w 31 28 = 0#4 then .ok (.exts (fld w 27 21) (fld w 20 14) (fld w 13 7)) else
  if fld w 31 28 = 1#4 then .ok (.extz (fld w 27 21) (fld w 20 14) (fld w 13 7)) else
  .error .unassignedSelector

/-- Major 5 (R270): BFX. -/
def decMajor5 (w : BitVec 32) : Except DecodeError Instr :=
  .ok (.bfx (fld w 31 27) (fld w 26 21) (fld w 20 14) (fld w 13 7))

/-- Major 6 (R270): BFI. -/
def decMajor6 (w : BitVec 32) : Except DecodeError Instr :=
  .ok (.bfi (fld w 31 27) (fld w 26 21) (fld w 20 14) (fld w 13 7))

/-- Major 7 (R270): ADDI. -/
def decMajor7 (w : BitVec 32) : Except DecodeError Instr :=
  .ok (.addi (fld w 31 21) (fld w 20 14) (fld w 13 7))

/-- Major 8 (R270): ANDI. -/
def decMajor8 (w : BitVec 32) : Except DecodeError Instr :=
  .ok (.andi (fld w 31 21) (fld w 20 14) (fld w 13 7))

/-- Major 9 (R270): ORI. -/
def decMajor9 (w : BitVec 32) : Except DecodeError Instr :=
  .ok (.ori (fld w 31 21) (fld w 20 14) (fld w 13 7))

/-- Major 10 (R270): XORI. -/
def decMajor10 (w : BitVec 32) : Except DecodeError Instr :=
  .ok (.xori (fld w 31 21) (fld w 20 14) (fld w 13 7))

/-- Major 11 (R270): SHLI, SHRI, SARI. -/
def decMajor11 (w : BitVec 32) : Except DecodeError Instr :=
  if fld w 31 27 = 0#5 then .ok (.shli (fld w 26 21) (fld w 20 14) (fld w 13 7)) else
  if fld w 31 27 = 1#5 then .ok (.shri (fld w 26 21) (fld w 20 14) (fld w 13 7)) else
  if fld w 31 27 = 2#5 then .ok (.sari (fld w 26 21) (fld w 20 14) (fld w 13 7)) else
  .error .unassignedSelector

/-- Major 12 (R270): SLTI. -/
def decMajor12 (w : BitVec 32) : Except DecodeError Instr :=
  .ok (.slti (fld w 31 21) (fld w 20 14) (fld w 13 7))

/-- Major 13 (R270): SLTNI. -/
def decMajor13 (w : BitVec 32) : Except DecodeError Instr :=
  .ok (.sltni (fld w 31 21) (fld w 20 14) (fld w 13 7))

/-- Major 14 (R270): MULI. -/
def decMajor14 (w : BitVec 32) : Except DecodeError Instr :=
  .ok (.muli (fld w 31 21) (fld w 20 14) (fld w 13 7))

/-- Major 16 (R270): LI. -/
def decMajor16 (w : BitVec 32) : Except DecodeError Instr :=
  .ok (.li (fld w 31 14) (fld w 13 7))

/-- Major 17 (R270): LIX. -/
def decMajor17 (w : BitVec 32) : Except DecodeError Instr :=
  .ok (.lix (fld w 31 14) (fld w 13 7))

/-- Major 18 (R270): BZ, BNZ, BLTZ, BGEZ. -/
def decMajor18 (w : BitVec 32) : Except DecodeError Instr :=
  if fld w 15 14 = 0#2 then .ok (.bz (fld w 31 16) (fld w 13 7)) else
  if fld w 15 14 = 1#2 then .ok (.bnz (fld w 31 16) (fld w 13 7)) else
  if fld w 15 14 = 2#2 then .ok (.bltz (fld w 31 16) (fld w 13 7)) else
  if fld w 15 14 = 3#2 then .ok (.bgez (fld w 31 16) (fld w 13 7)) else
  .error .unassignedSelector

/-- Major 19 (R270): JAL. -/
def decMajor19 (w : BitVec 32) : Except DecodeError Instr :=
  .ok (.jal (fld w 31 14) (fld w 13 7))

/-- Major 20 (R270): LD. -/
def decMajor20 (w : BitVec 32) : Except DecodeError Instr :=
  .ok (.ld (fld w 31 24) (fld w 23 21) (fld w 20 14) (fld w 13 7))

/-- Major 21 (R270): LDX. -/
def decMajor21 (w : BitVec 32) : Except DecodeError Instr :=
  .ok (.ldx (fld w 31 28) (fld w 27 21) (fld w 20 14) (fld w 13 7))

/-- Major 22 (R270): ST. -/
def decMajor22 (w : BitVec 32) : Except DecodeError Instr :=
  .ok (.st (fld w 31 24) (fld w 23 21) (fld w 20 14) (fld w 13 7))

/-- Major 23 (R270): LDA. -/
def decMajor23 (w : BitVec 32) : Except DecodeError Instr :=
  .ok (.lda (fld w 31 24) (fld w 23 21) (fld w 20 14) (fld w 13 7))

/-- Major 24 (R270): STL. -/
def decMajor24 (w : BitVec 32) : Except DecodeError Instr :=
  .ok (.stl (fld w 31 24) (fld w 23 21) (fld w 20 14) (fld w 13 7))

/-- Major 25 (R270): SPILL. -/
def decMajor25 (w : BitVec 32) : Except DecodeError Instr :=
  .ok (.spill (fld w 31 21) (fld w 20 14) (fld w 13 7))

/-- Major 26 (R270): FILL. -/
def decMajor26 (w : BitVec 32) : Except DecodeError Instr :=
  .ok (.fill (fld w 31 21) (fld w 20 14) (fld w 13 7))

/-- Major 27 (R270): LDFE, LDFF, STEF, STFF and others. -/
def decMajor27 (w : BitVec 32) : Except DecodeError Instr :=
  if fld w 31 21 = 0#11 then .ok (.ldfe (fld w 20 14) (fld w 13 7)) else
  if fld w 31 21 = 128#11 then .ok (.ldff (fld w 20 14) (fld w 13 7)) else
  if fld w 31 28 = 2#4 ∧ fld w 13 0 = 55#14 then .ok (.stef (fld w 27 21) (fld w 20 14)) else
  if fld w 31 28 = 3#4 ∧ fld w 13 0 = 55#14 then .ok (.stff (fld w 27 21) (fld w 20 14)) else
  if fld w 31 21 = 512#11 ∧ fld w 13 0 = 55#14 then .ok (.feset (fld w 20 14)) else
  if fld w 31 21 = 640#11 then .ok (.fepeek (fld w 20 14) (fld w 13 7)) else
  if fld w 31 28 = 6#4 ∧ fld w 13 0 = 55#14 then .ok (.sbstLo (fld w 27 21) (fld w 20 14)) else
  if fld w 31 28 = 7#4 ∧ fld w 13 0 = 55#14 then .ok (.sbstHi (fld w 27 21) (fld w 20 14)) else
  .error .unassignedSelector

/-- Major 28 (R270): AMOADD, AMOAND, AMOOR, AMOXOR and others. -/
def decMajor28 (w : BitVec 32) : Except DecodeError Instr :=
  if fld w 31 28 = 0#4 then .ok (.amoadd (fld w 27 21) (fld w 20 14) (fld w 13 7)) else
  if fld w 31 28 = 1#4 then .ok (.amoand (fld w 27 21) (fld w 20 14) (fld w 13 7)) else
  if fld w 31 28 = 2#4 then .ok (.amoor (fld w 27 21) (fld w 20 14) (fld w 13 7)) else
  if fld w 31 28 = 3#4 then .ok (.amoxor (fld w 27 21) (fld w 20 14) (fld w 13 7)) else
  if fld w 31 28 = 4#4 then .ok (.amomin (fld w 27 21) (fld w 20 14) (fld w 13 7)) else
  if fld w 31 28 = 5#4 then .ok (.amomax (fld w 27 21) (fld w 20 14) (fld w 13 7)) else
  if fld w 31 28 = 6#4 then .ok (.amoswap (fld w 27 21) (fld w 20 14) (fld w 13 7)) else
  if fld w 31 28 = 7#4 then .ok (.amocas (fld w 27 21) (fld w 20 14) (fld w 13 7)) else
  if fld w 31 28 = 8#4 then .ok (.amofadd (fld w 27 21) (fld w 20 14) (fld w 13 7)) else
  if fld w 31 28 = 9#4 then .ok (.amodf (fld w 27 21) (fld w 20 14) (fld w 13 7)) else
  .error .unassignedSelector

/-- Major 29 (R270): AMOADD_ACQ, AMOAND_ACQ, AMOOR_ACQ, AMOXOR_ACQ and others. -/
def decMajor29 (w : BitVec 32) : Except DecodeError Instr :=
  if fld w 31 28 = 0#4 then .ok (.amoaddAcq (fld w 27 21) (fld w 20 14) (fld w 13 7)) else
  if fld w 31 28 = 1#4 then .ok (.amoandAcq (fld w 27 21) (fld w 20 14) (fld w 13 7)) else
  if fld w 31 28 = 2#4 then .ok (.amoorAcq (fld w 27 21) (fld w 20 14) (fld w 13 7)) else
  if fld w 31 28 = 3#4 then .ok (.amoxorAcq (fld w 27 21) (fld w 20 14) (fld w 13 7)) else
  if fld w 31 28 = 4#4 then .ok (.amominAcq (fld w 27 21) (fld w 20 14) (fld w 13 7)) else
  if fld w 31 28 = 5#4 then .ok (.amomaxAcq (fld w 27 21) (fld w 20 14) (fld w 13 7)) else
  if fld w 31 28 = 6#4 then .ok (.amoswapAcq (fld w 27 21) (fld w 20 14) (fld w 13 7)) else
  if fld w 31 28 = 7#4 then .ok (.amocasAcq (fld w 27 21) (fld w 20 14) (fld w 13 7)) else
  if fld w 31 28 = 8#4 then .ok (.amofaddAcq (fld w 27 21) (fld w 20 14) (fld w 13 7)) else
  if fld w 31 28 = 9#4 then .ok (.amodfAcq (fld w 27 21) (fld w 20 14) (fld w 13 7)) else
  .error .unassignedSelector

/-- Major 30 (R270): AMOADD_REL, AMOAND_REL, AMOOR_REL, AMOXOR_REL and others. -/
def decMajor30 (w : BitVec 32) : Except DecodeError Instr :=
  if fld w 31 28 = 0#4 then .ok (.amoaddRel (fld w 27 21) (fld w 20 14) (fld w 13 7)) else
  if fld w 31 28 = 1#4 then .ok (.amoandRel (fld w 27 21) (fld w 20 14) (fld w 13 7)) else
  if fld w 31 28 = 2#4 then .ok (.amoorRel (fld w 27 21) (fld w 20 14) (fld w 13 7)) else
  if fld w 31 28 = 3#4 then .ok (.amoxorRel (fld w 27 21) (fld w 20 14) (fld w 13 7)) else
  if fld w 31 28 = 4#4 then .ok (.amominRel (fld w 27 21) (fld w 20 14) (fld w 13 7)) else
  if fld w 31 28 = 5#4 then .ok (.amomaxRel (fld w 27 21) (fld w 20 14) (fld w 13 7)) else
  if fld w 31 28 = 6#4 then .ok (.amoswapRel (fld w 27 21) (fld w 20 14) (fld w 13 7)) else
  if fld w 31 28 = 7#4 then .ok (.amocasRel (fld w 27 21) (fld w 20 14) (fld w 13 7)) else
  if fld w 31 28 = 8#4 then .ok (.amofaddRel (fld w 27 21) (fld w 20 14) (fld w 13 7)) else
  if fld w 31 28 = 9#4 then .ok (.amodfRel (fld w 27 21) (fld w 20 14) (fld w 13 7)) else
  .error .unassignedSelector

/-- Major 31 (R270): FENCE_ACQ, FENCE_REL, FENCE_FULL, IFENCE and others. -/
def decMajor31 (w : BitVec 32) : Except DecodeError Instr :=
  if fld w 31 0 = 63#32 then .ok (.fenceAcq) else
  if fld w 31 0 = 268435519#32 then .ok (.fenceRel) else
  if fld w 31 0 = 536870975#32 then .ok (.fenceFull) else
  if fld w 31 0 = 805306431#32 then .ok (.ifence) else
  if fld w 31 21 = 512#11 then .ok (.barrive (fld w 20 14) (fld w 13 7)) else
  if fld w 31 28 = 5#4 ∧ fld w 13 0 = 63#14 then .ok (.bwait (fld w 27 21) (fld w 20 14)) else
  if fld w 31 0 = 1610612799#32 then .ok (.waitmsg) else
  if fld w 31 14 = 114688#18 then .ok (.msgpop (fld w 13 7)) else
  if fld w 31 25 = 64#7 ∧ fld w 13 0 = 63#14 then .ok (.mbput (fld w 24 21) (fld w 20 14)) else
  if fld w 31 25 = 72#7 ∧ fld w 20 14 = 0#7 then .ok (.mbget (fld w 24 21) (fld w 13 7)) else
  if fld w 31 28 = 10#4 ∧ fld w 13 0 = 63#14 then .ok (.tagset (fld w 27 21) (fld w 20 14)) else
  .error .unassignedSelector

/-- Major 32 (R270): FADD, FSUB, FMUL, FDIV and others. -/
def decMajor32 (w : BitVec 32) : Except DecodeError Instr :=
  if fld w 31 28 = 0#4 then .ok (.fadd (fld w 27 21) (fld w 20 14) (fld w 13 7)) else
  if fld w 31 28 = 1#4 then .ok (.fsub (fld w 27 21) (fld w 20 14) (fld w 13 7)) else
  if fld w 31 28 = 2#4 then .ok (.fmul (fld w 27 21) (fld w 20 14) (fld w 13 7)) else
  if fld w 31 28 = 3#4 then .ok (.fdiv (fld w 27 21) (fld w 20 14) (fld w 13 7)) else
  if fld w 31 21 = 512#11 then .ok (.fsqrt (fld w 20 14) (fld w 13 7)) else
  if fld w 31 28 = 5#4 then .ok (.fmin (fld w 27 21) (fld w 20 14) (fld w 13 7)) else
  if fld w 31 28 = 6#4 then .ok (.fmax (fld w 27 21) (fld w 20 14) (fld w 13 7)) else
  if fld w 31 21 = 896#11 then .ok (.fabs (fld w 20 14) (fld w 13 7)) else
  if fld w 31 21 = 1024#11 then .ok (.fneg (fld w 20 14) (fld w 13 7)) else
  if fld w 31 28 = 9#4 then .ok (.fcmp (fld w 27 21) (fld w 20 14) (fld w 13 7)) else
  if fld w 31 21 = 1280#11 then .ok (.fclass (fld w 20 14) (fld w 13 7)) else
  if fld w 31 28 = 11#4 then .ok (.ffma (fld w 27 21) (fld w 20 14) (fld w 13 7)) else
  .error .unassignedSelector

/-- Major 33 (R270): FCVT, FRND, SGET, SSET and others. -/
def decMajor33 (w : BitVec 32) : Except DecodeError Instr :=
  if fld w 31 28 = 0#4 then .ok (.fcvt (fld w 27 27) (fld w 26 24) (fld w 23 21) (fld w 20 14) (fld w 13 7)) else
  if fld w 31 24 = 16#8 then .ok (.frnd (fld w 23 21) (fld w 20 14) (fld w 13 7)) else
  if fld w 31 21 = 256#11 then .ok (.sget (fld w 20 14) (fld w 13 7)) else
  if fld w 31 28 = 3#4 then .ok (.sset (fld w 27 21) (fld w 20 14) (fld w 13 7)) else
  if fld w 31 21 = 512#11 then .ok (.sclr (fld w 20 14) (fld w 13 7)) else
  if fld w 31 22 = 320#10 then .ok (.qenc (fld w 21 21) (fld w 20 14) (fld w 13 7)) else
  if fld w 31 22 = 384#10 then .ok (.qdec (fld w 21 21) (fld w 20 14) (fld w 13 7)) else
  if fld w 31 23 = 224#9 ∧ fld w 13 0 = 67#14 then .ok (.cbload (fld w 22 21) (fld w 20 14)) else
  .error .unassignedSelector

/-- Major 34 (R270): PADD_W32, PSUB_W32, PMUL_W32, PFMA_W32 and others. -/
def decMajor34 (w : BitVec 32) : Except DecodeError Instr :=
  if fld w 31 28 = 0#4 then .ok (.paddW32 (fld w 27 21) (fld w 20 14) (fld w 13 7)) else
  if fld w 31 28 = 1#4 then .ok (.psubW32 (fld w 27 21) (fld w 20 14) (fld w 13 7)) else
  if fld w 31 28 = 2#4 then .ok (.pmulW32 (fld w 27 21) (fld w 20 14) (fld w 13 7)) else
  if fld w 31 28 = 3#4 then .ok (.pfmaW32 (fld w 27 21) (fld w 20 14) (fld w 13 7)) else
  if fld w 31 28 = 4#4 then .ok (.pminW32 (fld w 27 21) (fld w 20 14) (fld w 13 7)) else
  if fld w 31 28 = 5#4 then .ok (.pmaxW32 (fld w 27 21) (fld w 20 14) (fld w 13 7)) else
  if fld w 31 28 = 6#4 then .ok (.pdotW32 (fld w 27 21) (fld w 20 14) (fld w 13 7)) else
  if fld w 31 28 = 7#4 then .ok (.pshufW32 (fld w 27 21) (fld w 20 14) (fld w 13 7)) else
  if fld w 31 23 = 288#9 then .ok (.pcvtBf16W32 (fld w 22 21) (fld w 20 14) (fld w 13 7)) else
  if fld w 31 23 = 320#9 then .ok (.pcvtFp16W32 (fld w 22 21) (fld w 20 14) (fld w 13 7)) else
  if fld w 31 23 = 352#9 then .ok (.pcvtI8W32 (fld w 22 21) (fld w 20 14) (fld w 13 7)) else
  if fld w 31 23 = 384#9 then .ok (.pcvtI32W32 (fld w 22 21) (fld w 20 14) (fld w 13 7)) else
  .error .unassignedSelector

/-- Major 35 (R270): PADD_BF16, PSUB_BF16, PMUL_BF16, PFMA_BF16 and others. -/
def decMajor35 (w : BitVec 32) : Except DecodeError Instr :=
  if fld w 31 28 = 0#4 then .ok (.paddBf16 (fld w 27 21) (fld w 20 14) (fld w 13 7)) else
  if fld w 31 28 = 1#4 then .ok (.psubBf16 (fld w 27 21) (fld w 20 14) (fld w 13 7)) else
  if fld w 31 28 = 2#4 then .ok (.pmulBf16 (fld w 27 21) (fld w 20 14) (fld w 13 7)) else
  if fld w 31 28 = 3#4 then .ok (.pfmaBf16 (fld w 27 21) (fld w 20 14) (fld w 13 7)) else
  if fld w 31 28 = 4#4 then .ok (.pminBf16 (fld w 27 21) (fld w 20 14) (fld w 13 7)) else
  if fld w 31 28 = 5#4 then .ok (.pmaxBf16 (fld w 27 21) (fld w 20 14) (fld w 13 7)) else
  if fld w 31 28 = 6#4 then .ok (.pdotBf16 (fld w 27 21) (fld w 20 14) (fld w 13 7)) else
  if fld w 31 28 = 7#4 then .ok (.pshufBf16 (fld w 27 21) (fld w 20 14) (fld w 13 7)) else
  if fld w 31 23 = 256#9 then .ok (.pcvtW32Bf16 (fld w 22 21) (fld w 20 14) (fld w 13 7)) else
  if fld w 31 23 = 320#9 then .ok (.pcvtFp16Bf16 (fld w 22 21) (fld w 20 14) (fld w 13 7)) else
  if fld w 31 23 = 352#9 then .ok (.pcvtI8Bf16 (fld w 22 21) (fld w 20 14) (fld w 13 7)) else
  if fld w 31 23 = 384#9 then .ok (.pcvtI32Bf16 (fld w 22 21) (fld w 20 14) (fld w 13 7)) else
  .error .unassignedSelector

/-- Major 36 (R270): PADD_FP16, PSUB_FP16, PMUL_FP16, PFMA_FP16 and others. -/
def decMajor36 (w : BitVec 32) : Except DecodeError Instr :=
  if fld w 31 28 = 0#4 then .ok (.paddFp16 (fld w 27 21) (fld w 20 14) (fld w 13 7)) else
  if fld w 31 28 = 1#4 then .ok (.psubFp16 (fld w 27 21) (fld w 20 14) (fld w 13 7)) else
  if fld w 31 28 = 2#4 then .ok (.pmulFp16 (fld w 27 21) (fld w 20 14) (fld w 13 7)) else
  if fld w 31 28 = 3#4 then .ok (.pfmaFp16 (fld w 27 21) (fld w 20 14) (fld w 13 7)) else
  if fld w 31 28 = 4#4 then .ok (.pminFp16 (fld w 27 21) (fld w 20 14) (fld w 13 7)) else
  if fld w 31 28 = 5#4 then .ok (.pmaxFp16 (fld w 27 21) (fld w 20 14) (fld w 13 7)) else
  if fld w 31 28 = 6#4 then .ok (.pdotFp16 (fld w 27 21) (fld w 20 14) (fld w 13 7)) else
  if fld w 31 28 = 7#4 then .ok (.pshufFp16 (fld w 27 21) (fld w 20 14) (fld w 13 7)) else
  if fld w 31 23 = 256#9 then .ok (.pcvtW32Fp16 (fld w 22 21) (fld w 20 14) (fld w 13 7)) else
  if fld w 31 23 = 288#9 then .ok (.pcvtBf16Fp16 (fld w 22 21) (fld w 20 14) (fld w 13 7)) else
  if fld w 31 23 = 352#9 then .ok (.pcvtI8Fp16 (fld w 22 21) (fld w 20 14) (fld w 13 7)) else
  if fld w 31 23 = 384#9 then .ok (.pcvtI32Fp16 (fld w 22 21) (fld w 20 14) (fld w 13 7)) else
  .error .unassignedSelector

/-- Major 37 (R270): PADD_I8, PSUB_I8, PMUL_I8, PFMA_I8 and others. -/
def decMajor37 (w : BitVec 32) : Except DecodeError Instr :=
  if fld w 31 28 = 0#4 then .ok (.paddI8 (fld w 27 21) (fld w 20 14) (fld w 13 7)) else
  if fld w 31 28 = 1#4 then .ok (.psubI8 (fld w 27 21) (fld w 20 14) (fld w 13 7)) else
  if fld w 31 28 = 2#4 then .ok (.pmulI8 (fld w 27 21) (fld w 20 14) (fld w 13 7)) else
  if fld w 31 28 = 3#4 then .ok (.pfmaI8 (fld w 27 21) (fld w 20 14) (fld w 13 7)) else
  if fld w 31 28 = 4#4 then .ok (.pminI8 (fld w 27 21) (fld w 20 14) (fld w 13 7)) else
  if fld w 31 28 = 5#4 then .ok (.pmaxI8 (fld w 27 21) (fld w 20 14) (fld w 13 7)) else
  if fld w 31 28 = 6#4 then .ok (.pdotI8 (fld w 27 21) (fld w 20 14) (fld w 13 7)) else
  if fld w 31 28 = 7#4 then .ok (.pshufI8 (fld w 27 21) (fld w 20 14) (fld w 13 7)) else
  if fld w 31 23 = 256#9 then .ok (.pcvtW32I8 (fld w 22 21) (fld w 20 14) (fld w 13 7)) else
  if fld w 31 23 = 288#9 then .ok (.pcvtBf16I8 (fld w 22 21) (fld w 20 14) (fld w 13 7)) else
  if fld w 31 23 = 320#9 then .ok (.pcvtFp16I8 (fld w 22 21) (fld w 20 14) (fld w 13 7)) else
  if fld w 31 23 = 384#9 then .ok (.pcvtI32I8 (fld w 22 21) (fld w 20 14) (fld w 13 7)) else
  .error .unassignedSelector

/-- Major 38 (R270): PADD_I32, PSUB_I32, PMUL_I32, PFMA_I32 and others. -/
def decMajor38 (w : BitVec 32) : Except DecodeError Instr :=
  if fld w 31 28 = 0#4 then .ok (.paddI32 (fld w 27 21) (fld w 20 14) (fld w 13 7)) else
  if fld w 31 28 = 1#4 then .ok (.psubI32 (fld w 27 21) (fld w 20 14) (fld w 13 7)) else
  if fld w 31 28 = 2#4 then .ok (.pmulI32 (fld w 27 21) (fld w 20 14) (fld w 13 7)) else
  if fld w 31 28 = 3#4 then .ok (.pfmaI32 (fld w 27 21) (fld w 20 14) (fld w 13 7)) else
  if fld w 31 28 = 4#4 then .ok (.pminI32 (fld w 27 21) (fld w 20 14) (fld w 13 7)) else
  if fld w 31 28 = 5#4 then .ok (.pmaxI32 (fld w 27 21) (fld w 20 14) (fld w 13 7)) else
  if fld w 31 28 = 6#4 then .ok (.pdotI32 (fld w 27 21) (fld w 20 14) (fld w 13 7)) else
  if fld w 31 28 = 7#4 then .ok (.pshufI32 (fld w 27 21) (fld w 20 14) (fld w 13 7)) else
  if fld w 31 23 = 256#9 then .ok (.pcvtW32I32 (fld w 22 21) (fld w 20 14) (fld w 13 7)) else
  if fld w 31 23 = 288#9 then .ok (.pcvtBf16I32 (fld w 22 21) (fld w 20 14) (fld w 13 7)) else
  if fld w 31 23 = 320#9 then .ok (.pcvtFp16I32 (fld w 22 21) (fld w 20 14) (fld w 13 7)) else
  if fld w 31 23 = 352#9 then .ok (.pcvtI8I32 (fld w 22 21) (fld w 20 14) (fld w 13 7)) else
  .error .unassignedSelector

/-- Major 40 (R270): ADDPC. -/
def decMajor40 (w : BitVec 32) : Except DecodeError Instr :=
  .ok (.addpc (fld w 31 14) (fld w 13 7))

/-- Major 41 (R270): JALR. -/
def decMajor41 (w : BitVec 32) : Except DecodeError Instr :=
  .ok (.jalr (fld w 31 21) (fld w 20 14) (fld w 13 7))

/-- Major 42 (R270): LOOP. -/
def decMajor42 (w : BitVec 32) : Except DecodeError Instr :=
  if fld w 15 14 = 0#2 then .ok (.loop (fld w 31 16) (fld w 13 7)) else
  .error .unassignedSelector

/-- Major 43 (R270): NOP, YIELD, HALT, XRET and others. -/
def decMajor43 (w : BitVec 32) : Except DecodeError Instr :=
  if fld w 31 0 = 87#32 then .ok (.nop) else
  if fld w 31 0 = 268435543#32 then .ok (.yield) else
  if fld w 31 0 = 536870999#32 then .ok (.halt) else
  if fld w 31 0 = 805306455#32 then .ok (.xret) else
  if fld w 31 0 = 1073741911#32 then .ok (.bkpt) else
  if fld w 31 0 = 1342177367#32 then .ok (.wfe) else
  if fld w 31 21 = 768#11 then .ok (.perfrd (fld w 20 14) (fld w 13 7)) else
  .error .unassignedSelector

/-- Major 44 (R270): TRAP. -/
def decMajor44 (w : BitVec 32) : Except DecodeError Instr :=
  if fld w 20 0 = 89#21 then .ok (.trap (fld w 31 21)) else
  .error .unassignedSelector

/-- Major 45 (R270): SYSRD. -/
def decMajor45 (w : BitVec 32) : Except DecodeError Instr :=
  if fld w 20 14 = 0#7 then .ok (.sysrd (fld w 31 21) (fld w 13 7)) else
  .error .unassignedSelector

/-- Major 46 (R270): SYSWR. -/
def decMajor46 (w : BitVec 32) : Except DecodeError Instr :=
  if fld w 13 0 = 93#14 then .ok (.syswr (fld w 31 21) (fld w 20 14)) else
  .error .unassignedSelector

/-- Major 47 (R270): ENQ, TDONE, PROGRESS, PUSHC and others. -/
def decMajor47 (w : BitVec 32) : Except DecodeError Instr :=
  if fld w 31 21 = 0#11 then .ok (.enq (fld w 20 14) (fld w 13 7)) else
  if fld w 31 21 = 128#11 ∧ fld w 13 0 = 95#14 then .ok (.tdone (fld w 20 14)) else
  if fld w 31 21 = 256#11 ∧ fld w 13 0 = 95#14 then .ok (.progress (fld w 20 14)) else
  if fld w 31 28 = 3#4 ∧ fld w 13 0 = 95#14 then .ok (.pushc (fld w 27 21) (fld w 20 14)) else
  if fld w 31 21 = 512#11 then .ok (.popr (fld w 20 14) (fld w 13 7)) else
  if fld w 31 21 = 640#11 ∧ fld w 13 0 = 95#14 then .ok (.srbegin (fld w 20 14)) else
  if fld w 31 0 = 1610612831#32 then .ok (.srend) else
  if fld w 31 28 = 7#4 ∧ fld w 13 0 = 95#14 then .ok (.repload (fld w 27 21) (fld w 20 14)) else
  if fld w 31 28 = 8#4 ∧ fld w 13 0 = 95#14 then .ok (.reprun (fld w 27 21) (fld w 20 14)) else
  if fld w 31 0 = 2415919199#32 then .ok (.repstop) else
  .error .unassignedSelector

/-- Major 48 (R270): SEND, SENDT, RECV, RECVT and others. -/
def decMajor48 (w : BitVec 32) : Except DecodeError Instr :=
  if fld w 31 28 = 0#4 then .ok (.send (fld w 27 21) (fld w 20 13) (fld w 12 7)) else
  if fld w 31 28 = 1#4 then .ok (.sendt (fld w 27 21) (fld w 20 13) (fld w 12 7)) else
  if fld w 31 28 = 2#4 then .ok (.recv (fld w 27 21) (fld w 20 13) (fld w 12 7)) else
  if fld w 31 28 = 3#4 then .ok (.recvt (fld w 27 21) (fld w 20 13) (fld w 12 7)) else
  if fld w 31 28 = 4#4 ∧ fld w 20 13 = 0#8 then .ok (.offer (fld w 27 21) (fld w 12 7)) else
  if fld w 31 28 = 5#4 then .ok (.select (fld w 27 21) (fld w 20 13) (fld w 12 7)) else
  if fld w 31 28 = 6#4 ∧ fld w 20 13 = 0#8 then .ok (.deleg (fld w 27 21) (fld w 12 7)) else
  .error .unassignedSelector

/-- Major 49 (R270): AUTLOAD, EPOPEN, CONNECT, ACCEPT and others. -/
def decMajor49 (w : BitVec 32) : Except DecodeError Instr :=
  if fld w 31 28 = 0#4 ∧ fld w 20 0 = 99#21 then .ok (.autload (fld w 27 21)) else
  if fld w 31 28 = 1#4 ∧ fld w 20 13 = 0#8 then .ok (.epopen (fld w 27 21) (fld w 12 7)) else
  if fld w 31 28 = 2#4 ∧ fld w 20 13 = 0#8 then .ok (.connect (fld w 27 21) (fld w 12 7)) else
  if fld w 31 28 = 3#4 ∧ fld w 20 13 = 0#8 then .ok (.accept (fld w 27 21) (fld w 12 7)) else
  if fld w 31 28 = 4#4 ∧ fld w 20 13 = 0#8 then .ok (.close (fld w 27 21) (fld w 12 7)) else
  if fld w 31 28 = 5#4 ∧ fld w 20 13 = 0#8 then .ok (.epstat (fld w 27 21) (fld w 12 7)) else
  if fld w 31 13 = 196608#19 then .ok (.epfree (fld w 12 7)) else
  if fld w 31 28 = 7#4 ∧ fld w 12 0 = 99#13 then .ok (.msgvec (fld w 27 21) (fld w 20 13)) else
  .error .unassignedSelector

/-- Major 52 (R270): VADD, VSUB, VMUL, VFMA and others. -/
def decMajor52 (w : BitVec 32) : Except DecodeError Instr :=
  if fld w 26 16 = 0#11 then .ok (.vadd (fld w 31 30) (fld w 29 27) (fld w 15 13) (fld w 12 10) (fld w 9 7)) else
  if fld w 26 16 = 8#11 then .ok (.vsub (fld w 31 30) (fld w 29 27) (fld w 15 13) (fld w 12 10) (fld w 9 7)) else
  if fld w 26 16 = 16#11 then .ok (.vmul (fld w 31 30) (fld w 29 27) (fld w 15 13) (fld w 12 10) (fld w 9 7)) else
  if fld w 26 19 = 3#8 then .ok (.vfma (fld w 31 30) (fld w 29 27) (fld w 18 16) (fld w 15 13) (fld w 12 10) (fld w 9 7)) else
  if fld w 26 16 = 32#11 then .ok (.vmin (fld w 31 30) (fld w 29 27) (fld w 15 13) (fld w 12 10) (fld w 9 7)) else
  if fld w 26 16 = 40#11 then .ok (.vmax (fld w 31 30) (fld w 29 27) (fld w 15 13) (fld w 12 10) (fld w 9 7)) else
  if fld w 26 13 = 384#14 then .ok (.vabs (fld w 31 30) (fld w 29 27) (fld w 12 10) (fld w 9 7)) else
  if fld w 26 13 = 448#14 then .ok (.vneg (fld w 31 30) (fld w 29 27) (fld w 12 10) (fld w 9 7)) else
  if fld w 31 30 = 0#2 ∧ fld w 26 13 = 512#14 then .ok (.vcpy (fld w 29 27) (fld w 12 10) (fld w 9 7)) else
  if fld w 31 30 = 0#2 ∧ fld w 26 13 = 576#14 then .ok (.vfill (fld w 29 27) (fld w 12 10) (fld w 9 7)) else
  if fld w 26 19 = 10#8 then .ok (.vclamp (fld w 31 30) (fld w 29 27) (fld w 18 16) (fld w 15 13) (fld w 12 10) (fld w 9 7)) else
  if fld w 26 19 = 11#8 then .ok (.vscl (fld w 31 30) (fld w 29 27) (fld w 18 16) (fld w 15 13) (fld w 12 10) (fld w 9 7)) else
  .error .unassignedSelector

/-- Major 53 (R270): VEXP2, VLOG2, VRCP, VRSQ and others. -/
def decMajor53 (w : BitVec 32) : Except DecodeError Instr :=
  if fld w 26 13 = 0#14 then .ok (.vexp2 (fld w 31 30) (fld w 29 27) (fld w 12 10) (fld w 9 7)) else
  if fld w 26 13 = 64#14 then .ok (.vlog2 (fld w 31 30) (fld w 29 27) (fld w 12 10) (fld w 9 7)) else
  if fld w 26 13 = 128#14 then .ok (.vrcp (fld w 31 30) (fld w 29 27) (fld w 12 10) (fld w 9 7)) else
  if fld w 26 13 = 192#14 then .ok (.vrsq (fld w 31 30) (fld w 29 27) (fld w 12 10) (fld w 9 7)) else
  if fld w 26 13 = 256#14 then .ok (.vsqrt (fld w 31 30) (fld w 29 27) (fld w 12 10) (fld w 9 7)) else
  if fld w 26 13 = 320#14 then .ok (.vtanh (fld w 31 30) (fld w 29 27) (fld w 12 10) (fld w 9 7)) else
  if fld w 26 13 = 384#14 then .ok (.vsigm (fld w 31 30) (fld w 29 27) (fld w 12 10) (fld w 9 7)) else
  .error .unassignedSelector

/-- Major 54 (R270): VRSUM, VRMAX, VRMIN, VSCAN and others. -/
def decMajor54 (w : BitVec 32) : Except DecodeError Instr :=
  if fld w 26 13 = 0#14 then .ok (.vrsum (fld w 31 30) (fld w 29 27) (fld w 12 10) (fld w 9 7)) else
  if fld w 26 13 = 64#14 then .ok (.vrmax (fld w 31 30) (fld w 29 27) (fld w 12 10) (fld w 9 7)) else
  if fld w 26 13 = 128#14 then .ok (.vrmin (fld w 31 30) (fld w 29 27) (fld w 12 10) (fld w 9 7)) else
  if fld w 26 13 = 192#14 then .ok (.vscan (fld w 31 30) (fld w 29 27) (fld w 12 10) (fld w 9 7)) else
  if fld w 26 16 = 32#11 then .ok (.vdot (fld w 31 30) (fld w 29 27) (fld w 15 13) (fld w 12 10) (fld w 9 7)) else
  if fld w 26 13 = 320#14 then .ok (.vcount (fld w 31 30) (fld w 29 27) (fld w 12 10) (fld w 9 7)) else
  .error .unassignedSelector

/-- Major 55 (R270): VCMP_EQ, VCMP_NE, VCMP_LT, VCMP_LE and others. -/
def decMajor55 (w : BitVec 32) : Except DecodeError Instr :=
  if fld w 26 16 = 0#11 then .ok (.vcmpEq (fld w 31 30) (fld w 29 27) (fld w 15 13) (fld w 12 10) (fld w 9 7)) else
  if fld w 26 16 = 8#11 then .ok (.vcmpNe (fld w 31 30) (fld w 29 27) (fld w 15 13) (fld w 12 10) (fld w 9 7)) else
  if fld w 26 16 = 16#11 then .ok (.vcmpLt (fld w 31 30) (fld w 29 27) (fld w 15 13) (fld w 12 10) (fld w 9 7)) else
  if fld w 26 16 = 24#11 then .ok (.vcmpLe (fld w 31 30) (fld w 29 27) (fld w 15 13) (fld w 12 10) (fld w 9 7)) else
  if fld w 26 16 = 32#11 then .ok (.vcmpGt (fld w 31 30) (fld w 29 27) (fld w 15 13) (fld w 12 10) (fld w 9 7)) else
  if fld w 26 16 = 40#11 then .ok (.vcmpGe (fld w 31 30) (fld w 29 27) (fld w 15 13) (fld w 12 10) (fld w 9 7)) else
  if fld w 26 19 = 8#8 then .ok (.vsel (fld w 31 30) (fld w 29 27) (fld w 18 16) (fld w 15 13) (fld w 12 10) (fld w 9 7)) else
  if fld w 26 16 = 128#11 then .ok (.vand (fld w 31 30) (fld w 29 27) (fld w 15 13) (fld w 12 10) (fld w 9 7)) else
  if fld w 26 16 = 136#11 then .ok (.vor (fld w 31 30) (fld w 29 27) (fld w 15 13) (fld w 12 10) (fld w 9 7)) else
  if fld w 26 16 = 144#11 then .ok (.vxor (fld w 31 30) (fld w 29 27) (fld w 15 13) (fld w 12 10) (fld w 9 7)) else
  if fld w 26 16 = 152#11 then .ok (.vshl (fld w 31 30) (fld w 29 27) (fld w 15 13) (fld w 12 10) (fld w 9 7)) else
  if fld w 26 16 = 160#11 then .ok (.vshr (fld w 31 30) (fld w 29 27) (fld w 15 13) (fld w 12 10) (fld w 9 7)) else
  .error .unassignedSelector

/-- Major 56 (R270): VGATH, VSCAT, VSHUF, VIOTA. -/
def decMajor56 (w : BitVec 32) : Except DecodeError Instr :=
  if fld w 31 30 = 0#2 ∧ fld w 26 16 = 0#11 then .ok (.vgath (fld w 29 27) (fld w 15 13) (fld w 12 10) (fld w 9 7)) else
  if fld w 31 30 = 0#2 ∧ fld w 26 16 = 8#11 then .ok (.vscat (fld w 29 27) (fld w 15 13) (fld w 12 10) (fld w 9 7)) else
  if fld w 31 30 = 0#2 ∧ fld w 26 16 = 16#11 then .ok (.vshuf (fld w 29 27) (fld w 15 13) (fld w 12 10) (fld w 9 7)) else
  if fld w 26 10 = 1536#17 then .ok (.viota (fld w 31 30) (fld w 29 27) (fld w 9 7)) else
  .error .unassignedSelector

/-- Major 57 (R270): VCVT, VQENC, VQDEC. -/
def decMajor57 (w : BitVec 32) : Except DecodeError Instr :=
  if fld w 26 13 = 0#14 then .ok (.vcvt (fld w 31 30) (fld w 29 27) (fld w 12 10) (fld w 9 7)) else
  if fld w 26 19 = 1#8 then .ok (.vqenc (fld w 31 30) (fld w 29 27) (fld w 18 16) (fld w 15 13) (fld w 12 10) (fld w 9 7)) else
  if fld w 26 19 = 2#8 then .ok (.vqdec (fld w 31 30) (fld w 29 27) (fld w 18 16) (fld w 15 13) (fld w 12 10) (fld w 9 7)) else
  .error .unassignedSelector

/-- Major 58 (R270): ZBIND, ZBINDC, ZSTAT. -/
def decMajor58 (w : BitVec 32) : Except DecodeError Instr :=
  if fld w 31 28 = 0#4 ∧ fld w 13 10 = 0#4 then .ok (.zbind (fld w 27 21) (fld w 20 14) (fld w 9 7)) else
  if fld w 31 28 = 1#4 ∧ fld w 13 10 = 0#4 then .ok (.zbindc (fld w 27 21) (fld w 20 14) (fld w 9 7)) else
  if fld w 31 24 = 32#8 ∧ fld w 20 14 = 0#7 then .ok (.zstat (fld w 23 21) (fld w 13 7)) else
  .error .unassignedSelector

/-- Major 60 (R270): MSET, MCLR, MLOAD, MSTAT. -/
def decMajor60 (w : BitVec 32) : Except DecodeError Instr :=
  if fld w 31 13 = 0#19 ∧ fld w 9 0 = 121#10 then .ok (.mset (fld w 12 10)) else
  if fld w 31 29 = 0#3 ∧ fld w 26 10 = 512#17 then .ok (.mclr (fld w 28 27) (fld w 9 7)) else
  if fld w 28 13 = 128#16 then .ok (.mload (fld w 31 29) (fld w 12 10) (fld w 9 7)) else
  if fld w 31 13 = 192#19 ∧ fld w 9 0 = 121#10 then .ok (.mstat (fld w 12 10)) else
  .error .unassignedSelector

/-- Major 61 (R270): MMA, MMAG, MTEAM. -/
def decMajor61 (w : BitVec 32) : Except DecodeError Instr :=
  if fld w 28 28 = 0#1 ∧ fld w 26 16 = 0#11 then .ok (.mma (fld w 31 29) (fld w 27 27) (fld w 15 13) (fld w 12 10) (fld w 9 7)) else
  if fld w 28 28 = 0#1 ∧ fld w 26 19 = 1#8 then .ok (.mmag (fld w 31 29) (fld w 27 27) (fld w 18 16) (fld w 15 13) (fld w 12 10) (fld w 9 7)) else
  if fld w 28 28 = 0#1 ∧ fld w 26 16 = 16#11 then .ok (.mteam (fld w 31 29) (fld w 27 27) (fld w 15 13) (fld w 12 10) (fld w 9 7)) else
  .error .unassignedSelector

/-- Major 62 (R270): MSWAP, MLDT, MEPI. -/
def decMajor62 (w : BitVec 32) : Except DecodeError Instr :=
  if fld w 31 16 = 0#16 ∧ fld w 9 0 = 125#10 then .ok (.mswap (fld w 15 13) (fld w 12 10)) else
  if fld w 28 13 = 64#16 then .ok (.mldt (fld w 31 29) (fld w 12 10) (fld w 9 7)) else
  if fld w 26 17 = 8#10 then .ok (.mepi (fld w 31 30) (fld w 29 29) (fld w 28 28) (fld w 27 27) (fld w 16 16) (fld w 15 13) (fld w 12 10) (fld w 9 7)) else
  .error .unassignedSelector

/-- The instruction of a 32-bit slot, by its major in bits [6:1] (R263, R270). -/
def decode32 (w : BitVec 32) : Except DecodeError Instr :=
  match (fld w 6 1).toNat with
  | 0 => decMajor0 w
  | 1 => decMajor1 w
  | 2 => decMajor2 w
  | 3 => decMajor3 w
  | 4 => decMajor4 w
  | 5 => decMajor5 w
  | 6 => decMajor6 w
  | 7 => decMajor7 w
  | 8 => decMajor8 w
  | 9 => decMajor9 w
  | 10 => decMajor10 w
  | 11 => decMajor11 w
  | 12 => decMajor12 w
  | 13 => decMajor13 w
  | 14 => decMajor14 w
  | 16 => decMajor16 w
  | 17 => decMajor17 w
  | 18 => decMajor18 w
  | 19 => decMajor19 w
  | 20 => decMajor20 w
  | 21 => decMajor21 w
  | 22 => decMajor22 w
  | 23 => decMajor23 w
  | 24 => decMajor24 w
  | 25 => decMajor25 w
  | 26 => decMajor26 w
  | 27 => decMajor27 w
  | 28 => decMajor28 w
  | 29 => decMajor29 w
  | 30 => decMajor30 w
  | 31 => decMajor31 w
  | 32 => decMajor32 w
  | 33 => decMajor33 w
  | 34 => decMajor34 w
  | 35 => decMajor35 w
  | 36 => decMajor36 w
  | 37 => decMajor37 w
  | 38 => decMajor38 w
  | 40 => decMajor40 w
  | 41 => decMajor41 w
  | 42 => decMajor42 w
  | 43 => decMajor43 w
  | 44 => decMajor44 w
  | 45 => decMajor45 w
  | 46 => decMajor46 w
  | 47 => decMajor47 w
  | 48 => decMajor48 w
  | 49 => decMajor49 w
  | 52 => decMajor52 w
  | 53 => decMajor53 w
  | 54 => decMajor54 w
  | 55 => decMajor55 w
  | 56 => decMajor56 w
  | 57 => decMajor57 w
  | 58 => decMajor58 w
  | 60 => decMajor60 w
  | 61 => decMajor61 w
  | 62 => decMajor62 w
  | _ => .error .unassignedMajor

/-- The instruction of a compact parcel, by its op5 in bits [5:1] (R264). -/
def decode16 (p : BitVec 16) : Except DecodeError Instr :=
  match (fldC p 5 1).toNat with
  | 1 => .ok (.cMov (fldC p 15 11) (fldC p 10 6))
  | 2 => .ok (.cAdd (fldC p 15 11) (fldC p 10 6))
  | 3 => .ok (.cSub (fldC p 15 11) (fldC p 10 6))
  | 4 => .ok (.cAnd (fldC p 15 11) (fldC p 10 6))
  | 5 => .ok (.cOr (fldC p 15 11) (fldC p 10 6))
  | 6 => .ok (.cXor (fldC p 15 11) (fldC p 10 6))
  | 7 => .ok (.cShl (fldC p 15 11) (fldC p 10 6))
  | 8 => .ok (.cShr (fldC p 15 11) (fldC p 10 6))
  | 9 => .ok (.cSar (fldC p 15 11) (fldC p 10 6))
  | 10 => .ok (.cAddi (fldC p 15 11) (fldC p 10 6))
  | 11 => .ok (.cLi (fldC p 15 11) (fldC p 10 6))
  | 12 => .ok (.cShli (fldC p 15 11) (fldC p 10 6))
  | 13 => .ok (.cShri (fldC p 15 11) (fldC p 10 6))
  | 14 => .ok (.cSari (fldC p 15 11) (fldC p 10 6))
  | 15 => .ok (.cAndi (fldC p 15 11) (fldC p 10 6))
  | 16 => .ok (.cSlt (fldC p 15 11) (fldC p 10 6))
  | 17 => .ok (.cSeq (fldC p 15 11) (fldC p 10 6))
  | 18 => .ok (.cMin (fldC p 15 11) (fldC p 10 6))
  | 19 => .ok (.cMax (fldC p 15 11) (fldC p 10 6))
  | 20 => .ok (.cLd (fldC p 15 11) (fldC p 10 6))
  | 21 => .ok (.cSt (fldC p 15 11) (fldC p 10 6))
  | 22 => .ok (.cNeg (fldC p 15 11) (fldC p 10 6))
  | 23 => .ok (.cNot (fldC p 15 11) (fldC p 10 6))
  | 24 => .ok (.cBz (fldC p 15 11) (fldC p 10 6))
  | 25 => .ok (.cBnz (fldC p 15 11) (fldC p 10 6))
  | 26 => .ok (.cJ (fldC p 15 6))
  | 27 => if fldC p 10 0 = 54#11 then .ok (.cJr (fldC p 15 11)) else .error .compactNonzero
  | 28 => if fldC p 15 0 = 56#16 then .ok .cNop else .error .compactNonzero
  | 29 => if fldC p 15 0 = 58#16 then .ok .cYield else .error .compactNonzero
  | 30 => .ok (.cFadd (fldC p 15 11) (fldC p 10 6))
  | _ => .error .reservedOp5

/-- R261. The instruction a PC names: `high` is PC bit [1], `w` the slot. -/
def decodeSlot (w : BitVec 32) (high : Bool) : Except DecodeError Instr :=
  if fld w 0 0 = 1#1 then
    if high then .error .highParcelOf32 else decode32 w
  else if fld w 16 16 = 1#1 then .error .highParcelNotCompact
  else decode16 (if high then w.extractLsb' 16 16 else w.extractLsb' 0 16)

/-- A slot from its four bytes, the first at the lowest address (R4, R261). -/
def slotOfBytes (b0 b1 b2 b3 : Byte) : BitVec 32 := b3 ++ b2 ++ b1 ++ b0

/-- Decoding a list of code bytes from its first slot: the instruction and the bytes after the slot. -/
def decodeBytes (high : Bool) : List Byte → Option (Except DecodeError Instr × List Byte)
  | b0 :: b1 :: b2 :: b3 :: rest => some (decodeSlot (slotOfBytes b0 b1 b2 b3) high, rest)
  | _ => none

/-- The host's question: the instruction the decoder reads from a table word of `nbits` bits. Every bit above
`nbits` is 0, so a compact word stands in the low parcel of its slot (R261). -/
def decodeTableWord (nbits w : Nat) : Option Instr :=
  match decodeSlot (BitVec.ofNat 32 (w % 2 ^ nbits)) false with
  | .ok i => some i
  | .error _ => none

end

/-- The code of an instruction: a 32-bit slot, a compact parcel, or none for an event. -/
inductive Code where
  | slot (w : BitVec 32)
  | parcel (p : BitVec 16)
  | none
  deriving DecidableEq, Repr

/-- R263, R264, R270 to R272. The code of an instruction, its fields placed from the most significant down. -/
def encode (i : Instr) : Code :=
  match i with
  | .add b a d => .slot (0#4 ++ b ++ a ++ d ++ 1#7)
  | .sub b a d => .slot (1#4 ++ b ++ a ++ d ++ 1#7)
  | .and b a d => .slot (2#4 ++ b ++ a ++ d ++ 1#7)
  | .or b a d => .slot (3#4 ++ b ++ a ++ d ++ 1#7)
  | .xor b a d => .slot (4#4 ++ b ++ a ++ d ++ 1#7)
  | .andn b a d => .slot (5#4 ++ b ++ a ++ d ++ 1#7)
  | .orn b a d => .slot (6#4 ++ b ++ a ++ d ++ 1#7)
  | .shl b a d => .slot (7#4 ++ b ++ a ++ d ++ 1#7)
  | .shr b a d => .slot (8#4 ++ b ++ a ++ d ++ 1#7)
  | .sar b a d => .slot (9#4 ++ b ++ a ++ d ++ 1#7)
  | .rol b a d => .slot (10#4 ++ b ++ a ++ d ++ 1#7)
  | .min b a d => .slot (11#4 ++ b ++ a ++ d ++ 1#7)
  | .max b a d => .slot (12#4 ++ b ++ a ++ d ++ 1#7)
  | .minn b a d => .slot (13#4 ++ b ++ a ++ d ++ 1#7)
  | .maxn b a d => .slot (14#4 ++ b ++ a ++ d ++ 1#7)
  | .sel b a d => .slot (15#4 ++ b ++ a ++ d ++ 1#7)
  | .mul b a d => .slot (0#4 ++ b ++ a ++ d ++ 3#7)
  | .mulh b a d => .slot (1#4 ++ b ++ a ++ d ++ 3#7)
  | .mulhn b a d => .slot (2#4 ++ b ++ a ++ d ++ 3#7)
  | .div b a d => .slot (3#4 ++ b ++ a ++ d ++ 3#7)
  | .divn b a d => .slot (4#4 ++ b ++ a ++ d ++ 3#7)
  | .rem b a d => .slot (5#4 ++ b ++ a ++ d ++ 3#7)
  | .remn b a d => .slot (6#4 ++ b ++ a ++ d ++ 3#7)
  | .slt b a d => .slot (7#4 ++ b ++ a ++ d ++ 3#7)
  | .sltn b a d => .slot (8#4 ++ b ++ a ++ d ++ 3#7)
  | .seq b a d => .slot (9#4 ++ b ++ a ++ d ++ 3#7)
  | .lea h b a d => .slot (h ++ b ++ a ++ d ++ 5#7)
  | .clz a d => .slot (0#11 ++ a ++ d ++ 7#7)
  | .ctz a d => .slot (128#11 ++ a ++ d ++ 7#7)
  | .popc a d => .slot (256#11 ++ a ++ d ++ 7#7)
  | .brev a d => .slot (384#11 ++ a ++ d ++ 7#7)
  | .bswap a d => .slot (512#11 ++ a ++ d ++ 7#7)
  | .exts w a d => .slot (0#4 ++ w ++ a ++ d ++ 9#7)
  | .extz w a d => .slot (1#4 ++ w ++ a ++ d ++ 9#7)
  | .bfx l p a d => .slot (l ++ p ++ a ++ d ++ 11#7)
  | .bfi l p a d => .slot (l ++ p ++ a ++ d ++ 13#7)
  | .addi i a d => .slot (i ++ a ++ d ++ 15#7)
  | .andi i a d => .slot (i ++ a ++ d ++ 17#7)
  | .ori i a d => .slot (i ++ a ++ d ++ 19#7)
  | .xori i a d => .slot (i ++ a ++ d ++ 21#7)
  | .shli n a d => .slot (0#5 ++ n ++ a ++ d ++ 23#7)
  | .shri n a d => .slot (1#5 ++ n ++ a ++ d ++ 23#7)
  | .sari n a d => .slot (2#5 ++ n ++ a ++ d ++ 23#7)
  | .slti i a d => .slot (i ++ a ++ d ++ 25#7)
  | .sltni i a d => .slot (i ++ a ++ d ++ 27#7)
  | .muli i a d => .slot (i ++ a ++ d ++ 29#7)
  | .li i d => .slot (i ++ d ++ 33#7)
  | .lix i d => .slot (i ++ d ++ 35#7)
  | .bz i a => .slot (i ++ 0#2 ++ a ++ 37#7)
  | .bnz i a => .slot (i ++ 1#2 ++ a ++ 37#7)
  | .bltz i a => .slot (i ++ 2#2 ++ a ++ 37#7)
  | .bgez i a => .slot (i ++ 3#2 ++ a ++ 37#7)
  | .jal i d => .slot (i ++ d ++ 39#7)
  | .ld o w a d => .slot (o ++ w ++ a ++ d ++ 41#7)
  | .ldx w b a d => .slot (w ++ b ++ a ++ d ++ 43#7)
  | .st o w a s => .slot (o ++ w ++ a ++ s ++ 45#7)
  | .lda o w a d => .slot (o ++ w ++ a ++ d ++ 47#7)
  | .stl o w a s => .slot (o ++ w ++ a ++ s ++ 49#7)
  | .spill i a s => .slot (i ++ a ++ s ++ 51#7)
  | .fill i a d => .slot (i ++ a ++ d ++ 53#7)
  | .ldfe a d => .slot (0#11 ++ a ++ d ++ 55#7)
  | .ldff a d => .slot (128#11 ++ a ++ d ++ 55#7)
  | .stef b a => .slot (2#4 ++ b ++ a ++ 55#14)
  | .stff b a => .slot (3#4 ++ b ++ a ++ 55#14)
  | .feset a => .slot (512#11 ++ a ++ 55#14)
  | .fepeek a d => .slot (640#11 ++ a ++ d ++ 55#7)
  | .sbstLo b a => .slot (6#4 ++ b ++ a ++ 55#14)
  | .sbstHi b a => .slot (7#4 ++ b ++ a ++ 55#14)
  | .amoadd b a d => .slot (0#4 ++ b ++ a ++ d ++ 57#7)
  | .amoand b a d => .slot (1#4 ++ b ++ a ++ d ++ 57#7)
  | .amoor b a d => .slot (2#4 ++ b ++ a ++ d ++ 57#7)
  | .amoxor b a d => .slot (3#4 ++ b ++ a ++ d ++ 57#7)
  | .amomin b a d => .slot (4#4 ++ b ++ a ++ d ++ 57#7)
  | .amomax b a d => .slot (5#4 ++ b ++ a ++ d ++ 57#7)
  | .amoswap b a d => .slot (6#4 ++ b ++ a ++ d ++ 57#7)
  | .amocas b a d => .slot (7#4 ++ b ++ a ++ d ++ 57#7)
  | .amofadd b a d => .slot (8#4 ++ b ++ a ++ d ++ 57#7)
  | .amodf b a d => .slot (9#4 ++ b ++ a ++ d ++ 57#7)
  | .amoaddAcq b a d => .slot (0#4 ++ b ++ a ++ d ++ 59#7)
  | .amoandAcq b a d => .slot (1#4 ++ b ++ a ++ d ++ 59#7)
  | .amoorAcq b a d => .slot (2#4 ++ b ++ a ++ d ++ 59#7)
  | .amoxorAcq b a d => .slot (3#4 ++ b ++ a ++ d ++ 59#7)
  | .amominAcq b a d => .slot (4#4 ++ b ++ a ++ d ++ 59#7)
  | .amomaxAcq b a d => .slot (5#4 ++ b ++ a ++ d ++ 59#7)
  | .amoswapAcq b a d => .slot (6#4 ++ b ++ a ++ d ++ 59#7)
  | .amocasAcq b a d => .slot (7#4 ++ b ++ a ++ d ++ 59#7)
  | .amofaddAcq b a d => .slot (8#4 ++ b ++ a ++ d ++ 59#7)
  | .amodfAcq b a d => .slot (9#4 ++ b ++ a ++ d ++ 59#7)
  | .amoaddRel b a d => .slot (0#4 ++ b ++ a ++ d ++ 61#7)
  | .amoandRel b a d => .slot (1#4 ++ b ++ a ++ d ++ 61#7)
  | .amoorRel b a d => .slot (2#4 ++ b ++ a ++ d ++ 61#7)
  | .amoxorRel b a d => .slot (3#4 ++ b ++ a ++ d ++ 61#7)
  | .amominRel b a d => .slot (4#4 ++ b ++ a ++ d ++ 61#7)
  | .amomaxRel b a d => .slot (5#4 ++ b ++ a ++ d ++ 61#7)
  | .amoswapRel b a d => .slot (6#4 ++ b ++ a ++ d ++ 61#7)
  | .amocasRel b a d => .slot (7#4 ++ b ++ a ++ d ++ 61#7)
  | .amofaddRel b a d => .slot (8#4 ++ b ++ a ++ d ++ 61#7)
  | .amodfRel b a d => .slot (9#4 ++ b ++ a ++ d ++ 61#7)
  | .fenceAcq => .slot (63#32)
  | .fenceRel => .slot (268435519#32)
  | .fenceFull => .slot (536870975#32)
  | .ifence => .slot (805306431#32)
  | .barrive a d => .slot (512#11 ++ a ++ d ++ 63#7)
  | .bwait b a => .slot (5#4 ++ b ++ a ++ 63#14)
  | .waitmsg => .slot (1610612799#32)
  | .msgpop d => .slot (114688#18 ++ d ++ 63#7)
  | .mbput n a => .slot (64#7 ++ n ++ a ++ 63#14)
  | .mbget n d => .slot (72#7 ++ n ++ 0#7 ++ d ++ 63#7)
  | .tagset b a => .slot (10#4 ++ b ++ a ++ 63#14)
  | .fadd b a d => .slot (0#4 ++ b ++ a ++ d ++ 65#7)
  | .fsub b a d => .slot (1#4 ++ b ++ a ++ d ++ 65#7)
  | .fmul b a d => .slot (2#4 ++ b ++ a ++ d ++ 65#7)
  | .fdiv b a d => .slot (3#4 ++ b ++ a ++ d ++ 65#7)
  | .fsqrt a d => .slot (512#11 ++ a ++ d ++ 65#7)
  | .fmin b a d => .slot (5#4 ++ b ++ a ++ d ++ 65#7)
  | .fmax b a d => .slot (6#4 ++ b ++ a ++ d ++ 65#7)
  | .fabs a d => .slot (896#11 ++ a ++ d ++ 65#7)
  | .fneg a d => .slot (1024#11 ++ a ++ d ++ 65#7)
  | .fcmp b a d => .slot (9#4 ++ b ++ a ++ d ++ 65#7)
  | .fclass a d => .slot (1280#11 ++ a ++ d ++ 65#7)
  | .ffma b a d => .slot (11#4 ++ b ++ a ++ d ++ 65#7)
  | .fcvt k y x a d => .slot (0#4 ++ k ++ y ++ x ++ a ++ d ++ 67#7)
  | .frnd o a d => .slot (16#8 ++ o ++ a ++ d ++ 67#7)
  | .sget a d => .slot (256#11 ++ a ++ d ++ 67#7)
  | .sset b a d => .slot (3#4 ++ b ++ a ++ d ++ 67#7)
  | .sclr a d => .slot (512#11 ++ a ++ d ++ 67#7)
  | .qenc w a d => .slot (320#10 ++ w ++ a ++ d ++ 67#7)
  | .qdec w a d => .slot (384#10 ++ w ++ a ++ d ++ 67#7)
  | .cbload n a => .slot (224#9 ++ n ++ a ++ 67#14)
  | .paddW32 b a d => .slot (0#4 ++ b ++ a ++ d ++ 69#7)
  | .psubW32 b a d => .slot (1#4 ++ b ++ a ++ d ++ 69#7)
  | .pmulW32 b a d => .slot (2#4 ++ b ++ a ++ d ++ 69#7)
  | .pfmaW32 b a d => .slot (3#4 ++ b ++ a ++ d ++ 69#7)
  | .pminW32 b a d => .slot (4#4 ++ b ++ a ++ d ++ 69#7)
  | .pmaxW32 b a d => .slot (5#4 ++ b ++ a ++ d ++ 69#7)
  | .pdotW32 b a d => .slot (6#4 ++ b ++ a ++ d ++ 69#7)
  | .pshufW32 b a d => .slot (7#4 ++ b ++ a ++ d ++ 69#7)
  | .pcvtBf16W32 g a d => .slot (288#9 ++ g ++ a ++ d ++ 69#7)
  | .pcvtFp16W32 g a d => .slot (320#9 ++ g ++ a ++ d ++ 69#7)
  | .pcvtI8W32 g a d => .slot (352#9 ++ g ++ a ++ d ++ 69#7)
  | .pcvtI32W32 g a d => .slot (384#9 ++ g ++ a ++ d ++ 69#7)
  | .paddBf16 b a d => .slot (0#4 ++ b ++ a ++ d ++ 71#7)
  | .psubBf16 b a d => .slot (1#4 ++ b ++ a ++ d ++ 71#7)
  | .pmulBf16 b a d => .slot (2#4 ++ b ++ a ++ d ++ 71#7)
  | .pfmaBf16 b a d => .slot (3#4 ++ b ++ a ++ d ++ 71#7)
  | .pminBf16 b a d => .slot (4#4 ++ b ++ a ++ d ++ 71#7)
  | .pmaxBf16 b a d => .slot (5#4 ++ b ++ a ++ d ++ 71#7)
  | .pdotBf16 b a d => .slot (6#4 ++ b ++ a ++ d ++ 71#7)
  | .pshufBf16 b a d => .slot (7#4 ++ b ++ a ++ d ++ 71#7)
  | .pcvtW32Bf16 g a d => .slot (256#9 ++ g ++ a ++ d ++ 71#7)
  | .pcvtFp16Bf16 g a d => .slot (320#9 ++ g ++ a ++ d ++ 71#7)
  | .pcvtI8Bf16 g a d => .slot (352#9 ++ g ++ a ++ d ++ 71#7)
  | .pcvtI32Bf16 g a d => .slot (384#9 ++ g ++ a ++ d ++ 71#7)
  | .paddFp16 b a d => .slot (0#4 ++ b ++ a ++ d ++ 73#7)
  | .psubFp16 b a d => .slot (1#4 ++ b ++ a ++ d ++ 73#7)
  | .pmulFp16 b a d => .slot (2#4 ++ b ++ a ++ d ++ 73#7)
  | .pfmaFp16 b a d => .slot (3#4 ++ b ++ a ++ d ++ 73#7)
  | .pminFp16 b a d => .slot (4#4 ++ b ++ a ++ d ++ 73#7)
  | .pmaxFp16 b a d => .slot (5#4 ++ b ++ a ++ d ++ 73#7)
  | .pdotFp16 b a d => .slot (6#4 ++ b ++ a ++ d ++ 73#7)
  | .pshufFp16 b a d => .slot (7#4 ++ b ++ a ++ d ++ 73#7)
  | .pcvtW32Fp16 g a d => .slot (256#9 ++ g ++ a ++ d ++ 73#7)
  | .pcvtBf16Fp16 g a d => .slot (288#9 ++ g ++ a ++ d ++ 73#7)
  | .pcvtI8Fp16 g a d => .slot (352#9 ++ g ++ a ++ d ++ 73#7)
  | .pcvtI32Fp16 g a d => .slot (384#9 ++ g ++ a ++ d ++ 73#7)
  | .paddI8 b a d => .slot (0#4 ++ b ++ a ++ d ++ 75#7)
  | .psubI8 b a d => .slot (1#4 ++ b ++ a ++ d ++ 75#7)
  | .pmulI8 b a d => .slot (2#4 ++ b ++ a ++ d ++ 75#7)
  | .pfmaI8 b a d => .slot (3#4 ++ b ++ a ++ d ++ 75#7)
  | .pminI8 b a d => .slot (4#4 ++ b ++ a ++ d ++ 75#7)
  | .pmaxI8 b a d => .slot (5#4 ++ b ++ a ++ d ++ 75#7)
  | .pdotI8 b a d => .slot (6#4 ++ b ++ a ++ d ++ 75#7)
  | .pshufI8 b a d => .slot (7#4 ++ b ++ a ++ d ++ 75#7)
  | .pcvtW32I8 g a d => .slot (256#9 ++ g ++ a ++ d ++ 75#7)
  | .pcvtBf16I8 g a d => .slot (288#9 ++ g ++ a ++ d ++ 75#7)
  | .pcvtFp16I8 g a d => .slot (320#9 ++ g ++ a ++ d ++ 75#7)
  | .pcvtI32I8 g a d => .slot (384#9 ++ g ++ a ++ d ++ 75#7)
  | .paddI32 b a d => .slot (0#4 ++ b ++ a ++ d ++ 77#7)
  | .psubI32 b a d => .slot (1#4 ++ b ++ a ++ d ++ 77#7)
  | .pmulI32 b a d => .slot (2#4 ++ b ++ a ++ d ++ 77#7)
  | .pfmaI32 b a d => .slot (3#4 ++ b ++ a ++ d ++ 77#7)
  | .pminI32 b a d => .slot (4#4 ++ b ++ a ++ d ++ 77#7)
  | .pmaxI32 b a d => .slot (5#4 ++ b ++ a ++ d ++ 77#7)
  | .pdotI32 b a d => .slot (6#4 ++ b ++ a ++ d ++ 77#7)
  | .pshufI32 b a d => .slot (7#4 ++ b ++ a ++ d ++ 77#7)
  | .pcvtW32I32 g a d => .slot (256#9 ++ g ++ a ++ d ++ 77#7)
  | .pcvtBf16I32 g a d => .slot (288#9 ++ g ++ a ++ d ++ 77#7)
  | .pcvtFp16I32 g a d => .slot (320#9 ++ g ++ a ++ d ++ 77#7)
  | .pcvtI8I32 g a d => .slot (352#9 ++ g ++ a ++ d ++ 77#7)
  | .addpc i d => .slot (i ++ d ++ 81#7)
  | .jalr i a d => .slot (i ++ a ++ d ++ 83#7)
  | .loop i a => .slot (i ++ 0#2 ++ a ++ 85#7)
  | .nop => .slot (87#32)
  | .yield => .slot (268435543#32)
  | .halt => .slot (536870999#32)
  | .xret => .slot (805306455#32)
  | .bkpt => .slot (1073741911#32)
  | .wfe => .slot (1342177367#32)
  | .perfrd a d => .slot (768#11 ++ a ++ d ++ 87#7)
  | .trap i => .slot (i ++ 89#21)
  | .sysrd i d => .slot (i ++ 0#7 ++ d ++ 91#7)
  | .syswr i a => .slot (i ++ a ++ 93#14)
  | .enq a d => .slot (0#11 ++ a ++ d ++ 95#7)
  | .tdone a => .slot (128#11 ++ a ++ 95#14)
  | .progress a => .slot (256#11 ++ a ++ 95#14)
  | .pushc b a => .slot (3#4 ++ b ++ a ++ 95#14)
  | .popr a d => .slot (512#11 ++ a ++ d ++ 95#7)
  | .srbegin a => .slot (640#11 ++ a ++ 95#14)
  | .srend => .slot (1610612831#32)
  | .repload b a => .slot (7#4 ++ b ++ a ++ 95#14)
  | .reprun b a => .slot (8#4 ++ b ++ a ++ 95#14)
  | .repstop => .slot (2415919199#32)
  | .send a t e => .slot (0#4 ++ a ++ t ++ e ++ 97#7)
  | .sendt a t e => .slot (1#4 ++ a ++ t ++ e ++ 97#7)
  | .recv a t e => .slot (2#4 ++ a ++ t ++ e ++ 97#7)
  | .recvt a t e => .slot (3#4 ++ a ++ t ++ e ++ 97#7)
  | .offer a e => .slot (4#4 ++ a ++ 0#8 ++ e ++ 97#7)
  | .select a t e => .slot (5#4 ++ a ++ t ++ e ++ 97#7)
  | .deleg a e => .slot (6#4 ++ a ++ 0#8 ++ e ++ 97#7)
  | .autload a => .slot (0#4 ++ a ++ 99#21)
  | .epopen a e => .slot (1#4 ++ a ++ 0#8 ++ e ++ 99#7)
  | .connect a e => .slot (2#4 ++ a ++ 0#8 ++ e ++ 99#7)
  | .accept a e => .slot (3#4 ++ a ++ 0#8 ++ e ++ 99#7)
  | .close a e => .slot (4#4 ++ a ++ 0#8 ++ e ++ 99#7)
  | .epstat a e => .slot (5#4 ++ a ++ 0#8 ++ e ++ 99#7)
  | .epfree e => .slot (196608#19 ++ e ++ 99#7)
  | .msgvec a t => .slot (7#4 ++ a ++ t ++ 99#13)
  | .vadd r t b a d => .slot (r ++ t ++ 0#11 ++ b ++ a ++ d ++ 105#7)
  | .vsub r t b a d => .slot (r ++ t ++ 8#11 ++ b ++ a ++ d ++ 105#7)
  | .vmul r t b a d => .slot (r ++ t ++ 16#11 ++ b ++ a ++ d ++ 105#7)
  | .vfma r t c b a d => .slot (r ++ t ++ 3#8 ++ c ++ b ++ a ++ d ++ 105#7)
  | .vmin r t b a d => .slot (r ++ t ++ 32#11 ++ b ++ a ++ d ++ 105#7)
  | .vmax r t b a d => .slot (r ++ t ++ 40#11 ++ b ++ a ++ d ++ 105#7)
  | .vabs r t a d => .slot (r ++ t ++ 384#14 ++ a ++ d ++ 105#7)
  | .vneg r t a d => .slot (r ++ t ++ 448#14 ++ a ++ d ++ 105#7)
  | .vcpy t a d => .slot (0#2 ++ t ++ 512#14 ++ a ++ d ++ 105#7)
  | .vfill t a d => .slot (0#2 ++ t ++ 576#14 ++ a ++ d ++ 105#7)
  | .vclamp r t c b a d => .slot (r ++ t ++ 10#8 ++ c ++ b ++ a ++ d ++ 105#7)
  | .vscl r t c b a d => .slot (r ++ t ++ 11#8 ++ c ++ b ++ a ++ d ++ 105#7)
  | .vexp2 r t a d => .slot (r ++ t ++ 0#14 ++ a ++ d ++ 107#7)
  | .vlog2 r t a d => .slot (r ++ t ++ 64#14 ++ a ++ d ++ 107#7)
  | .vrcp r t a d => .slot (r ++ t ++ 128#14 ++ a ++ d ++ 107#7)
  | .vrsq r t a d => .slot (r ++ t ++ 192#14 ++ a ++ d ++ 107#7)
  | .vsqrt r t a d => .slot (r ++ t ++ 256#14 ++ a ++ d ++ 107#7)
  | .vtanh r t a d => .slot (r ++ t ++ 320#14 ++ a ++ d ++ 107#7)
  | .vsigm r t a d => .slot (r ++ t ++ 384#14 ++ a ++ d ++ 107#7)
  | .vrsum r t a d => .slot (r ++ t ++ 0#14 ++ a ++ d ++ 109#7)
  | .vrmax r t a d => .slot (r ++ t ++ 64#14 ++ a ++ d ++ 109#7)
  | .vrmin r t a d => .slot (r ++ t ++ 128#14 ++ a ++ d ++ 109#7)
  | .vscan r t a d => .slot (r ++ t ++ 192#14 ++ a ++ d ++ 109#7)
  | .vdot r t b a d => .slot (r ++ t ++ 32#11 ++ b ++ a ++ d ++ 109#7)
  | .vcount r t a d => .slot (r ++ t ++ 320#14 ++ a ++ d ++ 109#7)
  | .vcmpEq r t b a d => .slot (r ++ t ++ 0#11 ++ b ++ a ++ d ++ 111#7)
  | .vcmpNe r t b a d => .slot (r ++ t ++ 8#11 ++ b ++ a ++ d ++ 111#7)
  | .vcmpLt r t b a d => .slot (r ++ t ++ 16#11 ++ b ++ a ++ d ++ 111#7)
  | .vcmpLe r t b a d => .slot (r ++ t ++ 24#11 ++ b ++ a ++ d ++ 111#7)
  | .vcmpGt r t b a d => .slot (r ++ t ++ 32#11 ++ b ++ a ++ d ++ 111#7)
  | .vcmpGe r t b a d => .slot (r ++ t ++ 40#11 ++ b ++ a ++ d ++ 111#7)
  | .vsel r t c b a d => .slot (r ++ t ++ 8#8 ++ c ++ b ++ a ++ d ++ 111#7)
  | .vand r t b a d => .slot (r ++ t ++ 128#11 ++ b ++ a ++ d ++ 111#7)
  | .vor r t b a d => .slot (r ++ t ++ 136#11 ++ b ++ a ++ d ++ 111#7)
  | .vxor r t b a d => .slot (r ++ t ++ 144#11 ++ b ++ a ++ d ++ 111#7)
  | .vshl r t b a d => .slot (r ++ t ++ 152#11 ++ b ++ a ++ d ++ 111#7)
  | .vshr r t b a d => .slot (r ++ t ++ 160#11 ++ b ++ a ++ d ++ 111#7)
  | .vgath t b a d => .slot (0#2 ++ t ++ 0#11 ++ b ++ a ++ d ++ 113#7)
  | .vscat t b a d => .slot (0#2 ++ t ++ 8#11 ++ b ++ a ++ d ++ 113#7)
  | .vshuf t b a d => .slot (0#2 ++ t ++ 16#11 ++ b ++ a ++ d ++ 113#7)
  | .viota r t d => .slot (r ++ t ++ 1536#17 ++ d ++ 113#7)
  | .vcvt r t a d => .slot (r ++ t ++ 0#14 ++ a ++ d ++ 115#7)
  | .vqenc r t c b a d => .slot (r ++ t ++ 1#8 ++ c ++ b ++ a ++ d ++ 115#7)
  | .vqdec r t c b a d => .slot (r ++ t ++ 2#8 ++ c ++ b ++ a ++ d ++ 115#7)
  | .zbind b a n => .slot (0#4 ++ b ++ a ++ 0#4 ++ n ++ 117#7)
  | .zbindc b a n => .slot (1#4 ++ b ++ a ++ 0#4 ++ n ++ 117#7)
  | .zstat n d => .slot (32#8 ++ n ++ 0#7 ++ d ++ 117#7)
  | .mset a => .slot (0#19 ++ a ++ 121#10)
  | .mclr n q => .slot (0#3 ++ n ++ 512#17 ++ q ++ 121#7)
  | .mload c a q => .slot (c ++ 128#16 ++ a ++ q ++ 121#7)
  | .mstat a => .slot (192#19 ++ a ++ 121#10)
  | .mma c z b a q => .slot (c ++ 0#1 ++ z ++ 0#11 ++ b ++ a ++ q ++ 123#7)
  | .mmag c z x b a q => .slot (c ++ 0#1 ++ z ++ 1#8 ++ x ++ b ++ a ++ q ++ 123#7)
  | .mteam c z b a q => .slot (c ++ 0#1 ++ z ++ 16#11 ++ b ++ a ++ q ++ 123#7)
  | .mswap b a => .slot (0#16 ++ b ++ a ++ 125#10)
  | .mldt c a q => .slot (c ++ 64#16 ++ a ++ q ++ 125#7)
  | .mepi r p o g n b a q => .slot (r ++ p ++ o ++ g ++ 8#10 ++ n ++ b ++ a ++ q ++ 125#7)
  | .cMov a d => .parcel (a ++ d ++ 2#6)
  | .cAdd a d => .parcel (a ++ d ++ 4#6)
  | .cSub a d => .parcel (a ++ d ++ 6#6)
  | .cAnd a d => .parcel (a ++ d ++ 8#6)
  | .cOr a d => .parcel (a ++ d ++ 10#6)
  | .cXor a d => .parcel (a ++ d ++ 12#6)
  | .cShl a d => .parcel (a ++ d ++ 14#6)
  | .cShr a d => .parcel (a ++ d ++ 16#6)
  | .cSar a d => .parcel (a ++ d ++ 18#6)
  | .cAddi i d => .parcel (i ++ d ++ 20#6)
  | .cLi i d => .parcel (i ++ d ++ 22#6)
  | .cShli n d => .parcel (n ++ d ++ 24#6)
  | .cShri n d => .parcel (n ++ d ++ 26#6)
  | .cSari n d => .parcel (n ++ d ++ 28#6)
  | .cAndi i d => .parcel (i ++ d ++ 30#6)
  | .cSlt a d => .parcel (a ++ d ++ 32#6)
  | .cSeq a d => .parcel (a ++ d ++ 34#6)
  | .cMin a d => .parcel (a ++ d ++ 36#6)
  | .cMax a d => .parcel (a ++ d ++ 38#6)
  | .cLd a d => .parcel (a ++ d ++ 40#6)
  | .cSt a d => .parcel (a ++ d ++ 42#6)
  | .cNeg a d => .parcel (a ++ d ++ 44#6)
  | .cNot a d => .parcel (a ++ d ++ 46#6)
  | .cBz i d => .parcel (i ++ d ++ 48#6)
  | .cBnz i d => .parcel (i ++ d ++ 50#6)
  | .cJ i => .parcel (i ++ 52#6)
  | .cJr a => .parcel (a ++ 54#11)
  | .cNop => .parcel (56#16)
  | .cYield => .parcel (58#16)
  | .cFadd a d => .parcel (a ++ d ++ 60#6)
  | _ => .none

end Sys2Proof
end

