-- ==== Sys2Proof/Machine/Num.lean ====
section
/-! DEFINITION. Numbers (chapter "Number Formats and Rounding", R235 to R259): exact values, formats, RoundOdd,
FinalRound, the codebook search, arithmetic on sticky values, comparison, the summation tree, special functions and
integer conversion. Everything here is a function of its arguments; no state is read. -/

namespace Sys2Proof.Machine

/-! ## Exact values -/

/-- A number: NaN, an infinity, or the finite value (-1)^neg * man * 2^exp. -/
inductive Num where
  | nan
  | inf (neg : Bool)
  | fin (neg : Bool) (man : Nat) (exp : Int)
  deriving DecidableEq, Repr

/-- A value with its sticky bit (R239). -/
structure Pair where
  x : Num
  s : Bool
  deriving DecidableEq, Repr

/-- Flags, bit i standing for STATUS bit 8 + i: NX, UF, OF, DZ, NV, PREC (R242). -/
abbrev Flags := BitVec 8

/-- NX (R242). -/
def flagNX : Flags := 0x01
/-- UF (R242). -/
def flagUF : Flags := 0x02
/-- OF (R242). -/
def flagOF : Flags := 0x04
/-- DZ (R242). -/
def flagDZ : Flags := 0x08
/-- NV (R242). -/
def flagNV : Flags := 0x10
/-- PREC (R242). -/
def flagPREC : Flags := 0x20

/-- A flag set when a condition holds. -/
def flagIf (b : Bool) (f : Flags) : Flags := if b then f else 0

/-- The number of bits of a natural number. -/
def bitLen (n : Nat) : Nat := if n = 0 then 0 else Nat.log2 n + 1

/-- Is this number negative or -0? -/
def Num.isNeg : Num → Bool
  | .nan => false
  | .inf n => n
  | .fin n _ _ => n

/-- Is this number zero, of either sign? -/
def Num.isZero : Num → Bool
  | .fin _ 0 _ => true
  | _ => false

/-- The number with a given sign. -/
def Num.withSign (b : Bool) : Num → Num
  | .nan => .nan
  | .inf _ => .inf b
  | .fin _ m e => .fin b m e

/-- Positive zero. -/
def Num.zero : Num := .fin false 0 0

/-- The exact value of an integer. -/
def Num.ofInt (i : Int) : Num := .fin (decide (i < 0)) i.natAbs 0

/-- The pair (+0, 0). -/
def Pair.zero : Pair := ⟨.zero, false⟩

/-! ## Formats (R235) -/

/-- A format with an exponent field: precision p, exponent of the ulp of its subnormals, exponent of the ulp of its
largest binade. -/
structure Fmt where
  p : Nat
  lo : Int
  hi : Int
  deriving DecidableEq, Repr

/-- W32 (R235). -/
def Fmt.w32 : Fmt := ⟨24, -149, 104⟩
/-- W19 (R235). -/
def Fmt.w19 : Fmt := ⟨11, -136, 117⟩
/-- BF16 (R235). -/
def Fmt.bf16 : Fmt := ⟨8, -133, 120⟩
/-- FP16 (R235). -/
def Fmt.fp16 : Fmt := ⟨11, -24, 5⟩

/-- Decoding an encoding of `e` exponent bits, bias `b` and `f` fraction bits, whose top exponent code holds the
infinities and NaNs (R235). -/
def decodeIeee (e f : Nat) (bias : Int) (w : Nat) : Num :=
  let frac := w % 2 ^ f
  let ex := (w / 2 ^ f) % 2 ^ e
  let neg := decide ((w / 2 ^ (e + f)) % 2 = 1)
  if ex = 2 ^ e - 1 then
    if frac = 0 then .inf neg else .nan
  else if ex = 0 then .fin neg frac (1 - bias - f)
  else .fin neg (2 ^ f + frac) (ex - bias - f)

/-- Encoding a value of such a format; the canonical NaN is positive with only the top fraction bit set (R235). -/
def encodeIeee (e f : Nat) (bias : Int) (x : Num) : Nat :=
  match x with
  | .nan => (2 ^ e - 1) * 2 ^ f + 2 ^ (f - 1)
  | .inf n => (if n then 2 ^ (e + f) else 0) + (2 ^ e - 1) * 2 ^ f
  | .fin n m ex =>
    let sg := if n then 2 ^ (e + f) else 0
    let lo : Int := 1 - bias - f
    -- bring the significand to at most f + 1 bits at an exponent not below lo
    let t := max lo (ex + bitLen m - (f + 1))
    let m' := if t ≤ ex then m * 2 ^ (ex - t).toNat else m / 2 ^ (t - ex).toNat
    if m' < 2 ^ f then sg + m'
    else sg + ((t + bias + f).toNat) * 2 ^ f + (m' - 2 ^ f)

/-- The value of a W32 encoding. -/
def decodeW32 (w : BitVec 32) : Num := decodeIeee 8 23 127 w.toNat
/-- The encoding of a W32 value. -/
def encodeW32 (x : Num) : BitVec 32 := BitVec.ofNat 32 (encodeIeee 8 23 127 x)
/-- The value of a W19 container, whose bits [12:0] are ignored (R237). -/
def decodeW19 (w : BitVec 32) : Num := decodeW32 (w &&& 0xFFFFE000#32)
/-- The value of a BF16 encoding. -/
def decodeBf16 (w : BitVec 16) : Num := decodeIeee 8 7 127 w.toNat
/-- The encoding of a BF16 value. -/
def encodeBf16 (x : Num) : BitVec 16 := BitVec.ofNat 16 (encodeIeee 8 7 127 x)
/-- The value of an FP16 encoding. -/
def decodeFp16 (w : BitVec 16) : Num := decodeIeee 5 10 15 w.toNat
/-- The encoding of an FP16 value. -/
def encodeFp16 (x : Num) : BitVec 16 := BitVec.ofNat 16 (encodeIeee 5 10 15 x)
/-- The value of an FP8 E5M2 code. -/
def decodeE5m2 (c : Nat) : Num := decodeIeee 5 2 15 c
/-- The value of an FP8 E4M3 code, which has no infinity and one NaN magnitude (R235). -/
def decodeE4m3 (c : Nat) : Num :=
  let neg := decide ((c / 128) % 2 = 1)
  let m := c % 128
  if m = 127 then .nan
  else if m / 8 = 0 then .fin neg (m % 8) (-9)
  else .fin neg (8 + m % 8) ((m / 8 : Nat) - 10 : Int)
/-- The value of an FP4 E2M1 code. -/
def decodeE2m1 (c : Nat) : Num :=
  let neg := decide ((c / 8) % 2 = 1)
  let m := c % 8
  if m / 2 = 0 then .fin neg (m % 2) (-1)
  else .fin neg (2 + m % 2) ((m / 2 : Nat) - 2 : Int)
/-- The value of an E8M0 code (R237). -/
def decodeE8m0 (c : Nat) : Num := if c = 255 then .nan else .fin false 1 ((c : Int) - 127)

/-! ## RoundOdd and FinalRound (R240, R241, R244, R245) -/

/-- A magnitude cut to a format: kept significand t at exponent e, and the dropped part rem out of 2^sh. -/
structure Cut where
  t : Nat
  e : Int
  rem : Nat
  sh : Nat
  deriving DecidableEq, Repr

/-- Truncation toward zero to the precision and exponent range of a format, its largest exponent apart. -/
def cutTo (f : Fmt) (man : Nat) (exp : Int) : Cut :=
  let e := max f.lo (exp + bitLen man - f.p)
  if e ≤ exp then ⟨man * 2 ^ (exp - e).toNat, e, 0, 0⟩
  else
    let sh := (e - exp).toNat
    ⟨man / 2 ^ sh, e, man % 2 ^ sh, sh⟩

/-- R240. RoundOdd of the exact value `x`, or with `stk` of a value beyond x by less than its last place. The flags
are those of R244. -/
def roundOdd (f : Fmt) (x : Num) (stk : Bool) : Pair × Flags :=
  match x with
  | .nan => (⟨.nan, false⟩, 0)
  | .inf n => (⟨.inf n, false⟩, 0)
  | .fin n man exp =>
    if man = 0 && !stk then (⟨.fin n 0 f.lo, false⟩, 0) else
    let c := cutTo f man exp
    let inexact := decide (c.rem ≠ 0) || stk
    if f.hi < c.e || (decide (c.e = f.hi ∧ c.t = 2 ^ f.p - 1) && inexact) then (⟨.inf n, true⟩, flagOF ||| flagNX)
    else if !inexact then (⟨.fin n c.t c.e, false⟩, 0)
    else
      let t := if c.t % 2 = 0 then c.t + 1 else c.t
      (⟨.fin n t c.e, true⟩, flagNX ||| flagIf (decide (t < 2 ^ (f.p - 1))) flagUF)

/-- R241. Does a mode choose the candidate farther from zero, for an inexact value at distance (num + ε)/den from Z?
`s` says that ε is there, `zOdd` that Z's last significand bit is 1, `t8` is the SRD draw. -/
def pickAway (mode : Nat) (neg : Bool) (num den : Nat) (s zOdd : Bool) (t8 : Nat) : Bool :=
  match mode with
  | 0 => decide (den < 2 * num) || (decide (2 * num = den) && (s || zOdd))
  | 1 => decide (den ≤ 2 * num)
  | 2 => false
  | 3 => !neg
  | 4 => neg
  | _ => decide (t8 * den < 256 * num) || (decide (256 * num = t8 * den) && s)

/-- R245. Does a final rounding of a value held at precision q into precision p fall outside the precondition? -/
def precFlag (s : Bool) (p q mode : Nat) : Flags :=
  flagIf (s && (decide (q < p + 2) || (decide (mode = 5) && decide (q < p + 9)))) flagPREC

/-- R241, R244, R245. FinalRound of (x, s) into a format with an exponent field. -/
def finalRound (f : Fmt) (mode q t8 : Nat) (v : Pair) : Num × Flags :=
  let prec := precFlag v.s f.p q mode ||| flagIf v.s flagNX
  let big (n : Bool) : Num := .fin n (2 ^ f.p - 1) f.hi
  match v.x with
  | .nan => (.nan, prec)
  | .inf n =>
    if v.s then
      (if mode = 2 || (mode = 3 && n) || (mode = 4 && !n) then big n else .inf n, flagOF ||| flagNX ||| prec)
    else (.inf n, prec)
  | .fin n man exp =>
    let c := cutTo f man exp
    if f.hi < c.e && decide (man ≠ 0) then
      (if mode = 2 || (mode = 3 && n) || (mode = 4 && !n) then big n else .inf n, flagOF ||| flagNX ||| prec)
    else if decide (c.rem = 0) && !v.s then (.fin n c.t (if man = 0 then f.lo else c.e), prec)
    else
      let away := pickAway mode n c.rem (2 ^ c.sh) v.s (decide (c.t % 2 = 1)) t8
      let t := if away then c.t + 1 else c.t
      let e := if man = 0 then f.lo else c.e
      if decide (e = f.hi ∧ t = 2 ^ f.p) then (.inf n, flagOF ||| flagNX ||| prec)
      else
        (.fin n t e, flagNX ||| flagIf (decide (t < 2 ^ (f.p - 1))) flagUF ||| prec)

/-- R259. FinalRound at ulp 1: the integer chosen, before saturation. None for NaN and for infinities, whose result
`sat` is the sign. -/
def roundInt (mode t8 : Nat) (v : Pair) : Option Int × Bool × Flags :=
  match v.x with
  | .nan => (none, false, flagNV ||| flagIf v.s flagNX)
  | .inf n => (none, n, flagNV ||| flagIf v.s (flagNX ||| flagOF))
  | .fin n man exp =>
    let sh := (-exp).toNat
    let t := if 0 ≤ exp then man * 2 ^ exp.toNat else man / 2 ^ sh
    let rem := if 0 ≤ exp then 0 else man % 2 ^ sh
    let exact := decide (rem = 0) && !v.s
    let away := !exact && pickAway mode n rem (2 ^ sh) v.s (decide (t % 2 = 1)) t8
    let m : Int := if away then (t : Int) + 1 else t
    (some (if n then -m else m), n, flagIf (!exact) flagNX)

/-- Saturation of an integer into [lo, hi]; NV when it saturates (R259, R303). -/
def saturate (lo hi i : Int) : Int × Flags :=
  if i < lo then (lo, flagNV) else if hi < i then (hi, flagNV) else (i, 0)

/-- R259. A floating value into an integer range. NaN gives 0. An integer target has no precision p, so R245 gives it
no PREC (DEDUCED, log 16). -/
def floatToInt (lo hi : Int) (mode t8 : Nat) (v : Pair) : Int × Flags :=
  match roundInt mode t8 v with
  | (some i, _, fl) => ((saturate lo hi i).1, fl ||| (saturate lo hi i).2)
  | (none, n, fl) => (match v.x with | .nan => 0 | _ => if n then lo else hi, fl)

/-! ## Arithmetic on sticky values (R246) -/

/-- The signed significand at a common exponent. -/
def Num.scaled (neg : Bool) (man : Nat) (exp base : Int) : Int :=
  let m : Int := man * 2 ^ (exp - base).toNat
  if neg then -m else m

/-- The exact sum of two numbers, and NV. An exact zero sum is -0 only when both terms are -0. -/
def addExact (a b : Num) : Num × Flags :=
  match a, b with
  | .nan, _ => (.nan, flagNV)
  | _, .nan => (.nan, flagNV)
  | .inf m, .inf n => if m = n then (.inf m, 0) else (.nan, flagNV)
  | .inf m, .fin _ _ _ => (.inf m, 0)
  | .fin _ _ _, .inf n => (.inf n, 0)
  | .fin na ma ea, .fin nb mb eb =>
    let e := min ea eb
    let r := Num.scaled na ma ea e + Num.scaled nb mb eb e
    if r = 0 then (.fin (decide (ma = 0 ∧ mb = 0) && na && nb) 0 e, 0)
    else (.fin (decide (r < 0)) r.natAbs e, 0)

/-- The exact product, and NV. -/
def mulExact (a b : Num) : Num × Flags :=
  match a, b with
  | .nan, _ => (.nan, flagNV)
  | _, .nan => (.nan, flagNV)
  | .inf m, .inf n => (.inf (m != n), 0)
  | .inf m, .fin n mb _ => if mb = 0 then (.nan, flagNV) else (.inf (m != n), 0)
  | .fin m ma _, .inf n => if ma = 0 then (.nan, flagNV) else (.inf (m != n), 0)
  | .fin m ma ea, .fin n mb eb => (.fin (m != n) (ma * mb) (ea + eb), 0)

/-- R246. The sticky bit of a result from its operands: none for NaN; for an infinity that comes from an infinite
operand, the OR of the infinite operands' bits; otherwise the OR of all. -/
def stickyOf (r : Num) (ops : List Pair) : Bool :=
  match r with
  | .nan => false
  | .inf _ => ops.any fun p => p.s && (match p.x with | .inf _ => true | _ => false)
  | .fin _ _ _ => ops.any fun p => p.s

/-- R246. An exact result narrowed into a format, with the operands' sticky bits. -/
def narrow (f : Fmt) (r : Num) (stk : Bool) (ops : List Pair) (fl : Flags) : Pair × Flags :=
  let (v, fl') := roundOdd f r stk
  (⟨v.x, (match v.x with | .nan => false | _ => v.s || stickyOf r ops)⟩, fl ||| fl')

/-- The exact product of two pairs (R255). -/
def mulPair (a b : Pair) : Pair × Flags :=
  let (r, fl) := mulExact a.x b.x
  (⟨r, stickyOf r [a, b]⟩, fl)

/-- FADD (R294). -/
def fadd (a b : Pair) : Pair × Flags :=
  let (r, fl) := addExact a.x b.x
  narrow .w32 r false [a, b] fl

/-- The negation of a pair. -/
def Pair.neg (a : Pair) : Pair := ⟨(match a.x with | .nan => .nan | .inf n => .inf !n | .fin n m e => .fin (!n) m e), a.s⟩

/-- FSUB (R294): the sum of a and -b. -/
def fsub (a b : Pair) : Pair × Flags := fadd a b.neg

/-- FMUL (R294). -/
def fmul (a b : Pair) : Pair × Flags :=
  let (r, fl) := mulExact a.x b.x
  narrow .w32 r false [a, b] fl

/-- FFMA (R294): the exact product plus c, one RoundOdd. -/
def ffma (a b c : Pair) : Pair × Flags :=
  let (p, fl) := mulExact a.x b.x
  let (r, fl') := addExact p c.x
  narrow .w32 r false [a, b, c] (fl ||| fl')

/-- The quotient of two magnitudes to more than 64 significant bits, and whether it is inexact. -/
def quotient (ma mb : Nat) (e : Int) : Nat × Int × Bool :=
  let sh := 96 + bitLen mb
  (ma * 2 ^ sh / mb, e - sh, decide (ma * 2 ^ sh % mb ≠ 0))

/-- FDIV (R294, R257). -/
def fdiv (a b : Pair) : Pair × Flags :=
  match a.x, b.x with
  | .nan, _ => (⟨.nan, false⟩, flagNV)
  | _, .nan => (⟨.nan, false⟩, flagNV)
  | .inf _, .inf _ => (⟨.nan, false⟩, flagNV)
  | .inf m, .fin n _ _ => (⟨.inf (m != n), a.s⟩, 0)
  | .fin m _ _, .inf n => (⟨.fin (m != n) 0 Fmt.w32.lo, a.s || b.s⟩, 0)
  | .fin m ma ea, .fin n mb eb =>
    if mb = 0 then
      if ma = 0 then (⟨.nan, false⟩, flagNV) else (⟨.inf (m != n), false⟩, flagDZ)
    else
      let (q, e, inx) := quotient ma mb (ea - eb)
      narrow .w32 (.fin (m != n) q e) inx [a, b] 0

/-- Integer square root by bits, most significant first. -/
def isqrtBits : Nat → Nat → Nat → Nat
  | 0, _, r => r
  | k + 1, n, r => isqrtBits k n (if (r + 2 ^ k) * (r + 2 ^ k) ≤ n then r + 2 ^ k else r)

/-- FSQRT and VSQRT (R257). -/
def fsqrt (a : Pair) : Pair × Flags :=
  match a.x with
  | .nan => (⟨.nan, false⟩, flagNV)
  | .inf n => if n then (⟨.nan, false⟩, flagNV) else (a, 0)
  | .fin n m e =>
    if m = 0 then (⟨.fin n 0 Fmt.w32.lo, a.s⟩, 0)
    else if n then (⟨.nan, false⟩, flagNV)
    else
      let sh := 128 + (e % 2).toNat
      let k := m * 2 ^ sh
      let r := isqrtBits 84 k 0
      narrow .w32 (.fin false r ((e - sh) / 2)) (decide (r * r ≠ k)) [a] 0

/-- VRCP (R257). -/
def frcp (a : Pair) : Pair × Flags :=
  match a.x with
  | .nan => (⟨.nan, false⟩, flagNV)
  | .inf n => (⟨.fin n 0 Fmt.w32.lo, a.s⟩, 0)
  | .fin n m e =>
    if m = 0 then (⟨.inf n, false⟩, flagDZ)
    else
      let (q, ex, inx) := quotient 1 m (-e)
      narrow .w32 (.fin n q ex) inx [a] 0

/-- VRSQ (R257). -/
def frsq (a : Pair) : Pair × Flags :=
  match a.x with
  | .nan => (⟨.nan, false⟩, flagNV)
  | .inf n => if n then (⟨.nan, false⟩, flagNV) else (⟨.fin false 0 Fmt.w32.lo, a.s⟩, 0)
  | .fin n m e =>
    if m = 0 then (⟨.inf n, false⟩, flagDZ)
    else if n then (⟨.nan, false⟩, flagNV)
    else
      -- 1/sqrt(m * 2^e) = sqrt(2^(2k) / m') * 2^(-k - e'/2), with e' even
      let m' := m * 2 ^ (e % 2).toNat
      let h := (e - e % 2) / 2
      let k := 2 ^ 256 / m'
      let r := isqrtBits 129 k 0
      narrow .w32 (.fin false r (-128 - h)) (decide (r * r * m' ≠ 2 ^ 256)) [a] 0

/-! ## Comparison (R247, R248) -/

/-- The five results of a comparison. -/
inductive Cmp where
  | lt | eq | gt | unordered | inexact
  deriving DecidableEq, Repr

/-- The order of two numbers as reals, infinities at the ends; NaN does not arise. -/
def cmpReal (a b : Num) : Ordering :=
  match a, b with
  | .nan, _ => .eq
  | _, .nan => .eq
  | .inf m, .inf n => if m = n then .eq else if m then .lt else .gt
  | .inf m, .fin _ _ _ => if m then .lt else .gt
  | .fin _ _ _, .inf n => if n then .gt else .lt
  | .fin na ma ea, .fin nb mb eb =>
    compare (Num.scaled na ma ea (min ea eb)) (Num.scaled nb mb eb (min ea eb))

/-- The sign of the infinitesimal of a pair (R241). -/
def Pair.eps (a : Pair) : Int := if a.s then (if a.x.isNeg then -1 else 1) else 0

/-- R247. -/
def cmpPair (a b : Pair) : Cmp :=
  match a.x, b.x with
  | .nan, _ => .unordered
  | _, .nan => .unordered
  | _, _ =>
    match cmpReal a.x b.x with
    | .lt => .lt
    | .gt => .gt
    | .eq =>
      if a.eps < b.eps then .lt
      else if b.eps < a.eps then .gt
      else if a.s && b.s then .inexact else .eq

/-- R248. The minimum (or, with `max`, the maximum) of two pairs. -/
def fminmax (max : Bool) (a b : Pair) : Pair :=
  match a.x, b.x with
  | .nan, .nan => ⟨.nan, false⟩
  | .nan, _ => b
  | _, .nan => a
  | _, _ =>
    match cmpPair a b with
    | .lt => if max then b else a
    | .gt => if max then a else b
    | _ => if a.x.isZero && !a.s && a.x.isNeg != b.x.isNeg then (if a.x.isNeg != max then a else b) else a

/-! ## Codebooks (R249 to R253, R236) -/

/-- A slot of a codebook as read: entry words by code (R249). -/
abbrev Slot := Nat → BitVec 32

/-- The value of an entry (R249). -/
def entryVal (e : BitVec 32) : Num := decodeW19 e
/-- SPC of an entry. -/
def entrySpc (e : BitVec 32) : Bool := e.getLsbD 0
/-- EVEN of an entry. -/
def entryEven (e : BitVec 32) : Bool := e.getLsbD 1

/-- R253. The built-in slots: 4 E4M3, 5 E5M2, 6 E2M1, all symmetric. -/
def builtinSlot (n : Nat) : Slot := fun i =>
  let x := if n = 4 then decodeE4m3 i else if n = 5 then decodeE5m2 i else decodeE2m1 i
  let spc := if n = 4 then decide (i = 127) else if n = 5 then decide (124 ≤ i) else false
  encodeW32 x ||| (if i = 0 then 4#32 else 0) ||| (if i % 2 = 0 then 2#32 else 0) ||| (if spc then 1#32 else 0)

/-- R251. Decoding a code of w bits through a slot. -/
def decodeCb (slot : Slot) (w : Nat) (c : Nat) : Num :=
  let half := 2 ^ (w - 1)
  if (slot 0).getLsbD 2 then
    let x := entryVal (slot (c % half))
    if half ≤ c % 2 ^ w then (match x with | .nan => .nan | .inf n => .inf !n | .fin n m e => .fin (!n) m e) else x
  else entryVal (slot (c % 2 ^ w))

/-- Index of the first entry at or after `i` with SPC set, among `k` entries. -/
def firstSpc (slot : Slot) : Nat → Nat → Nat
  | 0, i => i
  | k + 1, i => if entrySpc (slot i) then i else firstSpc slot k (i + 1)

/-- The highest-numbered entry below `k` with SPC set that satisfies a test. -/
def lastSpc (slot : Slot) (test : Num → Bool) : Nat → Option Nat
  | 0 => none
  | k + 1 => if entrySpc (slot k) && test (entryVal (slot k)) then some k else lastSpc slot test k

/-- Is x above the key, is it at or above it, and is it below? A comparison with a NaN key is false (R252). -/
def keyLe (k : Num) (x : Pair) : Bool :=
  match cmpPair ⟨k, false⟩ x with | .lt => true | .eq => true | _ => false

/-- The binary search of R252 for the largest key not above x. -/
def cbSearch (slot : Slot) (x : Pair) : Nat → Nat → Nat → Nat
  | 0, lo, _ => lo
  | fuel + 1, lo, hi =>
    if lo < hi then
      let mid := (lo + hi + 1) / 2
      if keyLe (entryVal (slot mid)) x then cbSearch slot x fuel mid hi else cbSearch slot x fuel lo (mid - 1)
    else lo

/-- The magnitude at which a candidate stands in Pick: an infinity counts as 2^128 (R252). -/
def candidateMag : Num → Nat × Int
  | .nan => (0, 0)
  | .inf _ => (1, 128)
  | .fin _ m e => (m, e)

/-- Pick of R252 between the codes L and U: the modes of R241 on candidates of signed value. -/
def cbPick (slot : Slot) (l u : Nat) (x : Pair) (sgn : Bool) (mode t8 : Nat) : Nat :=
  let vl := entryVal (slot l)
  let vu := entryVal (slot u)
  match vl, vu with
  | .nan, .nan => l
  | .nan, _ => u
  | _, .nan => l
  | _, _ =>
    -- signed candidate values; under SYM the value of v carries the sign
    let sv (n : Num) : Num := if sgn then (match n with | .inf b => .inf !b | .fin b m e => .fin (!b) m e | .nan => .nan) else n
    let (ml, el) := candidateMag vl
    let (mu, eu) := candidateMag vu
    -- the candidate nearer zero and the one farther
    let lFar := match cmpReal (.fin false ml el) (.fin false mu eu) with
      | .gt => true | .lt => false | .eq => false
    match mode with
    | 2 => if lFar then u else l
    | 3 => if cmpReal (sv vl) (sv vu) = .lt then u else l
    | 4 => if cmpReal (sv vl) (sv vu) = .lt then l else u
    | _ =>
      -- distances on the real line, scaled to one exponent
      let (mx, ex) := match x.x with | .fin _ m e => (m, e) | _ => (1, 128)
      let e := min ex (min el eu)
      let xi := Num.scaled x.x.isNeg mx ex e
      let li := Num.scaled vl.isNeg ml el e
      let ui := Num.scaled vu.isNeg mu eu e
      let dl := (xi - li).natAbs
      let du := (ui - xi).natAbs
      -- with S the value lies farther from zero, toward U when x is positive
      let up := x.s && !x.x.isNeg
      let down := x.s && x.x.isNeg
      if mode = 5 then
        -- d = (|x| - |Z|) / (|A| - |Z|), compared with t/256 after clearing the denominator
        let (mz, ma, z, a) := if lFar then (ui.natAbs, li.natAbs, u, l) else (li.natAbs, ui.natAbs, l, u)
        let num : Int := 256 * ((xi.natAbs : Int) - mz)
        let den : Int := t8 * ((ma : Int) - mz)
        if den < num || (num = den && x.s) then a else z
      else if dl < du then l
      else if du < dl then u
      else if up then u
      else if down then l
      else if mode = 1 then (if lFar then l else u)
      else if entryEven (slot u) && !entryEven (slot l) then u else l

/-- R252. EncodeCB: the code of (v, S) in a slot of w code bits, and its flags. -/
def encodeCb (slot : Slot) (w mode t8 : Nat) (v : Pair) : Nat × Flags :=
  let sym := (slot 0).getLsbD 2
  let half := if sym then 2 ^ (w - 1) else 2 ^ w
  let sgn := sym && v.x.isNeg
  let sb := if sgn then half else 0
  let x : Pair := if sym then ⟨v.x.withSign false, v.s⟩ else v
  let n := firstSpc slot half 0
  match v.x with
  | .nan =>
    ((match lastSpc slot (fun k => decide (k = .nan)) half with | some k => k | none => n - 1), flagNV)
  | _ =>
    if n = 0 then (sb, flagNV) else
    let special : Option Nat := match x.x with
      | .inf b => if v.s then none else lastSpc slot (fun k => decide (k = .inf b)) half
      | _ => none
    match special with
    | some k => (k ||| sb, 0)
    | none =>
      -- UF: the result's value is zero and x is not
      let uf (k : Nat) : Flags := flagIf ((entryVal (slot k)).isZero && (!x.x.isZero || x.s)) flagUF
      if cmpPair x ⟨entryVal (slot (n - 1)), false⟩ = .gt then ((n - 1) ||| sb, flagOF ||| flagNX ||| uf (n - 1))
      else if cmpPair x ⟨entryVal (slot 0), false⟩ = .lt then (sb, flagOF ||| flagNX ||| uf 0)
      else
        let lo := cbSearch slot x 8 0 (n - 1)
        if cmpPair ⟨entryVal (slot lo), false⟩ x = .eq then (lo ||| sb, 0)
        else
          let k := if lo + 1 < n then cbPick slot lo (lo + 1) x sgn mode t8 else lo
          (k ||| sb, flagNX ||| uf k)

/-- R237. Encoding into E8M0. -/
def encodeE8m0 (mode : Nat) (v : Pair) : Nat × Flags :=
  match v.x with
  | .nan => (255, flagNV)
  | .inf n => if n then (255, flagNV) else (254, flagOF ||| flagNX)
  | .fin n m e =>
    if n || m = 0 then (255, flagNV)
    else
      let fl : Int := e + bitLen m - 1
      let exact := decide (m = 2 ^ (bitLen m - 1)) && !v.s
      let k := (if mode = 3 && !exact then fl + 1 else fl) + 127
      if k < 0 then (0, flagUF ||| flagNX)
      else if 254 < k then (254, flagOF ||| flagNX)
      else (k.toNat, flagIf (!exact) flagNX)

/-! ## The order of summation (R255) -/

/-- A list padded to a length with exact zeros. -/
def padTo (n : Nat) (l : List Pair) : List Pair := l ++ List.replicate (n - l.length) Pair.zero

/-- Tree of R255 over 2^k terms. -/
def tree : Nat → List Pair → Pair × Flags
  | 0, l => (l.headD .zero, 0)
  | k + 1, l =>
    let (a, fa) := tree k (l.take (2 ^ k))
    let (b, fb) := tree k (l.drop (2 ^ k))
    let (r, f) := fadd a b
    (r, fa ||| fb ||| f)

/-- Groups of n elements of a list, in order. -/
def chunks (n : Nat) : Nat → List α → List (List α)
  | 0, _ => []
  | fuel + 1, l => match l with
    | [] => []
    | _ => l.take n :: chunks n fuel (l.drop n)

/-- Combining group trees in increasing order, the first being the starting value (R255). -/
def foldGroups : List (List Pair) → Option Pair → Pair × Flags
  | [], acc => (acc.getD .zero, 0)
  | g :: gs, acc =>
    let (t, f) := tree 5 (padTo 32 g)
    match acc with
    | none => let (r, f') := foldGroups gs (some t); (r, f ||| f')
    | some a =>
      let (r, f') := fadd a t
      let (r', f'') := foldGroups gs (some r)
      (r', f ||| f' ||| f'')

/-- The sum of a row of terms with no prior value (R255, R366). -/
def sumRow (l : List Pair) : Pair × Flags := foldGroups (chunks 32 (l.length + 1) l) none

/-! ## Special functions (R257), by integer arithmetic on 192-bit fixed point -/

/-- Fixed-point places. -/
def fpBits : Nat := 192

/-- Σ z^(2i+1)/(2i+1), the inverse hyperbolic tangent, in fixed point. -/
def atanhSum (z z2 : Nat) : Nat → Nat → Nat
  | 0, _ => 0
  | k + 1, i => z / (2 * i + 1) + atanhSum (z * z2 / 2 ^ fpBits) z2 k (i + 1)

/-- ln of num/den (at least 1, at most 2), in fixed point. -/
def lnRatio (num den : Nat) : Nat :=
  let z := (num - den) * 2 ^ fpBits / (num + den)
  2 * atanhSum z (z * z / 2 ^ fpBits) 64 0

/-- ln 2 in fixed point. -/
def ln2 : Nat := lnRatio 2 1

/-- Σ x^i/i!, the exponential of a fixed-point x below 1. -/
def expSum (x term : Nat) : Nat → Nat → Nat
  | 0, _ => 0
  | k + 1, i => term + expSum x (term * x / 2 ^ fpBits / (i + 1)) k (i + 1)

/-- 2^f for a fixed-point fraction f. -/
def exp2Frac (f : Nat) : Nat := expSum (f * ln2 / 2 ^ fpBits) (2 ^ fpBits) 64 0

/-- |x| = man * 2^exp in fixed point, truncated. -/
def toFixed (man : Nat) (exp : Int) : Nat :=
  if 0 ≤ exp + fpBits then man * 2 ^ (exp + fpBits).toNat else man / 2 ^ (-(exp + fpBits)).toNat

/-- EXP2 (R257). -/
def fexp2 (a : Pair) : Pair × Flags :=
  match a.x with
  | .nan => (⟨.nan, false⟩, flagNV)
  | .inf n => (if n then ⟨.fin false 0 Fmt.w19.lo, a.s⟩ else a, 0)
  | .fin n m e =>
    if m = 0 then (⟨.fin false 1 0, a.s⟩, 0)
    else if e + bitLen m > 10 then
      -- beyond 2^±1024 the result overflows, or is a nonzero value below every subnormal
      if n then narrow .w19 (.fin false 0 Fmt.w19.lo) true [a] 0
      else narrow .w19 (.fin false 1 2000) true [a] 0
    else if e + bitLen m < -100 then
      -- 1 plus or minus a value too small to reach the format
      if n then narrow .w19 (.fin false (2 ^ 64 - 1) (-64)) true [a] 0
      else narrow .w19 (.fin false (2 ^ 64) (-64)) true [a] 0
    else
      let fx := toFixed m e
      let whole := fx / 2 ^ fpBits
      let frac := fx % 2 ^ fpBits
      if frac = 0 && decide (0 ≤ e ∨ m % 2 ^ (-e).toNat = 0) then
        narrow .w19 (.fin false 1 (if n then -(whole : Int) else whole)) false [a] 0
      else if n then
        narrow .w19 (.fin false (exp2Frac (2 ^ fpBits - frac)) (-(whole : Int) - 1 - fpBits)) true [a] 0
      else narrow .w19 (.fin false (exp2Frac frac) ((whole : Int) - fpBits)) true [a] 0

/-- LOG2 (R257). -/
def flog2 (a : Pair) : Pair × Flags :=
  match a.x with
  | .nan => (⟨.nan, false⟩, flagNV)
  | .inf n => if n then (⟨.nan, false⟩, flagNV) else (a, 0)
  | .fin n m e =>
    if m = 0 then (⟨.inf true, false⟩, flagDZ)
    else if n then (⟨.nan, false⟩, flagNV)
    else
      let k := bitLen m - 1
      let whole : Int := e + k
      if m = 2 ^ k then narrow .w19 (.fin (decide (whole < 0)) whole.natAbs 0) false [a] 0
      else
        let frac : Int := (lnRatio m (2 ^ k) * 2 ^ fpBits / ln2 : Nat)
        let r : Int := whole * (2 ^ fpBits : Nat) + frac
        narrow .w19 (.fin (decide (r < 0)) r.natAbs (-(fpBits : Int))) true [a] 0

/-- e^(-y) for y = man * 2^exp, in fixed point; 0 beyond the range of every format. -/
def expNeg (man : Nat) (exp : Int) : Nat × Int :=
  let y := toFixed man exp
  let t := y * 2 ^ fpBits / ln2
  let whole := t / 2 ^ fpBits
  let frac := t % 2 ^ fpBits
  (exp2Frac (2 ^ fpBits - frac), -(whole : Int) - 1 - fpBits)

/-- TANH (R257). -/
def ftanh (a : Pair) : Pair × Flags :=
  match a.x with
  | .nan => (⟨.nan, false⟩, flagNV)
  | .inf n => (⟨.fin n 1 0, a.s⟩, 0)
  | .fin n m e =>
    if m = 0 then (⟨.fin n 0 Fmt.w19.lo, a.s⟩, 0)
    else if e + bitLen m < -40 then
      -- v - v^3/3 + ...: just below v
      narrow .w19 (.fin n (m * 2 ^ 64 - 1) (e - 64)) true [a] 0
    else if e + bitLen m > 6 then narrow .w19 (.fin n (2 ^ 64 - 1) (-64)) true [a] 0
    else
      let (t, te) := expNeg m (e + 1)
      let x := t / 2 ^ (-(te + fpBits)).toNat
      let q := (2 ^ fpBits - x) * 2 ^ fpBits / (2 ^ fpBits + x)
      narrow .w19 (.fin n q (-(fpBits : Int))) true [a] 0

/-- SIGM (R257). -/
def fsigm (a : Pair) : Pair × Flags :=
  match a.x with
  | .nan => (⟨.nan, false⟩, flagNV)
  | .inf n => (if n then ⟨.fin false 0 Fmt.w19.lo, a.s⟩ else ⟨.fin false 1 0, a.s⟩, 0)
  | .fin n m e =>
    if m = 0 then (⟨.fin false 1 (-1), a.s⟩, 0)
    else if e + bitLen m < -100 then
      if n then narrow .w19 (.fin false (2 ^ 64 - 1) (-65)) true [a] 0
      else narrow .w19 (.fin false (2 ^ 64) (-65)) true [a] 0
    else if e + bitLen m > 8 then
      if n then narrow .w19 (.fin false 0 Fmt.w19.lo) true [a] 0
      else narrow .w19 (.fin false (2 ^ 64 - 1) (-64)) true [a] 0
    else
      let (t, te) := expNeg m e
      if n then
        -- e^v / (1 + e^v), with e^v = t * 2^te kept to full relative precision
        let x := t / 2 ^ (-(te + fpBits)).toNat
        narrow .w19 (.fin false (t * 2 ^ fpBits / (2 ^ fpBits + x)) te) true [a] 0
      else
        let x := t / 2 ^ (-(te + fpBits)).toNat
        narrow .w19 (.fin false ((2 ^ fpBits * 2 ^ fpBits - 1) / (2 ^ fpBits + x)) (-(fpBits : Int))) true [a] 0

/-! ## Stochastic rounding (R243) -/

/-- R243. The 8-bit draw for element index i. -/
def srdBits (seed task : Word) (srdc : Nat) (i : Nat) : Nat :=
  let m : Nat := 2 ^ 64
  let z := (seed.toNat + task.toNat * 0x9E3779B97F4A7C15 + (srdc * 2 ^ 32 + i) * 0xD1B54A32D192ED03) % m
  let z := ((z ^^^ (z / 2 ^ 30)) * 0xBF58476D1CE4E5B9) % m
  let z := ((z ^^^ (z / 2 ^ 27)) * 0x94D049BB133111EB) % m
  let z := z ^^^ (z / 2 ^ 31)
  z / 2 ^ 56

end Sys2Proof.Machine
end

