-- ==== Sys2Proof/Config.lean ====
section
/-! DEFINITION. What the manual leaves to the part, as constants without a body: free times and values, keys and
contents that no rule states. Nothing in Lean can evaluate them. -/

namespace Sys2Proof.Config

/-- A time, in cycles, that no rule fixes (R56, R341, R345): drawn with the state's counter of free values (DESIGN CHOICE, log 6). -/
opaque delay : Nat → Nat

/-- The factory MAC address of an Ethernet port (R44; DESIGN CHOICE, log 3). -/
opaque factoryMac : Nat → BitVec 48

/-- A byte that no rule fixes, drawn with the state's counter of free values: the name and number of the state that a
host endpoint, or a built-in flight whose records are not given, closes at (R64, R68, R217; DESIGN CHOICE, log 32). -/
opaque freeByte : Nat → Byte

/-- HOWN of the flights of the built-in conversations 0 to 4 and 7, whose records are not given, and of their duals
(R68, R192; DESIGN CHOICE, log 32). -/
opaque serviceHash : Nat → Bool → Word

/-- Their MAXIN and MAXOUT (R193; DESIGN CHOICE, log 32). -/
opaque serviceFlits : Nat → Bool → Nat

/-- Does a replay on a die-to-die link follow the failure of the one before it (R38; DESIGN CHOICE, log 91)? -/
opaque replayFails : Nat → Bool

/-- Can the save pool supply what is asked of it (R93, R116)? Its size is not given (DESIGN CHOICE, log 47). -/
opaque poolHas : Nat → Bool

/-- Where in the save pool something is placed (R116, R153; DESIGN CHOICE, log 47). -/
opaque poolAddress : Nat → Word

/-- The creel image that bring-up phase 4 floods: 16 KiB of the verified body whose place in it is not given (R25, R415;
DESIGN CHOICE, log 75). -/
opaque creelImage : Nat → Byte

/-- Salren's 60-byte HSS public key, which verifies firmware images (R80); its value is not given (PRESUMED, log 14). -/
opaque imageKey : List Byte

/-- A signature of the identity key with a leaf, over a message (R85); the private key is not given (PRESUMED, log 14). -/
opaque identitySign : Nat → List Byte → List Byte

/-- The certificate chain of slot 0, in SPDM's form (R83; PRESUMED, log 15). -/
opaque certChain : List Byte

/-- The boot ROM's contents, which measurement 1 digests (R84; PRESUMED, log 15). -/
opaque bootRom : List Byte

/-- The built-in host flights in canonical form, which measurement 5 digests (R84, R68; DESIGN CHOICE, log 32). -/
opaque hostFlights : List Byte

/-- The IANA number of the HSS/LMS algorithm in SPDM ALGORITHMS (R83; PRESUMED, log 15). -/
opaque hssAlgorithm : BitVec 16

end Sys2Proof.Config
end

