-- ==== Sys2Proof/Machine/State.lean ====
section
/-! DEFINITION. The state of the machine, as plain data: everything the spec names, and the model's own fields, which
say what happens next. The faults and refusals of a step, and the state after reset. -/

namespace Sys2Proof.Machine

/-! ## Finite maps -/

/-- A finite map as plain data: a list of keys and values, at most one entry a key when built by `put`. -/
abbrev SMap (κ α : Type) := List (κ × α)

namespace SMap

variable {κ α : Type} [DecidableEq κ]

/-- The value under a key. -/
def find (m : SMap κ α) (k : κ) : Option α :=
  match m with
  | [] => none
  | (k', v) :: r => if k' = k then some v else find r k

/-- The value under a key, or a default. -/
def get (m : SMap κ α) (k : κ) (d : α) : α := (m.find k).getD d

/-- The map with one value set. -/
def put (m : SMap κ α) (k : κ) (v : α) : SMap κ α :=
  match m with
  | [] => [(k, v)]
  | (k', v') :: r => if k' = k then (k, v) :: r else (k', v') :: put r k v

/-- The map without a key. -/
def del (m : SMap κ α) (k : κ) : SMap κ α :=
  match m with
  | [] => []
  | (k', v) :: r => if k' = k then del r k else (k', v) :: del r k

end SMap

/-! ## Threads -/

/-- A register entry: 64 data bits, the sticky bit, the residue code (R165). -/
structure RegEntry where
  d : Word
  s : Bool
  c : Byte
  deriving DecidableEq, Repr

/-- A shape record as read (R349). Lists have four places. -/
structure Shape where
  et : Nat
  rank : Nat
  flags : Nat
  idim : Nat
  ext : List Nat
  str : List Int
  tagx : BitVec 32
  org : List Int
  clo : List Int
  chi : List Int
  idxoff : Nat
  distoff : Nat
  deriving DecidableEq, Repr

/-- One dimension of a distributed-tensor descriptor (R352). -/
structure Shard where
  gext : Nat
  kind : Nat
  axis : Nat
  nsh : Nat
  blk : Nat
  deriving DecidableEq, Repr

/-- A stream register: binding, walk position and the hidden copy of the record and descriptor (R353). -/
structure ZReg where
  zm : Nat
  zep : Nat
  ztype : Byte
  ztag : Bool
  zshp : Nat
  zbase : BitVec 57
  zpos : Nat
  shape : Shape
  dist : List Shard
  deriving DecidableEq, Repr

/-- The repetition buffer of a slot (R182, R347). `pc` names the REPRUN that started the run (R275); `quit` is set by
REPSTOP; `due` is the cycle of the next buffered beat; `wait` that an M-form of the buffer holds it. -/
structure RepBuf where
  body : List (BitVec 32)
  zst : Nat
  ast : Nat
  left : Nat
  iter : Nat
  idx : Nat
  beat : Nat
  running : Bool
  quit : Bool
  due : Nat
  wait : Bool
  pc : BitVec 57
  deriving DecidableEq, Repr

/-- The static region of a thread: first locked line, lines, bank count (R346, R347), and whether its lines have to be
locked again after a restoration (R181). -/
structure Region where
  line : Nat
  lines : Nat
  banks : Nat
  relock : Bool
  deriving DecidableEq, Repr

/-- A precise trap (R274): its code and xinfo. -/
structure Trap where
  code : Nat
  info : Word
  deriving DecidableEq, Repr

/-- A posted write not yet acknowledged (R225): its token, virtual address and kind. -/
structure Posted where
  tok : Nat
  va : Nat
  rel : Bool
  deriving DecidableEq, Repr

/-- How a parked request's reply completes its instruction (R310 to R329, R300, R335). -/
inductive Compl where
  /-- LD, LDX, LDA: extend by width code into g(d). -/
  | load (d : BitVec 7) (code : Nat)
  /-- FILL: D and S. -/
  | fill (d : BitVec 7)
  /-- LDFE, LDFF, atomics, BARRIVE: the raw word. -/
  | word (d : BitVec 7)
  /-- AMOFADD: the old pair, flags ORed into STATUS. -/
  | pair (d : BitVec 7)
  /-- FEPEEK. -/
  | bit (d : BitVec 7)
  /-- STEF, STFF, FESET, BWAIT. -/
  | nothing
  /-- CBLOAD: one of sixteen loads into slot n. -/
  | codebook (n : Nat)
  /-- AUTLOAD: the header, then the rest, of the image at va. -/
  | flight (d : BitVec 7) (va : Nat) (header : Bool)
  deriving DecidableEq, Repr

/-- What a parked instruction that has not been performed waits for. -/
inductive Cond where
  /-- An acknowledgement of a posted write (R225). -/
  | ack
  /-- The end of a translation walk (R56). -/
  | walk (id : Nat)
  /-- A free implicit memory endpoint or waiter record (R316). -/
  | credit (ep : Nat)
  | arrival (ep : Nat)
  | connected (ep : Nat)
  | accepted (ep : Nat)
  | redirected (ep : Nat)
  | freed (ep : Nat)
  | mailbox (n : Nat) (full : Bool)
  | queue
  /-- WFE: a queue entry, a full mailbox, or 2^16 cycles (R304). -/
  | event (since : Nat)
  | push (eng : Nat)
  | pop (eng : Nat)
  /-- ENQ: the answer of another creel or of the pending store (R341). -/
  | answer
  | store
  /-- TDONE and HALT: posted writes, engine commands, FWD_END, the comparator (R341, R304). -/
  | ending
  /-- SRBEGIN: a sluice, another slot's region or the matrix unit (R346, R380). -/
  | region
  | matrix
  | device
  /-- A self-window full/empty wait: the word's physical address (R316). -/
  | cell (pa : Nat) (kind : Nat) (order : Nat)
  | locked
  /-- In paired mode: the partner thread (R136). -/
  | pair
  deriving DecidableEq, Repr

/-- What a slot's thread is doing (R159, R162, R163). -/
inductive Wait where
  /-- In the rotation. -/
  | run
  /-- Parked, with its instruction complete; in the rotation again at `ready`. -/
  | rest
  /-- Parked with a request outstanding. -/
  | reply (k : Compl)
  /-- Parked before its instruction is performed. -/
  | redo (c : Cond)
  /-- Fetching the instruction line at this address (R171). -/
  | line (va : Nat)
  /-- HALT of a task (R304). -/
  | halted
  /-- Stopped at a rotation boundary for pre-emption, mooring, a fence or an update (R115). -/
  | stopped
  deriving DecidableEq, Repr

/-- A store that the comparator of a pair holds (R136): its kind (0 store, 1 SPILL, 2 and 3 SBST low and high, 4 TAGSET),
its address, data and tag, and the cycle since which it is held (R137). -/
structure HeldStore where
  kind : Nat
  pa : Nat
  bytes : List Byte
  tag : Bool
  since : Nat
  deriving DecidableEq, Repr

/-- A thread in a slot. -/
structure Thread where
  pc : BitVec 57
  status : Word
  fmt : Word
  scl : Word
  task : Word
  team : BitVec 16
  level : BitVec 8
  xpc : Word
  xcause : Word
  xinfo : Word
  xsca : Word
  xscb : Word
  /-- First register entry and count (R164). -/
  base : Nat
  nregs : Nat
  progress : Nat
  pflags : Byte
  asid : BitVec 16
  root : Word
  seed : Word
  key : Option TeamKey
  /-- Bound to its team by SLOT_START (R158). -/
  bound : Bool
  /-- Started by SLOT_START rather than dispatched (R157, R304). -/
  started : Bool
  /-- The service endpoint whose handler this is (R205). -/
  handler : Option Nat
  /-- The other thread of a pair (R136). -/
  partner : Option ThreadId
  /-- Cycle of the earliest next issue. -/
  ready : Nat
  wait : Wait
  trap : Option Trap
  z : List ZReg
  rep : RepBuf
  region : Option Region
  /-- The implicit memory endpoint is open (R207). -/
  memOpen : Bool
  posted : List Posted
  /-- The parked request, for a reissue after RETRANSLATE (R57), and the PC of the next instruction. -/
  req : Option MemReq
  next : BitVec 57
  /-- Loads of a multi-load instruction still awaited, and the data received, by offset. -/
  awaited : Nat
  gathered : List (Nat × List Byte)
  /-- Counters 1 to 5 (R307). -/
  perf : List Nat
  /-- Matrix descriptor and its validity, MSEQ, LASTD, TMIS (R374, R389). -/
  mdesc : List Byte
  mvalid : Bool
  mseq : BitVec 32
  lastd : Nat
  tmis : Bool
  /-- Sequence number of the slot's next ordered request (R210). -/
  ordSeq : Nat
  /-- Flags gathered by the vector instruction in progress, whether it used SRD, and for major 54 the elements
  consumed before the current row (R361, R366). -/
  vflags : BitVec 8
  vsrd : Bool
  vphase : Nat
  /-- Of the walk in progress: the elements read of a row of major 54 (key 2j, and 2j + 1 for zb), its flags (key
  2^40), and the elements of a message to be sent (key 2^41 + position). -/
  vrow : List (Nat × List Byte)
  /-- RM and SRDC as the walk in progress read them at its issue (R242, R243, R260). -/
  vrm : Nat
  vsrdc : Nat
  /-- Dispatch and enqueue stamps (R107). -/
  dstamp : Nat
  estamp : Nat
  /-- The instruction at PC issues once without a breakpoint match (R276). -/
  skipBreak : Bool
  /-- The same for watchpoints, after a resume of the debug module (R147). -/
  skipWatch : Bool
  /-- Result codes kept between the parts of a parked instruction (ENQ, DEV_DATA, CONNECT). -/
  answer : Option Word
  /-- The slot word of the parked instruction, its parcel, and whether it is a buffered beat. -/
  parked : Option (BitVec 32 × Bool × Bool)
  /-- The instruction at PC has performed a beat and has beats to come. -/
  going : Bool
  /-- The runs of the buffered beat issued in cycle `runsAt`: port and whether written (R167, R169, R182). -/
  runsAt : Nat
  runs : List (Nat × Bool)
  /-- Paired mode (R136): the registers whose new values join the queue at the next issue, the load-value queue of a
  pair and the stores its comparator holds (both kept with the leading thread), the cycle since which the thread waits for
  its partner, and whether it goes on at a stop until the comparator has drained (R115). -/
  pairDest : List (BitVec 7)
  lvq : List (Word × Bool)
  held : List HeldStore
  pairSince : Nat
  drains : Bool
  /-- Flags that the buffered beat issued in cycle `runsAt` set at its instruction's end (R308). -/
  beatFlags : BitVec 8
  /-- A line that serves one issue without being installed (R171, R323): its address and bytes. -/
  lent : Option (Nat × List Byte)
  /-- Its packet was stolen (WHERE[7] of R107). -/
  stolen : Bool
  /-- The boundary at which it is to stop has come (R19, R115). -/
  stopping : Bool
  /-- The walk in progress names a channel stream, or is a MEPI with AON: it completes before a stop (R370, R392). -/
  finishing : Bool
  /-- The packet it was dispatched from, for a task that is saved as its packet (R115). -/
  packet : List Byte
  /-- The further owner slots of the self-window access of the instruction at PC have passed: 1 for a port (R161, R167), 2 for
  a unit under copy (R128); 0 none. -/
  delay : Nat
  /-- Its packet has been counted as past its deadline (R99). -/
  late : Bool
  deriving DecidableEq, Repr

/-! ## Cores -/

/-- A mailbox (R172). -/
structure Mailbox where
  value : Word
  full : Bool
  filler : Nat
  deriving DecidableEq, Repr

/-- A message-queue entry: its two words (R174, R175). -/
structure MqEntry where
  lo : Word
  hi : Word
  deriving DecidableEq, Repr

/-- A line of the instruction cache (R171). -/
structure Line where
  asid : BitVec 16
  va : Nat
  way : Nat
  stamp : Nat
  /-- The slot whose static region locks it. -/
  lock : Option Nat
  bytes : List Byte
  deriving DecidableEq, Repr

/-- Endpoint status (R185). -/
inductive Est where
  | free | bound | connecting | accepting | opened | delegated | delegin | closed
  deriving DecidableEq, Repr

/-- An endpoint (R184) with the model's companions of R195, R202, R205, R213 and R215. -/
structure Endpoint where
  est : Est
  svc : Bool
  mark : Bool
  seen : Bool
  slot : Nat
  flight : Nat
  state : Nat
  astate : Nat
  ccause : Nat
  cname : Byte
  res : Nat
  peer : BitVec 32
  fwd : BitVec 32
  sseq : BitVec 32
  rseq : BitVec 32
  anext : BitVec 32
  dcut : BitVec 32
  lin : Nat
  lout : Nat
  maxin : Nat
  maxout : Nat
  bufoff : Nat
  bufn : Nat
  held : Bool
  cpend : Nat
  credit : Nat
  hown : Word
  tchg : Nat
  /-- TAKEN has arrived (R213 step 3). -/
  taken : Bool
  redirected : Bool
  fwdEnd : Bool
  /-- Credit that arrived after TRANSFER (R212 subtype 5). -/
  lateCredit : Nat
  /-- A closed notice held until TAKEN (R215) or until the messages before it have been consumed. -/
  notice : Option Msg
  /-- Arrivals numbered above ANEXT (R195). -/
  early : List Msg
  /-- Messages of a host or controller endpoint, whose buffers are not SRAM. -/
  inbox : List Msg
  /-- The running handler of a service endpoint (R205). -/
  handler : Option ThreadId
  /-- The address of the former holder, for an endpoint that took a delegation (R212, R215). -/
  origin : BitVec 32
  deriving DecidableEq, Repr

/-- An instruction handed to the matrix unit (R378). -/
structure MInstr where
  slot : Nat
  word : BitVec 32
  issued : Nat
  buffered : Bool
  deriving DecidableEq, Repr

/-- What the running matrix instruction commits at its last beat. -/
structure MResult where
  instr : MInstr
  started : Nat
  /-- For each run fetched, in order from the first beat: does it use the scratchpad port (R379)? -/
  fetch : List Bool
  finish : Nat
  cost : Nat
  tile : List (Nat × MElem)
  zpos : List (Nat × Nat)
  writes : List (Nat × List Byte × List (Nat × Bool))
  flags : BitVec 8
  mismatch : Bool
  team : Bool
  trap : Option Trap
  deriving DecidableEq, Repr

/-- The state of one core outside its threads, registers and endpoints. -/
structure CoreSt where
  mbox : SMap Nat Mailbox
  lastServed : Nat
  bargeSel : BitVec 15
  queue : List MqEntry
  /-- Entries waiting at their source for room (R175). -/
  queueWait : List MqEntry
  vtbase : Word
  chpool : Word
  xvec : Word
  slotSel : Word
  icache : List Line
  /-- Slots whose line fill in flight is not installed, an IFENCE having passed (R323). -/
  noInstall : List Nat
  /-- Codebook slots: entry words by 256 × slot + index (R249). -/
  codebook : SMap Nat (BitVec 32)
  connects : List Msg
  /-- Accumulator elements by 1,024 × region + 32 × row + column (R372). -/
  acc : SMap Nat MElem
  mqueue : List MInstr
  mrun : Option MResult
  blocks : List MBlock
  swaps : List SwapMsg
  devAddr : BitVec 28
  /-- Service endpoints with a message that waits for its handler, in order of arrival (R176, R205). -/
  svcWait : List Nat
  deriving DecidableEq, Repr

/-! ## Creels -/

/-- A flight of an automaton store (R186): its descriptor fields and its image in canonical-independent bytes. -/
structure Flight where
  valid : Bool
  off : Nat
  len : Nat
  lin : Nat
  lout : Nat
  maxin : Nat
  maxout : Nat
  hown : Word
  dhash : Word
  image : List Byte
  /-- The thread and launch slot that loaded it (R335). -/
  loader : Option ThreadId
  launch : Option Nat
  deriving DecidableEq, Repr

/-- An AUTLOAD in progress: the thread, its image, and the cycle the store finishes it (R335). -/
structure Loading where
  thread : ThreadId
  d : BitVec 7
  image : List Byte
  deriving DecidableEq, Repr

/-- An engine command in the FIFO or in work (R342): the pushing slot, the 64 bytes, and the pushing thread's
address space, privilege, team and scope. -/
structure Command where
  id : Nat
  core : CoreId
  slot : Nat
  bytes : List Byte
  asid : BitVec 16
  root : Word
  sup : Bool
  key : Option TeamKey
  /-- From the barge slot's mailbox service: the tag its completion entry carries (R174). -/
  barge : Option Byte
  deriving DecidableEq, Repr

/-- A result an engine has completed for a slot (R343). -/
structure EngResult where
  core : CoreId
  slot : Nat
  word : Word
  deriving DecidableEq, Repr

/-- One engine of a creel: FIFO of at most 16, commands in work, results not yet popped. -/
structure Engine where
  fifo : List Command
  work : List Command
  results : List EngResult
  /-- Contributions to a collective reduction (R345): team, tag, creel, elements. -/
  parts : List (TeamKey × Byte × CreelId × List MElem)
  deriving DecidableEq, Repr

/-- A waiter record at a home (R316, R326): kind 0 LDFE, 1 LDFF, 2 STEF, 3 BWAIT; `want` the STEF data or the BWAIT
phase; `q` the request to answer, or none for a self-window wait of `slot`. -/
structure Waiter where
  pa : Nat
  kind : Nat
  want : Word
  q : Option MemReq
  slot : Option ThreadId
  deriving DecidableEq, Repr

/-- A translation-cache entry (R55). -/
structure TlbEntry where
  asid : BitVec 16
  vpage : Nat
  size : Nat
  leaf : Word
  leafAddr : Nat
  walked : Nat
  stamp : Nat
  deriving DecidableEq, Repr

/-- The capacity of a core (R122): usable bytes and entries, and BANK_RET. -/
structure CapCore where
  icBytes : Nat
  regN : Nat
  lsBytes : Nat
  ret : BitVec 24
  deriving DecidableEq, Repr

/-- A walk in progress or waiting for its walker (R56): who waits, the address space, the level reached (0 root), the
address of the entry to read, and the walker 16 * die + n. -/
structure Walk where
  id : Nat
  thread : ThreadId
  creel : CreelId
  asid : BitVec 16
  va : Nat
  level : Nat
  addr : Nat
  walker : Nat
  active : Bool
  /-- The miss has reached its walker. -/
  there : Bool
  /-- A shootdown has covered its page meanwhile: its result is not used (R58). -/
  stale : Bool
  deriving DecidableEq, Repr

/-- A halt of a creel (R145): the cycle h, the ring position of the trigger, the DBG_STAT fields, the cycle r of a
resume that has been accepted, and the slot whose single step is pending (R147). -/
structure Halt where
  h : Nat
  ring : Nat
  cause : Nat
  which : Nat
  slot : Nat
  resume : Option Nat
  step : Option ThreadId
  /-- A resume whose skew is not over: its cycle r and ring position; and threads whose operation of several beats stands
  frozen, with the cycle it would have gone on (R146). -/
  prior : Option (Nat × Nat)
  waits : List (ThreadId × Nat × Nat)
  /-- Threads whose stepped instruction is parked, and the replies that complete it after the resume (R147). -/
  stepped : List ThreadId
  kept : List MemReply
  deriving DecidableEq, Repr

/-- A gate test of the task queue (R98): ring, unit of the packet, gate 0 or 1, what the latest reply showed, and
whether a test is outstanding. -/
structure GateTest where
  ring : Nat
  unit : Nat
  gate : Nat
  full : Option Bool
  sent : Bool
  deriving DecidableEq, Repr

/-- What a creel combines of one team (R109): its own words, the tree children that have reported, whether its done
message has left. -/
structure DoneSt where
  key : TeamKey
  word : BitVec 32
  children : Nat
  sent : Bool
  deriving DecidableEq, Repr

/-- A creel as a thief (R104, R105): the team, the next victim in order, an attempt outstanding, a back-off. -/
structure Thief where
  key : TeamKey
  next : Nat
  busy : Bool
  sleeping : Bool
  deriving DecidableEq, Repr

/-- A bank to be retired (R126): store 1 to 4, core, bank, and whether an uncorrectable error asked for it. -/
structure BankReq where
  store : Nat
  core : Nat
  bank : Nat
  forError : Bool
  deriving DecidableEq, Repr

/-- The sluicing engine at work (R127, R128): its request, its phase 1 to 6, the units still to move in order, the
unit whose copy is under way, and who is delayed on it. -/
structure Sluice where
  req : BankReq
  phase : Nat
  units : List Nat
  copying : Option Nat
  /-- The destinations of live register ranges, fixed at ALLOC (R130): thread, old base, new base, length. -/
  places : List (ThreadId × Nat × Nat × Nat)
  deriving DecidableEq, Repr

/-- The state of a creel outside its cores. -/
structure CreelSt where
  /-- The automaton store (R186). -/
  flights : SMap Nat Flight
  loading : List Loading
  engines : SMap Nat Engine
  /-- Ordered requests waiting for their predecessor (R210). -/
  ordHeld : List MemReq
  tlb : List TlbEntry
  capVer : BitVec 32
  spBytes : Nat
  spRet : BitVec 64
  capCore : SMap Nat CapCore
  /-- The debug block's plain registers, by offset (R143), the halt in force, and LOSTH and REHALT. -/
  dbg : SMap Nat Word
  halt : Option Halt
  losth : Bool
  rehalt : Bool
  /-- Rings by priority: WR and RD (R96); gate tests (R98); packets counted past their deadline (R99), by ring and
  unit. -/
  rings : SMap Nat (Nat × Nat)
  /-- The units and stamps that the queue has written to its rings, by ring and index (R96): what a program writes over them
  changes no packet (R3; DESIGN CHOICE, log 87). -/
  units : SMap (Nat × Nat) (List Byte)
  stamps : SMap (Nat × Nat) Nat
  gates : List GateTest
  late : List (Nat × Nat)
  done : List DoneSt
  thief : Option Thief
  /-- Steals of this creel's packets that are not yet written by their thief (R109). -/
  given : List TeamKey
  /-- TREC_CTL and the two fields of TREC_PTR (R107). -/
  trecCtl : Word
  trecWr : Nat
  trecRd : Nat
  /-- Sluicing (R122, R126, R127): THRESH, MAPV, LAST, the queue and the request in work; BCE registers by offset. -/
  thresh : BitVec 16
  mapv : Byte
  lastRet : Byte
  sluiceQ : List BankReq
  sluice : Option Sluice
  bce : SMap Nat Word
  /-- The multicast router at this creel (R36, R412, R413): coordinates, parent port, last flood number, and the image
  packets written. -/
  fx : Int
  fy : Int
  parent : Nat
  lastFlood : Option Byte
  packets : List Nat
  lastPacket : Option Nat
  /-- Trace (R151, R152): records staged at a cycle, and the next sample position. -/
  staged : Nat
  stagedAt : Nat
  sample : Nat
  /-- Units of the rings that hold a stolen packet, by ring and running unit (R107). -/
  stolenAt : List (Nat × Nat)
  /-- The bank map of the scratchpad where it is not that of reset (R124, R125): words and their slots,
  64 * index + bank. -/
  spMap : SMap Nat Nat
  /-- Trace records of this cycle, with their WHO (R151). -/
  traces : List (Nat × List Byte)
  /-- The thieves to which packets counted as past their deadline are on their way (R99, R106). -/
  lateGiven : List CreelId
  deriving DecidableEq, Repr

/-! ## Power (R10 to R29) -/

/-- The states of R11. -/
inductive Power where
  | off | standby | moored | idle | run
  deriving DecidableEq, Repr

/-- A transition in progress (R13, R19, R22, R25). -/
inductive Trans where
  | none | bringup | toIdle | toRun | toStandby | mooring | resuming
  deriving DecidableEq, Repr

/-- The power block and the mooring sequencer. `phase` is the bring-up phase in work; `before` the state held before
mooring; `cut` that mooring began out of a transition. -/
structure PowerSt where
  state : Power
  trans : Trans
  phase : Nat
  before : Power
  ready : Bool
  pin : Bool
  cmd : Bool
  trip : Bool
  coldFlag : Bool
  tripFlag : Bool
  lossFlag : Bool
  tripCount : BitVec 16
  lastResult : Byte
  limit : BitVec 12
  watts : BitVec 16
  moorDur : Word
  moorCount : BitVec 32
  moorAt : Nat
  donePhase : Nat
  code : Nat
  ethFail : BitVec 16
  /-- PWR_MASK in force and as stored by writes outside RUN (R16). -/
  mask : SMap Nat Word
  stored : SMap Nat Word
  /-- The rotation boundaries at which gated cores stop and start again (R14). -/
  stopAt : Nat
  goAt : Nat
  /-- Bring-up stopped at a phase boundary for a holder, and begins again from phase 2 (R23). -/
  again : Bool
  /-- Teams whose image a mooring abandoned (R23). -/
  lost : List TeamKey
  /-- Of an entry to MOORED: its beginning, the wall time before which the cycle counter is not saved, and whether the
  images and the counter have been saved (R12, R19 step 4). -/
  entryAt : Nat
  saveAt : Nat
  saved : Bool
  deriving DecidableEq, Repr

/-! ## Ethernet, Towline and the host (R40 to R44, R62 to R71) -/

/-- A datagram that a port sends (R43, R44, R62): its frame's source address, VLAN identifier and priority, its packet's version,
DF, ECN field and flow label, where it goes, its ports, whether its checksum is generated, and the Towline packet. -/
structure Datagram where
  mac : Nat
  vid : Nat
  pcp : Nat
  ip4 : Bool
  df : Bool
  ecn : Nat
  flow : Nat
  dst : BitVec 128
  sport : Nat
  dport : Nat
  checksum : Bool
  payload : List Byte
  deriving DecidableEq, Repr

/-- A port's flow control (R42): priorities paused by the other side, priorities it has paused, bytes held a priority,
and whether its link is up. -/
structure EthPort where
  paused : Byte
  pausing : Byte
  held : List Nat
  link : Bool
  /-- Datagrams that wait for a paused priority 3. -/
  queued : List Datagram
  /-- The source address and port of the last datagram of each session, which answers go to (R62). -/
  peers : SMap Nat (BitVec 128 × Nat)
  /-- When a register of the port was last written, on the wall axis, and what its registers held before that cycle (R44). -/
  before : Option (Nat × SMap (Nat × Nat) Word)
  deriving DecidableEq, Repr

/-- The protected non-volatile storage (R40, R44, R79, R85): image slots as bytes by offset. -/
structure NvSt where
  activeB : Bool
  svnFloor : Nat
  leaf : Nat
  hostPort : BitVec 4
  ip4 : Word
  ip6lo : Word
  ip6hi : Word
  enables : BitVec 2
  slotA : List Host.Cell
  slotB : List Host.Cell
  deriving DecidableEq, Repr

/-- A DATA packet not yet acknowledged (R65): sequence number, message, and how often it was sent again. -/
structure Unacked where
  seq : BitVec 32
  msg : Msg
  tries : Nat
  deriving DecidableEq, Repr

/-- A Towline session (R64, R65). -/
structure Session where
  isOpen : Bool
  sendSeq : BitVec 32
  recvSeq : BitVec 32
  window : Nat
  acked : Nat
  ece : Bool
  unacked : List Unacked
  waiting : List Msg
  /-- Packets received ahead of their turn, by sequence number. -/
  early : List (BitVec 32 × Msg)
  /-- The other side has answered MOORED since its last acknowledgement (R66). -/
  moored : Bool
  deriving DecidableEq, Repr

/-- A conversation of a built-in service (R68, R208): the server's and the client's addresses, their sequence numbers,
whether a TBYE has ended it, whether it waits for the client's answer, and the state it stands at. -/
structure Conv where
  server : BitVec 32
  client : BitVec 32
  sseq : BitVec 32
  rseq : BitVec 32
  ended : Bool
  busy : Bool
  deriving DecidableEq, Repr

/-! ## Launches and teams (R73 to R93, R112 to R119) -/

/-- An accepted launch: its number, its record, its acceptance cycle, its combined word, and the level-0 teams done. -/
structure LaunchSt where
  num : Nat
  record : List Byte
  accepted : Nat
  word : BitVec 32
  zeros : Nat
  /-- The variants' packet lists that have been read, by level and variant: their malformed packets are counted (R92, R95). -/
  lists : List (Nat × Nat)
  deriving DecidableEq, Repr

/-- A packet in a pending store (R93). -/
structure PendPkt where
  key : TeamKey
  bytes : List Byte
  /-- Stamps are given on entry to the root's queue; a packet that comes back from an image keeps its own. -/
  stamp : Option Nat
  /-- One of the level's initial packets. -/
  initial : Bool
  /-- Already counted as past its deadline (R99). -/
  late : Bool
  deriving DecidableEq, Repr

/-- Where a team stands. -/
inductive TeamPhase where
  /-- Waiting for its first placement (R92). -/
  | waiting
  | placed
  /-- A pre-emption in progress: 0 drain, 1 discard, 2 save (R113); 4 the save of a mooring (R19). A restoration in progress: 3
  (R118). -/
  | leaving (action : Nat)
  /-- Saved by a mooring, to resume in its rectangle (R22). -/
  | moored
  /-- Left its rectangle with an image, waiting for relaunch (R118). -/
  | saved
  /-- Left it without an image. -/
  | gone
  /-- Kept after a dump (R153). -/
  | kept
  | fenced
  deriving DecidableEq, Repr

/-- A team: its tile and what the scheduler keeps of it (R86, R92, R114). -/
structure TeamSt where
  x : Nat
  y : Nat
  w : Nat
  h : Nat
  phase : TeamPhase
  /-- The footprint in force: 0 FOOT, 1 to 3 VAR[i - 1]. -/
  foot : Nat
  placedAt : Nat
  capSeen : Word
  progress : Word
  runSum : Nat
  runN : Nat
  /-- The words of child instances done, and the number not yet done (R110). -/
  kids : List (Nat × BitVec 32)
  kidsOpen : Nat
  deadline : Nat
  asked : Nat
  /-- Keep the image after the save of a dump, and the requester's level of detail (R153). -/
  dump : Bool
  /-- The dump joined a save that another request had begun: cause 3 of its index block (R153). -/
  dumpJoined : Bool
  /-- Endpoints whose marker has arrived during a snapshot (R117). -/
  marked : List (CoreId × Nat)
  /-- Threads that have sent their markers. -/
  senders : List ThreadId
  /-- The team's word before it reports. -/
  word : BitVec 32
  deriving DecidableEq, Repr

/-- What a save image holds (R116): contexts, registers by number, core and creel state at team-relative places; bytes,
word bits and check-unit states by team-relative creel and offset in its SRAM window; packets of the rings by
team-relative creel. -/
structure Image where
  foot : Nat
  threads : List (ThreadId × Thread)
  regs : List ((ThreadId × Nat) × RegEntry)
  eps : List ((CoreId × Nat) × Endpoint)
  cores : List (CoreId × CoreSt)
  creels : List (CreelId × CreelSt)
  bytes : List ((CreelId × Nat) × Byte)
  marks : List ((CreelId × Nat) × Byte)
  errs : List ((CreelId × Nat) × Byte)
  packets : List (CreelId × PendPkt)
  deriving DecidableEq, Repr

/-- What a mooring writes to the moorage region beside the save images (R19 step 4, R20): what stands on chip. -/
structure Moorage where
  mem : List Host.Cell
  bits : List Host.Cell
  err : List Host.Cell
  regs : SMap (CoreId × Nat) RegEntry
  threads : SMap ThreadId Thread
  eps : SMap (CoreId × Nat) Endpoint
  cores : SMap CoreId CoreSt
  creels : SMap CreelId CreelSt
  waiters : List Waiter
  deriving DecidableEq, Repr

/-! ## Translation services (R58 to R61) -/

/-- The shootdown registers of a supervisor slot (R58). -/
structure TsdSt where
  va : Word
  expect : Nat
  count : Nat
  busy : Bool
  rej : Bool
  deriving DecidableEq, Repr

/-- A page on the move (R60, R61, R134). -/
structure Move where
  id : Nat
  die : Nat
  big : Bool
  up : Bool
  old : Nat
  new : Nat
  leafAddr : Nat
  leaf : Word
  line : Nat
  deriving DecidableEq, Repr

/-! ## Firmware update and boot flood (R411 to R419) -/

/-- The update unit (R418). -/
structure FwuSt where
  result : Byte
  updn : BitVec 16
  tgt : Bool
  phase : Nat
  t0 : Word
  deriving DecidableEq, Repr

/-- The boot unit of a die (R411). -/
structure BootSt where
  imgack : Nat
  ans : Nat
  lastf : Byte
  rej : Bool
  late : Bool
  busy : Bool
  img : Word
  pres : List Word
  deriving DecidableEq, Repr

/-- A die-to-die edge (R38): links that failed, links being retrained. -/
structure EdgeSt where
  failed : List Nat
  /-- Which link carries a mesh link's traffic, where it is not itself: a spare, 32 or 33, or the link it is folded onto. -/
  carriers : SMap Nat Nat
  training : List Nat
  /-- Replays of a link that have failed one after another. -/
  replays : SMap Nat Nat
  deriving DecidableEq, Repr

/-- A fence in force (R139): team, rectangle, the step reached (0 consumed, 1 boundary, 2 stopped, 3 reset), and the cycle of
the consumption. -/
structure FenceSt where
  key : TeamKey
  x : Nat
  y : Nat
  w : Nat
  h : Nat
  step : Nat
  since : Nat
  deriving DecidableEq, Repr

/-! ## Events -/

/-- An event of the opcode table as it stands in the agenda or among the inputs: the same constructors as the event
rows of `Instr`. -/
inductive Event where
  | moorReqRise
  | moorReqFall
  | powerGood
  | supplyRemoved
  | bringupPhaseComplete (r : PhaseReport)
  | pwrCmdStandby
  | pwrCmdWake
  | pwrCmdIdle
  | pwrCmdRun
  | pwrCmdMoor
  | pwrCmdResume
  | pwrCmdInvalid (c : Byte)
  | standbyEntryComplete
  | idleEntryComplete
  | runEntryComplete
  | pwrLimitWrite (v : Word)
  | pwrMaskWrite (n : Nat) (v : Word)
  | powerWindowEnd (watts : BitVec 16)
  | moorEntryComplete
  | moorEntryTimeout (lost : List TeamKey)
  | resumptionComplete (bad : List BankRef)
  | dieLinkReplay (edge : Nat) (link : Nat)
  | dieLinkRetrain (edge : Nat) (link : Nat)
  | dieLinkRetrainEnd (edge : Nat) (link : Nat) (ok : Bool)
  | ethFrameReceive (port : Nat) (f : EthFrame)
  | pfcPauseReceive (port : Nat) (prio : Nat) (pause : Bool)
  | arpRequest (port : Nat) (ip : BitVec 32)
  | neighbourSolicitation (port : Nat) (ip : BitVec 128)
  | ethLinkUp (port : Nat)
  | ethCfgWrite (port : Nat) (v : Word)
  | ethHostPersist
  | ethHostPortWrite (p : BitVec 4)
  | modSelfWrite (m : Byte)
  | walkEntryReply (walk : Nat) (entry : Word) (status : Nat)
  | tlbMigEntryExpiry (c : CreelId) (asid : BitVec 16) (vpage : Nat) (size : Nat)
  | tsdCtlShootdown (t : ThreadId) (v : Word)
  | shootdownReceive (c : CreelId) (sd : Shootdown)
  | shootdownCreelDone (c : CreelId) (sd : Shootdown)
  | shootdownCompletion (t : ThreadId)
  | migrationEpochEnd (die : Nat)
  | migrationLineCopy (die : Nat) (move : Nat)
  | migrationCommit (die : Nat) (move : Nat)
  | migrationFrameRelease (die : Nat) (ring : Nat) (frame : Nat)
  | migFreeWrite (die : Nat) (ring : Nat) (v : Word)
  | migRbaseWrite (die : Nat) (ring : Nat) (v : Word)
  | towlineData (session : Nat) (seq : BitVec 32) (acknum : BitVec 32) (ece : Bool) (m : Msg)
  | towlineAck (session : Nat) (acknum : BitVec 32) (ece : Bool)
  | towlineOpen (session : Nat)
  | towlineReset (session : Nat)
  | towlineRetransmitTimeout (session : Nat) (seq : BitVec 32)
  | regRead (addr : Word)
  | regWrite (addr : Word) (v : Word)
  | fwWrite (slot : Byte) (off : Nat) (data : List Byte)
  | fwActivate
  | noticeAck
  | launch (rec : List Byte)
  | bulkRead (server : BitVec 32) (pa : Nat) (len : Nat)
  | bulkWrite (server : BitVec 32) (pa : Nat) (data : List Byte)
  | getVersion
  | getCapabilities
  | negotiateAlgorithms
  | getDigests
  | getCertificate (slot : Nat) (off : Nat) (len : Nat)
  | challenge (nonce : List Byte)
  | getMeasurements (index : Nat) (sign : Bool) (nonce : List Byte)
  | spdmUnsupported (code : Byte)
  | fwuQuiesced
  | fwuSigDone (t : ThreadId)
  | fwuSigFail (t : ThreadId)
  | fwuHandoverTimeout (upd : Nat)
  | fwHbWrite (t : ThreadId) (seq : BitVec 16)
  | fwuHeartbeatTimeout (upd : Nat)
  | teamPlacement (k : TeamKey)
  | queueExamination (c : CreelId)
  | gateTestReply (c : CreelId) (ring : Nat) (unit : Nat) (gate : Nat) (full : Bool)
  | dispatchEnterRotation (t : ThreadId)
  | stealRequest (victim : CreelId) (thief : CreelId) (k : TeamKey)
  | stealReply (thief : CreelId) (victim : CreelId) (k : TeamKey) (ring : Nat) (stamp : Nat) (pkt : List Byte)
  | stealBackoffExpiry (c : CreelId)
  | doneSend (c : CreelId) (k : TeamKey)
  | doneReceive (c : CreelId) (k : TeamKey) (word : BitVec 32)
  | preReqEstimate (v : Word)
  | preReqSave (v : Word)
  | preReqDiscard (v : Word)
  | preReqDrain (v : Word)
  | preReqResume (v : Word)
  | preemptBoundaryStop (k : TeamKey)
  | saveComplete (k : TeamKey)
  | snapshotMarker (core : CoreId) (ep : Nat)
  | teamRelaunch (k : TeamKey)
  | restoreComplete (k : TeamKey)
  | retCtlRetire (c : CreelId) (v : Word)
  | sluiceStart (c : CreelId)
  | sluiceWaitfitDone (c : CreelId)
  | sluicePinDone (c : CreelId)
  | sluiceUnitCopy (c : CreelId)
  | bceWrite (c : CreelId) (reg : Nat) (v : Word)
  | errorCounterWrite (die : Nat) (n : Nat) (v : Word)
  | pairedHoldTimeout (t : ThreadId) (item : Nat)
  | fenceBoundary (k : TeamKey)
  | fenceStop (k : TeamKey)
  | fenceReset (k : TeamKey)
  | boundaryNack (m : Msg)
  | nackReceive (m : Msg)
  | dbgHalt (c : CreelId)
  | dbgResume (c : CreelId)
  | dbgStep (t : ThreadId)
  | dbgRegRead (c : CreelId) (off : Nat)
  | dbgRegWrite (c : CreelId) (off : Nat) (v : Word)
  | dbgThreadRegRead (t : ThreadId) (n : Nat)
  | dbgDumpTeam (t : ThreadId) (level : Nat)
  | dbgDumpCreel (c : CreelId)
  | haltCrossTrigger (c : CreelId)
  | debugResumePoint (c : CreelId)
  | debugStepComplete (t : ThreadId)
  | sampleTick (c : CreelId)
  | slotStart (t : ThreadId) (v : Word)
  | chpoolWrite (core : CoreId) (v : Word)
  | statusWrite (t : ThreadId) (v : Word)
  | devDataRead (t : ThreadId) (d : BitVec 7)
  | devDataWrite (t : ThreadId) (v : Word)
  | registerWrite (t : ThreadId) (n : BitVec 11) (v : Word)
  | bargeTake (core : CoreId)
  | handlerStart (core : CoreId) (ep : Nat)
  | icacheLineFill (t : ThreadId) (va : Nat) (pa : Nat) (bytes : List Byte) (status : Nat)
  | repBufferBeat (t : ThreadId)
  | wfeTimeout (t : ThreadId) (since : Nat)
  | userMessageArrival (m : Msg)
  | connectMessage (m : Msg)
  | acceptMessage (m : Msg)
  | creditReturn (m : Msg)
  | delegateTransfer (m : Msg)
  | taken (m : Msg)
  | redirect (m : Msg)
  | redirected (m : Msg)
  | fwdEnd (m : Msg)
  | closedNotice (m : Msg)
  | inlineCodeRun (core : CoreId) (ep : Nat)
  | memLoad (q : MemReq)
  | memStore (q : MemReq)
  | memAtomic (q : MemReq)
  | memSubByteStore (q : MemReq)
  | memDestAdd (q : MemReq)
  | memDestMin (q : MemReq)
  | memDestMax (q : MemReq)
  | memFullEmpty (q : MemReq)
  | memoryReply (r : MemReply)
  | waitCancel (q : MemReq)
  | waiterStoreResend (q : MemReq)
  | treq (m : Msg)
  | twrite (m : Msg)
  | tbye (m : Msg)
  | autloadComplete (t : ThreadId)
  | enqRemoteArrival (t : ThreadId) (k : TeamKey) (pkt : List Byte)
  | enqAnswer (t : ThreadId) (code : Nat)
  | engineCommandComplete (c : CreelId) (eng : Nat) (cmd : Nat)
  | matrixAccept (core : CoreId)
  | matrixCommit (core : CoreId)
  | mteamBlockArrival (core : CoreId) (blk : MBlock)
  | mswapMessageArrival (core : CoreId) (m : SwapMsg)
  | bootDiscoveryFlood (die : Nat) (v : Word)
  | bootImageFlood (die : Nat) (v : Word)
  | floodFlitArrival (c : CreelId) (port : Nat) (f : FloodFlit)
  | floodAnswer (die : Nat) (f : FloodFlit)
  | imagePacketArrival (c : CreelId) (port : Nat) (f : FloodFlit)
  | imageAck (die : Nat) (f : FloodFlit)
  | discoveryWindowEnd (die : Nat) (fnum : Byte)
  | imageWindowEnd (die : Nat) (fnum : Byte)
  | illegalEncoding (slot : BitVec 32) (high : Bool)
  | softError (site : ErrorSite)
  | ethLinkDown (port : Nat)
  | towlineMooredReceive (session : Nat)
  deriving DecidableEq, Repr

/-! ## Happenings to come -/

/-- What an agenda entry does when its cycle comes. -/
inductive Act where
  /-- An event of the opcode table. -/
  | event (e : Event)
  /-- The parked instruction of a thread is taken up again at the end of this cycle (R162). -/
  | redo (t : ThreadId)
  /-- The change of a mailbox becomes visible to its waiters (R327). -/
  | mailbox (c : CoreId) (n : Nat)
  /-- A message reaches the network interface of its destination (R34, R198). -/
  | arrive (m : Msg)
  /-- A walker's read of the entry it stands at is performed at the entry's home (R56). -/
  | walkRead (id : Nat)
  /-- A miss reaches its walker (R56). -/
  | walkArrive (id : Nat)
  /-- The skew of a halt is over (R146). -/
  | haltSkewOver (c : CreelId)
  /-- A gate test refused for its version is made again (R57, R98). -/
  | gateAgain (q : MemReq)
  /-- A walk's result reaches the creel that missed: the leaf, its address and page-size code, or a walk cause. -/
  | walkEnd (id : Nat) (leaf : Word) (addr : Nat) (size : Nat) (cause : Nat)
  deriving DecidableEq, Repr

/-- An agenda entry: the cycle (or, on the wall axis, the microsecond) at whose end it happens. -/
structure Due where
  at_ : Nat
  act : Act
  deriving DecidableEq, Repr

/-- One turn of a cycle: a buffered beat or an ordinary issue of a thread (R159, R182). -/
inductive Turn where
  | beat (t : ThreadId)
  | issue (t : ThreadId)
  deriving DecidableEq, Repr

/-- The instruction in hand: its slot word, the parcel PC[1], and whether it was parked and is taken up again. -/
structure Hand where
  thread : ThreadId
  word : BitVec 32
  high : Bool
  again : Bool
  buffered : Bool
  deriving DecidableEq, Repr

/-- What has left the module toward the host or the network (R62 to R71): the model's own record. -/
inductive Output where
  | datagram (port : Nat) (d : Datagram)
  | pause (port : Nat) (prio : Nat) (on : Bool)
  | code (name : String) (v : Nat)
  deriving DecidableEq, Repr

/-! ## The state -/

/-- What a buffered beat reads at the start of its cycle and may write at its end (R160): memory, and the thread's registers and
vector flags. -/
structure Sample where
  thread : ThreadId
  mem : List Host.Cell
  bits : List Host.Cell
  err : List Host.Cell
  regs : SMap (CoreId × Nat) RegEntry
  vflags : BitVec 8
  deriving DecidableEq, Repr

/-- What a buffered beat writes at the end of its cycle: cells, register entries, vector flags. -/
structure LateWrites where
  thread : ThreadId
  mem : List Host.Cell
  bits : List Host.Cell
  err : List Host.Cell
  regs : List ((CoreId × Nat) × RegEntry)
  vflags : BitVec 8
  deriving DecidableEq, Repr

/-- The whole machine. -/
structure State where
  /-- The global cycle counter (R12). -/
  cyc : Nat
  /-- Inputs of the environment not yet taken. The model's own field. -/
  inputs : List Event
  /-- Happenings to come, earliest first. The model's own field. -/
  agenda : List Due
  /-- What is left of this cycle's issue. The model's own field. -/
  turn : List Turn
  /-- The slots whose threads have had their turn in this cycle, and whether their instruction issued (R147, R154); the ports
  of cores used in it: of replies, and outside ports of local-store banks (R165, R166). The model's own fields. -/
  tried : List (ThreadId × Bool)
  served : List (Bool × CoreId × Nat)
  /-- What the buffered beat of this cycle found, while it is performed, and what it writes at the end of the cycle, while the
  scalar instruction of the same slot reads the start of it (R160, R182). The model's own fields. -/
  sampled : Option Sample
  late : Option LateWrites
  /-- The instruction in hand, between fetch and issue. The model's own field. -/
  hand : Option Hand
  /-- The thread whose instruction is performed, its slot word and parcel, and whether it is taken up again. The
  model's own fields. -/
  cur : ThreadId
  word : BitVec 32
  high : Bool
  again : Bool
  buffered : Bool
  /-- The counter that free values are drawn with, and the counter of tokens. The model's own fields. -/
  free : Nat
  token : Nat
  out : List Output
  /-- Bytes by physical address, check-bit states and word bits by word address (R48, R239, R314, R424). -/
  mem : List Host.Cell
  bits : List Host.Cell
  err : List Host.Cell
  regs : SMap (CoreId × Nat) RegEntry
  threads : SMap ThreadId Thread
  eps : SMap (CoreId × Nat) Endpoint
  cores : SMap CoreId CoreSt
  creels : SMap CreelId CreelSt
  teams : SMap TeamKey TeamSt
  /-- Failed stacks and tiers, excluded dies (R27, R29, R39), fused-off creels (R1). -/
  hbmFail : BitVec 16
  lpFail : BitVec 8
  dieExcl : BitVec 8
  fused : List CreelId
  /-- Registers of the dies' blocks that are plain words, by die and offset (R72). -/
  dieRegs : SMap (Nat × Nat) Word
  /-- Walks, in order of arrival at their walkers (R56). -/
  walks : List Walk
  /-- Waiter records at every home (R316), and requests held because a waiter store was full. -/
  waiters : List Waiter
  heldWaits : List MemReq
  /-- Version and access count of the frames of MIG pages, by frame number (R57, R59). -/
  frameVer : SMap Nat Byte
  frameCount : SMap Nat Nat
  /-- Wall time in cycles of 600 MHz, and happenings on it (R22, R29, R65). -/
  wall : Nat
  wallAgenda : List Due
  power : PowerSt
  eth : SMap Nat EthPort
  nv : NvSt
  sessions : SMap Nat Session
  /-- Notices held, oldest first (R71). -/
  notices : List (Byte × List Byte)
  /-- The conversations of the built-in services (R68, R208). -/
  convs : List Conv
  launches : SMap Nat LaunchSt
  serial : Nat
  pending : List PendPkt
  images : SMap TeamKey Image
  /-- PRE_STAT (R112). -/
  preReqs : BitVec 32
  preLast : Byte
  preAction : Byte
  /-- Requests held while an update runs (R419). -/
  heldByUpdate : List Event
  tsd : SMap ThreadId TsdSt
  /-- Moves in progress (R60); idle epochs of frames; what was last carried with a request to a MIG page, by frame:
  size code, leaf address, leaf (R59). -/
  moves : List Move
  idleEpochs : SMap Nat Nat
  frameHeat : SMap Nat (Nat × Nat × Word)
  /-- Free-frame rings: head index and count, by die and ring (R78). -/
  frameRings : SMap (Nat × Nat) (Nat × Nat)
  capDver : Word
  fwu : FwuSt
  boot : SMap Nat BootSt
  edges : SMap Nat EdgeSt
  fences : List FenceSt
  /-- RUN cycles so far, from which class 3 of the accounts is formed (R154). -/
  runCyc : Nat
  /-- The host port in force, read at bring-up phase 1 (R40). -/
  hostPort : Nat
  /-- Messages held at the host port in IDLE (R14). -/
  idleHeld : List Msg
  /-- What the gated cores and engines had in hand at entry to IDLE, and the cycle of the entry (R14). -/
  gated : List Due
  gatedAt : Nat
  /-- What the matrix units of a creel that the mask gates had in hand, and since when (R15). -/
  maskGated : List (CreelId × Nat × List Due)
  /-- What the moorage region holds of the on-chip state while it is lost (R19, R22). -/
  moorage : Option Moorage
  deriving DecidableEq, Repr

/-! ## Values at reset -/

/-- A register entry holding zero; its residue is 0 (R26, R135). -/
def RegEntry.zero : RegEntry := ⟨0, false, 0⟩

/-- An endpoint after reset: FREE, every field zero (R184). -/
def Endpoint.initial : Endpoint :=
  ⟨.free, false, false, false, 0, 0, 0, 0, 0, 0, 0, 0, 0, 0, 0, 0, 0, 0, 0, 0, 0, 0, 0, false, 0, 0, 0, 0,
    false, false, false, 0, none, [], [], none, 0⟩

/-- A mailbox after reset: EMPTY (R172). -/
def Mailbox.initial : Mailbox := ⟨0, false, 0⟩

/-- A core after reset (R172, R173, R176, R201, R275): SLOT_SEL.REGS is 8 (R157). -/
def CoreSt.initial : CoreSt :=
  ⟨[], 15, 0x7FFF, [], [], 0, 0, 0, 0x80000, [], [], [], [], [], [], none, [], [], 0, []⟩

/-- A core's capacity at reset (R122). -/
def CapCore.initial : CapCore := ⟨16384, 2048, 24576, 0⟩

/-- An engine with nothing in it. -/
def Engine.initial : Engine := ⟨[], [], [], []⟩

/-- A flight that is not loaded. -/
def Flight.initial : Flight := ⟨false, 0, 0, 0, 0, 0, 0, 0, 0, [], none, none⟩

/-- A creel after reset. -/
def CreelSt.initial : CreelSt :=
  ⟨[], [], [], [], [], 0, 524288, 0, [], [], none, false, false,
    [], [], [], [], [], [], none, [], 0x10, 0, 0, 0x0100, 0, 0, [], none, [], 0, 0, 0, none, [], none, 0, 0, 0, [], [], [], []⟩

/-- An empty shape record. -/
def Shape.empty : Shape := ⟨0, 0, 0, 0, [], [], 0, [], [], [], 0, 0⟩

/-- An unbound stream register (R353). -/
def ZReg.unbound : ZReg := ⟨0, 0, 0, false, 0, 0, 0, Shape.empty, []⟩

/-- An empty repetition buffer (R347). -/
def RepBuf.empty : RepBuf := ⟨[], 0, 0, 0, 0, 0, 0, false, false, 0, false, 0⟩

/-- A thread with every register zero, at address 0, in the rotation: the base on which dispatch, SLOT_START and
handler start build (R102, R157). -/
def Thread.blank : Thread :=
  ⟨0, 0, 0, 0, 0, 0, 0, 0, 0, 0, 0, 0, 0, 8, 0, 0, 0, 0, 0, none, false, false, none, none, 0, .run, none,
    List.replicate 8 ZReg.unbound, RepBuf.empty, none, true, [], none, 0, 0, [], [0, 0, 0, 0, 0],
    List.replicate 32 0, false, 0, 0, false, 0, 0, false, 0, [], 0, 0, 0, 0, false, false, none,
    none, false, 0, [], [], [], [], 0, false, 0, none, false, false, false, [], 0, false⟩

/-- The power block just after power-good (R25, R29): STANDBY with bring-up phase 0 in progress. -/
def PowerSt.initial : PowerSt :=
  { state := .standby, trans := .bringup, phase := 0, before := .idle, ready := false, pin := false, cmd := false
    trip := false, coldFlag := true, tripFlag := false, lossFlag := false, tripCount := 0, lastResult := 0
    limit := 495, watts := 0, moorDur := 0, moorCount := 0, moorAt := 0, donePhase := 0, code := 0, ethFail := 0
    mask := [], stored := [], stopAt := 0, goAt := 0, again := false, lost := [], entryAt := 0, saveAt := 0, saved := false }

/-- The non-volatile storage: empty slots, slot A active, floor and leaf 0, host port 0 (DESIGN CHOICE, log 3). -/
def NvSt.initial : NvSt :=
  { activeB := false, svnFloor := 0, leaf := 0, hostPort := 0, ip4 := 0, ip6lo := 0, ip6hi := 0, enables := 0
    slotA := [], slotB := [] }

/-- A boot unit after reset (R411). -/
def BootSt.initial : BootSt := ⟨0, 0, 0, false, false, false, 0, List.replicate 16 0⟩

/-- A closed session (R64). -/
def Session.initial : Session := ⟨false, 0, 0, 256, 0, false, [], [], [], false⟩

/-- A port with an empty receive buffer and no link. -/
def EthPort.initial : EthPort := ⟨0, 0, List.replicate 8 0, false, [], [], none⟩

/-- An edge with every link working (R38). -/
def EdgeSt.initial : EdgeSt := ⟨[], [], [], []⟩

/-- The shootdown registers after reset (R58). -/
def TsdSt.initial : TsdSt := ⟨0, 0, 0, false, false⟩

/-- The machine right after power-good, at the start of bring-up phase 0 (R25, R29; DESIGN CHOICE, log 1): nothing listed in memory,
no thread in any slot, every register at its reset value. -/
def State.reset : State :=
  { cyc := 0, inputs := [], agenda := [], turn := [], tried := [], served := [], sampled := none, late := none, hand := none, cur := ⟨⟨0, 0, 0⟩, 0⟩, word := 0, high := false
    again := false, buffered := false, free := 0, token := 0, out := [], mem := [], bits := [], err := [], regs := []
    threads := [], eps := [], cores := [], creels := [], teams := [], hbmFail := 0, lpFail := 0, dieExcl := 0
    fused := [], dieRegs := [], walks := [], waiters := [], heldWaits := [], frameVer := [], frameCount := []
    wall := 0, wallAgenda := [], power := PowerSt.initial, eth := [], nv := NvSt.initial, sessions := [], notices := []
    convs := [], launches := [], serial := 0, pending := [], images := [], preReqs := 0
    preLast := 0, preAction := 0, heldByUpdate := [], tsd := [], moves := [], idleEpochs := [], frameHeat := []
    frameRings := [], capDver := 0, fwu := ⟨0, 0, false, 0, 0⟩, boot := [], edges := [], fences := [], runCyc := 0, hostPort := 0
    idleHeld := [], gated := [], gatedAt := 0, maskGated := [], moorage := none }

/-- Why a step stops with a fault. -/
inductive Fault where
  /-- `exec` of an encoded instruction whose `cur` names a slot that holds no thread. No step of the machine forms
  such a call, so no run of the hardware is cut short. Safe. -/
  | noThread
  deriving DecidableEq, Repr

/-- Why a step has no meaning. -/
inductive Refusal where
  /-- An instruction that has no meaning yet, by its mnemonic. Safe: nothing is claimed of it. -/
  | notModelled (mnemonic : String)
  deriving DecidableEq, Repr

/-- The outcome of a meaning. -/
abbrev Out := Host.Outcome State Fault Refusal

end Sys2Proof.Machine
end

