-- ==== Sys2Proof/Machine/Memory.lean ====
section
/-! DEFINITION. Memory as sparse lists of cells in canonical form: bytes, word bits (four sticky tags and EMPTY) and
check-unit states (R26, R239, R314, R424), and the reads and writes every home performs. -/

namespace Sys2Proof.Machine

/-! ## Cells -/

/-- The value of a cell; an unlisted address reads as 0 (R26). -/
def cellGet : List Host.Cell → Nat → BitVec 8
  | [], _ => 0#8
  | (a, b) :: r, k => if a = k then b else cellGet r k

/-- One cell set, keeping addresses rising and no zero entry; a zero removes the entry. -/
def cellSet : List Host.Cell → Nat → BitVec 8 → List Host.Cell
  | [], k, v => if v = 0#8 then [] else [(k, v)]
  | (a, b) :: r, k, v =>
    if v = 0#8 then (if a = k then cellSet r k v else (a, b) :: cellSet r k v)
    else if k < a then (k, v) :: (a, b) :: r
    else if k = a then (k, v) :: r
    else (a, b) :: cellSet r k v

/-- Do the addresses rise strictly from `lo` on, with no zero entry? -/
def cellsFrom : Nat → List Host.Cell → Bool
  | _, [] => true
  | lo, (a, b) :: r => decide (lo ≤ a) && decide (b ≠ 0#8) && cellsFrom (a + 1) r

/-- The canonical form of a list of cells. -/
def cellsWf (m : List Host.Cell) : Bool := cellsFrom 0 m

/-- The cells in which the second of two lists differs from the first; the number bounds their lengths together. -/
def cellDiff : Nat → List Host.Cell → List Host.Cell → List Host.Cell
  | 0, _, n => n
  | _, [], n => n
  | _, o, [] => o.map fun x => (x.1, 0#8)
  | fuel + 1, o :: os, n :: ns =>
    if o = n then cellDiff fuel os ns
    else if o.1 < n.1 then (o.1, 0#8) :: cellDiff fuel os (n :: ns)
    else if n.1 < o.1 then n :: cellDiff fuel (o :: os) ns
    else n :: cellDiff fuel os ns

/-- Cells set one after another. -/
def cellsPut (m l : List Host.Cell) : List Host.Cell := l.foldl (fun m x => cellSet m x.1 x.2) m

/-- The memory of a state has its canonical form. -/
def Memory.wf (s : State) : Bool := cellsWf s.mem && cellsWf s.bits && cellsWf s.err

/-! ## Bytes and numbers (R4) -/

/-- A little-endian number from its bytes. -/
def leNat : List Byte → Nat
  | [] => 0
  | b :: r => b.toNat + 256 * leNat r

/-- The n little-endian bytes of a number. -/
def leBytes : Nat → Nat → List Byte
  | 0, _ => []
  | n + 1, v => BitVec.ofNat 8 v :: leBytes n (v / 256)

/-- n bytes of a list from an offset, as a little-endian number; bytes beyond the list read zero. -/
def fieldAt (bs : List Byte) (off n : Nat) : Nat := leNat ((bs.drop off).take n)

/-- A two's complement number of w bits. -/
def signedOf (w v : Nat) : Int := if v < 2 ^ (w - 1) then (v : Int) else (v : Int) - 2 ^ w

/-! ## Reading and writing at a home -/

/-- n bytes from physical address pa. -/
def readBytes (s : State) (pa : Nat) : Nat → List Byte
  | 0 => []
  | n + 1 => cellGet s.mem pa :: readBytes s (pa + 1) n

/-- The 8-byte word at an aligned address. -/
def readWord (s : State) (pa : Nat) : Word := BitVec.ofNat 64 (leNat (readBytes s pa 8))

/-- The bits of a word: [3:0] sticky tags, [4] EMPTY. -/
def wordBits (s : State) (pa : Nat) : BitVec 8 := cellGet s.bits (pa / 8)

/-- The sticky tag of the 16-bit quarter at pa (R239). -/
def tagAt (s : State) (pa : Nat) : Bool := (wordBits s pa).getLsbD (pa % 8 / 2)

/-- The full/empty bit of the word at pa: FULL when bit 4 is clear (R314, R26). -/
def isFull (s : State) (pa : Nat) : Bool := !(wordBits s pa).getLsbD 4

/-- Bytes written, one by one. -/
def putBytes : List Host.Cell → Nat → List Byte → List Host.Cell
  | m, _, [] => m
  | m, pa, b :: r => putBytes (cellSet m pa b) (pa + 1) r

/-- The sticky tag of one quarter set or cleared. -/
def putTag (m : List Host.Cell) (pa : Nat) (b : Bool) : List Host.Cell :=
  let old := cellGet m (pa / 8)
  let bit : BitVec 8 := 1#8 <<< (pa % 8 / 2)
  cellSet m (pa / 8) (if b then old ||| bit else old &&& ~~~bit)

/-- The tags of every quarter that n bytes from pa touch, cleared. -/
def clearTags (m : List Host.Cell) (pa : Nat) : Nat → List Host.Cell
  | 0 => m
  | n + 1 => clearTags (putTag m pa false) (pa + 1) n

/-- The full/empty bit of a word set. -/
def setFull (s : State) (pa : Nat) (full : Bool) : State :=
  let old := wordBits s pa
  { s with bits := cellSet s.bits (pa / 8) (if full then old &&& 0xEF#8 else old ||| 0x10#8) }

/-- The length of the check unit at pa: 32 bytes in the two DRAM tiers, 8 in on-chip SRAM (R424). -/
def unitLen (pa : Nat) : Nat := if pa < 0x40000000000 then 32 else 8

/-- The state of the check unit that holds pa: 0 valid, 1 corrected error, 2 uncorrectable (R47, R424). -/
def unitState (s : State) (pa : Nat) : Nat := (cellGet s.err (pa / unitLen pa * unitLen pa)).toNat

/-- Does a read of n bytes from pa meet an uncorrectable error? -/
def poisoned (s : State) (pa : Nat) : Nat → Bool
  | 0 => false
  | n + 1 => decide (unitState s pa = 2) || poisoned s (pa + 1) n

/-- Is the check unit of `a` covered whole by n bytes from pa? -/
def coversUnit (a pa n : Nat) : Bool :=
  let u := a / unitLen a * unitLen a
  decide (pa ≤ u ∧ u + unitLen a ≤ pa + n)

/-- R424. Does a write of n bytes from pa meet an uncorrectable error in a unit it covers only in part? -/
def partialPoison (s : State) (pa n : Nat) : Nat → Bool
  | 0 => false
  | k + 1 =>
    (decide (unitState s (pa + k) = 2) && !coversUnit (pa + k) pa n) || partialPoison s pa n k

/-- R424. The check units that n bytes from pa cover whole become valid. -/
def healUnits (m : List Host.Cell) (pa n : Nat) : Nat → List Host.Cell
  | 0 => m
  | k + 1 =>
    healUnits (if coversUnit (pa + k) pa n then cellSet m ((pa + k) / unitLen pa * unitLen pa) 0 else m) pa n k

/-- A write of bytes at pa, performed at its home: the tags of every quarter touched become clear, but for the first
quarter's, which becomes `tag` (R239, R254); check units written whole become valid (R424). -/
def writeBytes (s : State) (pa : Nat) (bs : List Byte) (tag : Bool) : State :=
  let bits := clearTags s.bits pa bs.length
  { s with
    mem := putBytes s.mem pa bs
    bits := if tag then putTag bits pa true else bits
    err := healUnits s.err pa bs.length bs.length }

/-- A write of one word. -/
def writeWord (s : State) (pa : Nat) (w : Word) : State := writeBytes s pa (leBytes 8 w.toNat) false

/-- A byte with its low or high nibble replaced (R318). -/
def nibbleIn (b : Byte) (high : Bool) (v : BitVec 4) : Byte :=
  if high then v ++ b.extractLsb' 0 4 else b.extractLsb' 4 4 ++ v

end Sys2Proof.Machine
end

