-- ==== Sys2Proof/Machine/Base.lean ====
section
/-! DEFINITION. Reading and changing the parts of the state: threads, registers, cores, creels, endpoints; the cycle
counter and the agenda. -/

namespace Sys2Proof

/-! ## Cores, creels, endpoints -/

/-- The die of a creel (R6). -/
def CreelId.die (k : CreelId) : Nat := k.x / 32 + 4 * (k.y / 32)

/-- Is this core one of a die's four lengthsman cores (R30)? -/
def CoreId.isLengthsman (c : CoreId) : Bool := decide (8 ≤ c.node)

/-- Is it a compute core C0 to C3 (R156)? -/
def CoreId.isCompute (c : CoreId) : Bool := decide (3 ≤ c.node ∧ c.node ≤ 6)

/-- The die of a core. -/
def CoreId.die (c : CoreId) : Nat := c.x / 32 + 4 * (c.y / 32)

/-- The lengthsman core n of a die, attached at die-local creel (0, 0) (R30, R35). -/
def lengthsman (die n : Nat) : CoreId := ⟨32 * (die % 4), 32 * (die / 4), 8 + n⟩

/-- The control region of a die, which holds the automaton store, translation cache and waiter records of its
lengthsman cores, is kept beside the creels under a column no creel has (R425; the model's own naming, DESIGN CHOICE, log 12). -/
def controlRegion (die : Nat) : CreelId := ⟨1000 + die, 0⟩

/-- The creel a core belongs to, or its control region. -/
def CoreId.creel (c : CoreId) : CreelId := if c.isLengthsman then controlRegion c.die else ⟨c.x, c.y⟩

end Sys2Proof

namespace Sys2Proof.Machine

/-- A core's state. -/
def coreOf (s : State) (c : CoreId) : CoreSt := s.cores.get c CoreSt.initial

/-- A core's state changed. -/
def modCore (s : State) (c : CoreId) (f : CoreSt → CoreSt) : State :=
  { s with cores := s.cores.put c (f (coreOf s c)) }

/-- A creel's state. -/
def creelOf (s : State) (k : CreelId) : CreelSt := s.creels.get k CreelSt.initial

/-- A creel's state changed. -/
def modCreel (s : State) (k : CreelId) (f : CreelSt → CreelSt) : State :=
  { s with creels := s.creels.put k (f (creelOf s k)) }

/-- An endpoint. -/
def epOf (s : State) (c : CoreId) (n : Nat) : Endpoint := s.eps.get (c, n) Endpoint.initial

/-- An endpoint changed. -/
def modEp (s : State) (c : CoreId) (n : Nat) (f : Endpoint → Endpoint) : State :=
  { s with eps := s.eps.put (c, n) (f (epOf s c n)) }

/-- An endpoint's status changed, with TCHG (R184). -/
def setEst (s : State) (c : CoreId) (n : Nat) (e : Est) : State :=
  modEp s c n fun p => { p with est := e, tchg := s.cyc }

/-- A core's capacity (R122). -/
def capOf (s : State) (c : CoreId) : CapCore := (creelOf s c.creel).capCore.get c.node CapCore.initial

/-! ## Threads -/

/-- The thread in a slot, blank when the slot is free. -/
def threadOf (s : State) (t : ThreadId) : Thread := (s.threads.find t).getD Thread.blank

/-- A thread changed; a free slot stays free. -/
def modThread (s : State) (t : ThreadId) (f : Thread → Thread) : State :=
  match s.threads.find t with
  | none => s
  | some th => { s with threads := s.threads.put t (f th) }

/-- The thread whose instruction is performed. -/
def State.th (s : State) : Thread := threadOf s s.cur

/-- The current thread changed. -/
def State.mod (s : State) (f : Thread → Thread) : State := modThread s s.cur f

/-! ## Registers (R164, R165, R135) -/

/-- The residue of an entry's 65 bits (R135). -/
def residue (d : Word) (b : Bool) : Byte := BitVec.ofNat 8 ((d.toNat + (if b then 2 ^ 64 else 0)) % 251)

/-- An entry with its residue formed from the result as written (R135). -/
def mkEntry (d : Word) (b : Bool) : RegEntry := ⟨d, b, residue d b⟩

/-- The entry of gN of a thread; g0 reads as zero with S clear (R164). -/
def regOf (s : State) (t : ThreadId) (n : Nat) : RegEntry :=
  if n = 0 then RegEntry.zero else s.regs.get (t.core, (threadOf s t).base + n) RegEntry.zero

/-- A write of gN of a thread; a write of g0 is discarded (R164). -/
def setRegOf (s : State) (t : ThreadId) (n : Nat) (d : Word) (b : Bool) : State :=
  if n = 0 then s
  else { s with regs := s.regs.put (t.core, (threadOf s t).base + n) (mkEntry d b) }

/-- The 64 data bits of g(n) of the current thread. -/
def State.g (s : State) (n : BitVec 7) : Word := (regOf s s.cur n.toNat).d

/-- The sticky bit of g(n) of the current thread. -/
def State.gS (s : State) (n : BitVec 7) : Bool := (regOf s s.cur n.toNat).s

/-- g(n) of the current thread written with S clear. -/
def State.setG (s : State) (n : BitVec 7) (d : Word) : State := setRegOf s s.cur n.toNat d false

/-- g(n) of the current thread written with S. -/
def State.setGS (s : State) (n : BitVec 7) (d : Word) (b : Bool) : State := setRegOf s s.cur n.toNat d b

/-- Does the entry of g(n) carry a correct residue (R135)? -/
def residueOk (s : State) (t : ThreadId) (n : BitVec 7) : Bool :=
  let e := regOf s t n.toNat
  decide (e.c = residue e.d e.s)

/-! ## STATUS (R242, R267) -/

/-- RM. -/
def rmOf (w : Word) : Nat := (w.extractLsb' 0 3).toNat
/-- SUP. -/
def stSup (w : Word) : Bool := w.getLsbD 16
/-- XM. -/
def stXm (w : Word) : Bool := w.getLsbD 17
/-- TRL. -/
def stTrl (w : Word) : Bool := w.getLsbD 18
/-- SRG. -/
def stSrg (w : Word) : Bool := w.getLsbD 19
/-- REPH. -/
def stReph (w : Word) : Bool := w.getLsbD 20
/-- PSUP. -/
def stPsup (w : Word) : Bool := w.getLsbD 21
/-- SRDC. -/
def stSrdc (w : Word) : Nat := (w.extractLsb' 48 16).toNat

/-- One bit of a word set. -/
def setBit (w : Word) (i : Nat) (b : Bool) : Word :=
  if b then w ||| (1#64 <<< i) else w &&& ~~~(1#64 <<< i)

/-- Flags ORed into STATUS[13:8] (R244). -/
def orFlags (w : Word) (f : BitVec 8) : Word := w ||| ((f.setWidth 64) <<< 8)

/-- SRDC incremented, wrapping (R242). -/
def bumpSrdc (w : Word) : Word := w + (1#64 <<< 48)

/-- Flags ORed into the current thread's STATUS. -/
def State.flags (s : State) (f : BitVec 8) : State := s.mod fun th => { th with status := orFlags th.status f }

/-! ## Time (R12, R159) -/

/-- The smallest cycle above c whose remainder by 16 is a slot's number (R162). -/
def nextOwn (c slot : Nat) : Nat :=
  let d := (slot + 16 - c % 16) % 16
  c + (if d = 0 then 16 else d)

/-- An entry put in its place in an agenda, behind those of the same time. -/
def insertDue (d : Due) : List Due → List Due
  | [] => [d]
  | e :: r => if d.at_ < e.at_ then d :: e :: r else e :: insertDue d r

/-- A happening at a cycle. -/
def State.at (s : State) (c : Nat) (a : Act) : State := { s with agenda := insertDue ⟨c, a⟩ s.agenda }

/-- A happening after n cycles. -/
def State.after (s : State) (n : Nat) (a : Act) : State := s.at (s.cyc + n) a

/-- A fresh token. -/
def State.fresh (s : State) : State := { s with token := s.token + 1 }

/-- Error counter n of a die incremented, saturating (R76, R77). -/
def count (s : State) (die n : Nat) : State :=
  let k := (die, 0x20000 + 8 * n)
  let v := s.dieRegs.get k 0
  { s with dieRegs := s.dieRegs.put k (if v = BitVec.allOnes 64 then v else v + 1) }

/-- Something leaves the module. -/
def State.emit (s : State) (o : Output) : State := { s with out := s.out ++ [o] }

/-- A list in increasing order of a key. -/
def insertBy (key : α → Nat) (x : α) : List α → List α
  | [] => [x]
  | y :: r => if key x < key y then x :: y :: r else y :: insertBy key x r

end Sys2Proof.Machine
end

