-- ==== Sys2Proof/Machine/Addr.lean ====
section
/-! DEFINITION. Addresses: the physical map and homes (R48 to R50), the self window (R52), page-table leaves and the
translation cache (R53 to R55), scopes (R226), watchpoints (R150), and the path an access takes (R309, R310). Mesh
times (R34, R35). -/

namespace Sys2Proof.Machine

/-! ## Homes -/

/-- Where a byte lives (R222): a core's local store, a creel's scratchpad, a memory controller of a die (capacity tier
or HBM4; north or south), or a die's register space. -/
inductive Home where
  | store (c : CoreId)
  | scratch (k : CreelId)
  | control (die : Nat) (cap : Bool) (north : Bool)
  | device (die : Nat)
  deriving DecidableEq, Repr

/-- Is this creel there: not fused off, not on an excluded die (R50)? -/
def creelThere (s : State) (k : CreelId) : Bool :=
  decide (k.x < 128 ∧ k.y < 64) && !s.dieExcl.getLsbD k.die && !s.fused.contains k

/-- R48. The base of a die's share of the moorage region, 1 GiB at the top of its first stack. -/
def moorBase (die : Nat) : Nat := 2 * die * 2 ^ 36 + 0xFC0000000

/-- The base of a creel's SRAM window (R49). -/
def windowBase (k : CreelId) : Nat := 0x100000000000 + k.y * 2 ^ 27 + k.x * 2 ^ 20

/-- The pseudo-physical base of a lengthsman core's local store, above the 52-bit map (DESIGN CHOICE, log 12). -/
def lengthsmanBase (c : CoreId) : Nat := 2 ^ 52 + (4 * c.die + (c.node - 8)) * 0x10000

/-- R48 to R50. The home of a physical address, or none where it is unbacked. -/
def homeOf (s : State) (pa : Nat) : Option Home :=
  if pa < 2 ^ 40 then
    let n := pa / 2 ^ 36
    if 0xFC0000000 ≤ pa % 2 ^ 36 || s.hbmFail.getLsbD n then none
    else some (.control (n / 2) false (decide (n % 2 = 1)))
  else if 2 ^ 41 ≤ pa && pa < 2 ^ 42 then
    let d := pa / 2 ^ 38 % 8
    if s.lpFail.getLsbD d then none else some (.control d true (decide (pa / 2 ^ 37 % 2 = 1)))
  else if 2 ^ 44 ≤ pa && pa < 2 ^ 44 + 2 ^ 33 then
    let k : CreelId := ⟨pa / 2 ^ 20 % 128, pa / 2 ^ 27 % 64⟩
    let off := pa % 2 ^ 20
    if !creelThere s k then none
    else if off < 0x80000 then (if off < (creelOf s k).spBytes then some (.scratch k) else none)
    else
      let n := (off - 0x80000) / 0x10000
      let c : CoreId := ⟨k.x, k.y, n⟩
      if n ≤ 6 && off % 0x10000 < (capOf s c).lsBytes then some (.store c) else none
  else if 2 ^ 45 ≤ pa && pa < 2 ^ 45 + 2 ^ 40 then some (.device ((pa - 2 ^ 45) / 2 ^ 28))
  else if 2 ^ 52 ≤ pa && pa < 2 ^ 52 + 0x200000 then
    let k := (pa - 2 ^ 52) / 0x10000
    let c := lengthsman (k / 4) (k % 4)
    if pa % 0x10000 < (capOf s c).lsBytes then some (.store c) else none
  else none

/-- R50. The home of an address that reaches the map as a whole 64-bit number: none above the 52 bits of R48, where the model
keeps its own names. -/
def homeWithin (s : State) (pa : Nat) : Option Home := if pa < 2 ^ 52 then homeOf s pa else none

/-- The die of a home, whose error counters it uses. -/
def Home.die (h : Home) : Nat :=
  match h with
  | .store c => c.die
  | .scratch k => k.die
  | .control d _ _ => d
  | .device d => d % 8

/-- The creel whose stores a home is, or a name of the model's own for a controller or a register space (DESIGN CHOICE, log 12). -/
def homeKey : Home → CreelId
  | .store c => c.creel
  | .scratch k => k
  | .control d cap north => ⟨2000 + 4 * d + (if cap then 2 else 0) + (if north then 1 else 0), 0⟩
  | .device d => ⟨3000 + d, 0⟩

/-- R139. Is a creel behind a fenced boundary? -/
def fencedAt (s : State) (k : CreelId) : Bool :=
  s.fences.any fun f => decide (1 ≤ f.step ∧ f.x ≤ k.x ∧ k.x < f.x + f.w ∧ f.y ≤ k.y ∧ k.y < f.y + f.h)

/-- R128. When the copy of the unit under way in a creel's sluice ends. -/
def copyEnd (s : State) (k : CreelId) : Nat :=
  match s.agenda.find? fun d => match d.act with
    | .event (.sluiceUnitCopy c) => decide (c = k)
    | _ => false with
  | some d => d.at_
  | none => s.cyc

/-- R128, R129. Does an access of n bytes at pa meet a unit that a sluice is copying? -/
def copying (s : State) (h : Home) (pa n : Nat) : Bool :=
  let hit (store core base : Nat) (k : CreelId) : Bool :=
    match (creelOf s k).sluice with
    | some u => decide (u.req.store = store ∧ (store = 1 ∨ u.req.core = core)) && (match u.copying with
      | some w => decide (8 * w < base + n ∧ base < 8 * w + 8)
      | none => false)
    | none => false
  match h with
  | .scratch k => hit 1 0 (pa % 0x100000) k
  | .store c => hit 2 c.node (pa % 0x10000) c.creel
  | _ => false

/-! ## The self window (R52) -/

/-- The first address of the self window. -/
def selfBase : Nat := 0x01FFFFFFFFF00000

/-- The physical address of n bytes at a self-window offset of a core, when they lie whole in one store below its
usable size (R52). A lengthsman core has a local store and no scratchpad. -/
def selfPa (s : State) (c : CoreId) (off n : Nat) : Option Nat :=
  if off < 0x80000 then
    if !c.isLengthsman && decide (off + n ≤ (creelOf s c.creel).spBytes) then some (windowBase c.creel + off) else none
  else if off + n ≤ 0x80000 + (capOf s c).lsBytes && decide (off < 0x80000 + 0x6000) then
    some (if c.isLengthsman then lengthsmanBase c + (off - 0x80000)
      else windowBase c.creel + 0x80000 + 0x10000 * c.node + (off - 0x80000))
  else none

/-! ## Traps of an access (R274) -/

/-- A TRANSLATION trap: walk cause and VA. -/
def trapTranslation (cause : Nat) (va : Nat) : Trap := ⟨3, BitVec.ofNat 64 (cause * 2 ^ 60 + va % 2 ^ 57)⟩
/-- An ALIGN trap. -/
def trapAlign (va : Nat) : Trap := ⟨2, BitVec.ofNat 64 va⟩
/-- A SCOPE trap. -/
def trapScope (va : Nat) : Trap := ⟨4, BitVec.ofNat 64 va⟩
/-- A PROTOCOL trap: cause and endpoint. -/
def trapProtocol (cause ep : Nat) : Trap := ⟨5, BitVec.ofNat 64 (cause + ep * 256)⟩

/-! ## Page-table entries (R53, R54) -/

/-- V. -/
def pteV (e : Word) : Bool := e.getLsbD 0
/-- LEAF. -/
def pteLeaf (e : Word) : Bool := e.getLsbD 1
/-- RD. -/
def pteRd (e : Word) : Bool := e.getLsbD 2
/-- W. -/
def pteW (e : Word) : Bool := e.getLsbD 3
/-- X. -/
def pteX (e : Word) : Bool := e.getLsbD 4
/-- U. -/
def pteU (e : Word) : Bool := e.getLsbD 5
/-- SCOPE. -/
def pteScope (e : Word) : Nat := (e.extractLsb' 6 3).toNat
/-- TIER. -/
def pteTier (e : Word) : Nat := (e.extractLsb' 9 2).toNat
/-- MIG. -/
def pteMig (e : Word) : Bool := e.getLsbD 11
/-- HEAT. -/
def pteHeat (e : Word) : Nat := (e.extractLsb' 12 2).toNat
/-- VER. -/
def pteVer (e : Word) : Byte := e.extractLsb' 52 8
/-- The physical address FRAME holds. -/
def pteFrame (e : Word) : Nat := (e.extractLsb' 16 36).toNat * 0x10000
/-- The physical address NEXT holds. -/
def pteNext (e : Word) : Nat := (e.extractLsb' 11 41).toNat * 0x800

/-- Bytes of a page of size code 0 to 3: 64 KiB, 16 MiB, 4 GiB, 1 TiB (R51, R58). -/
def pageBytes (size : Nat) : Nat := 2 ^ (16 + 8 * size)

/-- R55. The translation-cache entry of a creel that covers an address. -/
def tlbFind (s : State) (k : CreelId) (asid : BitVec 16) (va : Nat) : Option TlbEntry :=
  (creelOf s k).tlb.find? fun e => decide (e.asid = asid ∧ e.vpage = va / pageBytes e.size)

/-- The entry's last use noted, for replacement (R55). -/
def tlbTouch (s : State) (k : CreelId) (e : TlbEntry) : State :=
  modCreel s k fun c => { c with tlb := c.tlb.map fun x => if x = e then { x with stamp := s.cyc } else x }

/-! ## Scopes (R226) -/

/-- The team rectangle of a thread: its tile, when it belongs to a team. -/
def teamRect (s : State) (th : Thread) : Option TeamSt :=
  match th.key with
  | some k => s.teams.find k
  | none => none

/-- Does a rectangle hold this creel? -/
def inRect (r : TeamSt) (k : CreelId) : Bool :=
  decide (r.x ≤ k.x ∧ k.x < r.x + r.w ∧ r.y ≤ k.y ∧ k.y < r.y + r.h)

/-- The creels that are there in a range of columns and rows. -/
def creelsIn (s : State) (x y w h : Nat) : List CreelId :=
  ((List.range h).flatMap fun j => (List.range w).map fun i => (⟨x + i, y + j⟩ : CreelId)).filter (creelThere s)

/-- Does a rectangle hold at least one creel of a die? -/
def rectOnDie (r : TeamSt) (d : Nat) : Bool :=
  let x0 := 32 * (d % 4)
  let y0 := 32 * (d / 4)
  decide (r.x < x0 + 32 ∧ x0 < r.x + r.w ∧ r.y < y0 + 32 ∧ y0 < r.y + r.h)

/-- R226. Does a home lie within the domain that a scope gives for a thread? -/
def inDomain (s : State) (t : ThreadId) (th : Thread) (scope : Nat) (h : Home) : Bool :=
  let c := t.core
  let die := c.die
  let onDie : Bool := match h with
    | .store o => decide (o.die = die)
    | .scratch k => decide (k.die = die)
    | .control d _ _ => decide (d = die)
    | .device d => decide (d = die)
  match scope with
  | 0 => decide (h = .store c)
  | 1 =>
    if c.isLengthsman then decide (h = .store c)
    else (match h with
      | .store o => decide (o.creel = c.creel)
      | .scratch k => decide (k = c.creel)
      | _ => false)
  | 2 =>
    if stSup th.status then onDie
    else match teamRect s th with
      | none => (match h with
          | .store o => decide (o.creel = c.creel)
          | .scratch k => decide (k = c.creel)
          | _ => false)
      | some r => (match h with
          | .store o => if o.isLengthsman then rectOnDie r o.die else inRect r o.creel
          | .scratch k => inRect r k
          | .control d _ _ => rectOnDie r d
          | .device d => rectOnDie r d)
  | 3 => onDie
  | _ => true

/-- Is a creel halted (R145, R147)? -/
def isHalted (s : State) (k : CreelId) : Bool :=
  match (creelOf s k).halt with
  | none => false
  | some h => match h.resume with
    | none => true
    | some r => decide (s.cyc < r)

/-! ## Watchpoints (R150) -/

/-- A register of a creel's debug block; TRC_CTL resets to LOG2N 8 (R143). -/
def dbgReg (s : State) (k : CreelId) (off : Nat) : Word :=
  (creelOf s k).dbg.get off (if off = 0x78 then 0x10#64 else 0)

/-- Do the common fields of a breakpoint or watchpoint control word select this thread (R149, R150)? -/
def dbgSelects (ctl : Word) (t : ThreadId) (asid : BitVec 16) : Bool :=
  ctl.getLsbD 25 && (ctl.getLsbD 26 || decide (ctl.extractLsb' 48 16 = asid)) &&
    ctl.getLsbD (16 + t.core.node) && ctl.getLsbD t.slot && decide (t.core.node < 7)

/-- R150. Does watchpoint j of the thread's creel match an access of n bytes at va? One that would halt a halted creel is a
trigger that is ignored (R145). -/
def watchMatches (s : State) (t : ThreadId) (th : Thread) (j va n : Nat) (r w : Bool) : Bool :=
  let k := t.core.creel
  let ctl := dbgReg s k (0x68 + 8 * j)
  let len := 2 ^ (min 40 (ctl.extractLsb' 40 6).toNat)
  let base := (dbgReg s k (0x58 + 8 * j)).toNat % 2 ^ 57 / len * len
  (dbgReg s k 0).getLsbD 0 && dbgSelects ctl t th.asid && !(ctl.getLsbD 24 && isHalted s k) && ((r && ctl.getLsbD 30) || (w && ctl.getLsbD 29)) &&
    decide (va < base + len ∧ base < va + n)

/-- The first matching watchpoint. -/
def watchHit (s : State) (t : ThreadId) (th : Thread) (va n : Nat) (r w : Bool) : Option Nat :=
  if th.skipWatch then none
  else if watchMatches s t th 0 va n r w then some 0
  else if watchMatches s t th 1 va n r w then some 1
  else none

/-! ## The path of an access (R309, R310) -/

/-- What an access needs: permissions (R54), and how watchpoints see it (R150). -/
structure Need where
  rd : Bool
  wr : Bool
  watchR : Bool
  watchW : Bool
  ex : Bool
  deriving DecidableEq, Repr

/-- A load. -/
def needLoad : Need := ⟨true, false, true, false, false⟩
/-- A store. -/
def needStore : Need := ⟨false, true, false, true, false⟩
/-- An atomic. -/
def needAtomic : Need := ⟨true, true, true, true, false⟩
/-- An instruction fetch: no watchpoint sees it (R150). -/
def needFetch : Need := ⟨false, false, false, false, true⟩

/-- R54, R150. What a full/empty or barrier operation needs of its page: LDFF, FEPEEK and BWAIT read, STFF and FESET write, the
others do both. A watchpoint of reads sees them all; one of writes the fills, STEF and STFF, and BARRIVE's write. -/
def feNeed (m : Nat) : Need :=
  ⟨decide (m ≠ 3 ∧ m ≠ 4), decide (m ≠ 1 ∧ m ≠ 5 ∧ m ≠ 7), true, decide (m = 2 ∨ m = 3 ∨ m = 6), false⟩

/-- The path an access takes, or what stops it. -/
inductive Path where
  /-- The self window: performed in the issue cycle at this physical address. -/
  | self (pa : Nat)
  /-- A memory request to this home, translated through this leaf. -/
  | remote (pa : Nat) (home : Home) (leaf : Word)
  /-- No cached translation: a walk is needed (R56). -/
  | walk
  | trap (t : Trap)
  /-- A watchpoint that halts the creel (R145, R150). -/
  | halt (j : Nat)
  deriving DecidableEq, Repr

/-- The leaf by which the firmware's address space, ASID 0 on the lengthsman cores, maps HBM4: valid, read, write and
execute, supervisor only, scope device, tier 1 (file 19). -/
def firmwareLeaf : Word := 0x31F#64

/-- Is this the firmware's address space? -/
def inFirmware (t : ThreadId) (th : Thread) : Bool := t.core.isLengthsman && decide (th.asid = 0)

/-- R54, R48. Does a leaf deny an access of a thread? Device register space is reached only through supervisor pages: a page
with U set that maps it denies every access, as a permission failure (DESIGN CHOICE of the cause, log 78). -/
def leafDenies (th : Thread) (need : Need) (leaf : Word) (pa : Nat) : Bool :=
  (need.rd && !pteRd leaf) || (need.wr && !pteW leaf) || (need.ex && !pteX leaf) || (!stSup th.status && !pteU leaf) ||
    (pteU leaf && decide (2 ^ 45 ≤ pa ∧ pa < 2 ^ 45 + 2 ^ 40))

/-- Permission and scope of an access through a leaf. -/
def throughLeaf (s : State) (t : ThreadId) (th : Thread) (va : Nat) (need : Need) (leaf : Word) (pa : Nat) : Path :=
  if leafDenies th need leaf pa then .trap (trapTranslation 8 va)
  else match homeOf s pa with
    | none => .trap (trapTranslation 7 va)
    | some h => if inDomain s t th (pteScope leaf) h then .remote pa h leaf else .trap (trapScope va)

/-- Translation, permission and scope of an address outside the self window, from the translation cache. -/
def translate (s : State) (t : ThreadId) (th : Thread) (va : Nat) (need : Need) : Path :=
  if inFirmware t th then
    match homeOf s va with
    | some (.control _ false _) => throughLeaf s t th va need firmwareLeaf va
    | _ => .trap (trapTranslation 1 va)
  else match tlbFind s t.core.creel th.asid va with
    | none => .walk
    | some e => throughLeaf s t th va need e.leaf (pteFrame e.leaf + va % pageBytes e.size)

/-- R309. The checks of an access of n bytes at an effective address, aligned to `al`, in their order: range, watch,
alignment, translation and permission, scope. -/
def access (s : State) (t : ThreadId) (ea : Word) (n al : Nat) (need : Need) : Path :=
  let th := threadOf s t
  let va := ea.toNat
  if 2 ^ 57 ≤ va then .trap (trapTranslation 1 va)
  else
    match watchHit s t th va n need.watchR need.watchW with
    | some j =>
      if (dbgReg s t.core.creel (0x68 + 8 * j)).getLsbD 24 then .halt j
      else .trap ⟨11, BitVec.ofNat 64 va⟩
    | none =>
      if va % al ≠ 0 then .trap (trapAlign va)
      else if selfBase ≤ va then
        match selfPa s t.core (va - selfBase) n with
        | some pa => .self pa
        | none => .trap (trapTranslation 7 va)
      else translate s t th va need

/-! ## Mesh times (R34, R35) -/

/-- Cycles along one axis: one a hop, four across a shared die edge. -/
def axisCycles (a b : Nat) : Nat := (max a b - min a b) + 3 * (max (a / 32) (b / 32) - min (a / 32) (b / 32))

/-- R34. The latency of a head flit between two routers' nodes: injection, hops, ejection. -/
def meshCycles (x0 y0 x1 y1 : Nat) : Nat := 2 + axisCycles x0 x1 + axisCycles y0 y1

/-- R35. The router of a home, for a party in column x. A die's register space is entered at its die-local router (0, 0), where its
control region stands (DESIGN CHOICE, log 81: the spec names no router for it). -/
def homeRouter (h : Home) (x : Nat) : Nat × Nat :=
  match h with
  | .store c => (c.x, c.y)
  | .scratch k => (k.x, k.y)
  | .control d _ north => (32 * (d % 4) + x % 32, 32 * (d / 4) + (if north then 31 else 0))
  | .device d => (32 * (d % 4), 32 * (d / 4 % 2))

/-- The mesh time between a core and a home, one way. -/
def homeCycles (c : CoreId) (h : Home) : Nat :=
  let (x, y) := homeRouter h c.x
  meshCycles c.x c.y x y

/-- The access time of a home: one cycle for on-chip SRAM; a free time for DRAM (R56, DESIGN CHOICE, log 6), drawn with a counter. -/
def homeTime (h : Home) (free : Nat) : Nat :=
  match h with
  | .control _ _ _ => 1 + Config.delay free
  | _ => 1

end Sys2Proof.Machine
end

