-- ==== Sys2Proof/Machine/Banks.lean ====
section
/-! DEFINITION. Banks (R124, R125): which physical bank holds a position, requests to retire a bank (R126), and errors that a
read meets (R47, R142). -/

namespace Sys2Proof.Machine

/-! ## The bank map (R124, R125) -/

/-- Working banks of a core's local store, in increasing order. -/
def lsWorking (k : CapCore) : List Nat := (List.range 3).filter fun i => !k.ret.getLsbD (16 + i)
/-- Working banks of a core's register file. -/
def rgWorking (k : CapCore) : List Nat := (List.range 16).filter fun i => !k.ret.getLsbD i

/-- The slot, 64 * index + bank, that holds word w of a creel's scratchpad. -/
def scratchSlot (c : CreelSt) (w : Nat) : Nat := c.spMap.get w w

/-- The bank of a store that holds a physical address; a lengthsman core's local store has no bank registers. -/
def bankOf (s : State) (h : Home) (pa : Nat) : Option (CreelId × BankReq) :=
  match h with
  | .scratch k => some (k, ⟨1, 0, scratchSlot (creelOf s k) (pa % 0x80000 / 8) % 64, true⟩)
  | .store c =>
    if c.isLengthsman then none
    else
      let g := lsWorking (capOf s c)
      some (c.creel, ⟨2, c.node, g.getD (pa % 0x10000 / 8 % max 1 g.length) 0, true⟩)
  | _ => none

/-- The bank of a register entry. -/
def entryBank (s : State) (c : CoreId) (e : Nat) : BankReq := ⟨3, c.node, (rgWorking (capOf s c)).getD (e / 128) 0, true⟩

/-! ## Requests (R126) -/

/-- Does a request name a store, core and bank that exist? -/
def bankValid (r : BankReq) : Bool :=
  match r.store with
  | 1 => decide (r.bank < 64)
  | 2 => decide (r.core ≤ 6 ∧ r.bank < 3)
  | 3 => decide (r.core ≤ 6 ∧ r.bank < 16)
  | 4 => decide (r.core ≤ 6 ∧ r.bank < 4)
  | _ => false

/-- The bit of BANK_RET of a core's bank. -/
def bankBit (r : BankReq) : Nat := if r.store = 2 then 16 + r.bank else if r.store = 4 then 20 + r.bank else r.bank

/-- Is a bank retired? -/
def bankRetired (c : CreelSt) (r : BankReq) : Bool :=
  if r.store = 1 then c.spRet.getLsbD r.bank else (c.capCore.get r.core CapCore.initial).ret.getLsbD (bankBit r)

/-- Do two requests name one bank? -/
def sameBank (a b : BankReq) : Bool := decide (a.store = b.store ∧ a.bank = b.bank ∧ (a.store = 1 ∨ a.core = b.core))

/-- Is a bank queued, or in work? -/
def bankQueued (c : CreelSt) (r : BankReq) : Bool :=
  c.sluiceQ.any (sameBank r) || (match c.sluice with
    | some u => sameBank r u.req
    | none => false)

/-- R21. Are requests held: during entry to MOORED, in MOORED, and until the resumption is over? -/
def mooringHolds (s : State) : Bool :=
  decide (s.power.state = .moored ∨ s.power.trans = .mooring ∨ s.power.trans = .resuming)

/-- R127. The engine of a creel takes its next request in the next cycle, if it is idle. -/
def kickSluice (s : State) (k : CreelId) : State :=
  let due := s.agenda.any fun d => match d.act with
    | .event (.sluiceStart c) => decide (c = k)
    | _ => false
  if due || mooringHolds s || (creelOf s k).sluice.isSome || (creelOf s k).sluiceQ.isEmpty then s
  else s.after 1 (.event (.sluiceStart k))

/-- R126. A request to retire a bank, with its result as LAST gives it: an error's goes to the head of the queue. -/
def requestBank (s : State) (k : CreelId) (r : BankReq) : State × Nat :=
  if !creelThere s k || !bankValid r then (s, 1)
  else if bankRetired (creelOf s k) r || bankQueued (creelOf s k) r then (s, 2)
  else
    let s := modCreel s k fun c => { c with sluiceQ := if r.forError then r :: c.sluiceQ else c.sluiceQ ++ [r] }
    (kickSluice s k, if mooringHolds s then 3 else 0)

/-- What waits in a sluice is looked at again: its teams may have left, its static regions ended (R127). -/
def sluiceWake (s : State) (k : CreelId) : State :=
  match (creelOf s k).sluice with
  | some u =>
    if u.phase = 2 then s.at s.cyc (.event (.sluiceWaitfitDone k))
    else if u.phase = 3 ∨ u.phase = 4 then s.at s.cyc (.event (.sluicePinDone k))
    else s
  | none => s

/-! ## Errors that are met (R47, R138, R142) -/

/-- The offset of the BCE register of a bank, and the place of its count (R122). -/
def bcePlace (r : BankReq) : Nat × Nat :=
  if r.store = 1 then (0x100 + 8 * (r.bank / 4), 16 * (r.bank % 4))
  else
    let n := if r.store = 2 then 16 + r.bank else if r.store = 4 then 19 + r.bank else r.bank
    (0x180 + 0x30 * r.core + 8 * (n / 4), 16 * (n % 4))

/-- R126, R142. A corrected error of a bank: its count goes up, saturating, and a bank whose count exceeds THRESH is to be
retired. -/
def correctedAt (s : State) (k : CreelId) (r : BankReq) : State :=
  let (off, lo) := bcePlace r
  let w := (creelOf s k).bce.get off 0
  let n := min 0xFFFF ((w.extractLsb' lo 16).toNat + 1)
  let w := (w &&& ~~~(0xFFFF#64 <<< lo)) ||| (BitVec.ofNat 64 n <<< lo)
  let s := modCreel s k fun c => { c with bce := c.bce.put off w }
  let t := (creelOf s k).thresh.toNat
  if t ≠ 0 ∧ t < n then (requestBank s k { r with forError := false }).1 else s

/-- R142. A corrected error of the check unit at an address is counted. -/
def corrected (s : State) (pa : Nat) : State :=
  match homeOf s pa with
  | some (.control d cap _) => count s d (if cap then 5 else 4)
  | some h =>
    (match bankOf s h pa with
    | some (k, r) => correctedAt (count s k.die 7) k r
    | none => (match h with
      | .store c => count s c.die 7
      | _ => s))
  | none => s

/-- R126, R142. An uncorrectable error of the check unit at an address is counted, and its bank is to be retired. -/
def uncorrectable (s : State) (pa : Nat) : State :=
  match homeOf s pa with
  | some (.control d _ _) => count s d 6
  | some h =>
    (match bankOf s h pa with
    | some (k, r) => (requestBank (count s k.die 8) k r).1
    | none => (match h with
      | .store c => count s c.die 8
      | _ => s))
  | none => s

/-- R142. A read of n bytes from pa: each check unit it meets in uncorrectable error is counted. -/
def noteRead (s : State) (pa n : Nat) : State :=
  if s.err.isEmpty || decide (n = 0) then s
  else
    let u := unitLen pa
    let first := pa / u
    (List.range ((pa + n - 1) / u + 1 - first)).foldl (fun s i =>
      let a := u * (first + i)
      if unitState s a = 2 then uncorrectable s a else s) s

end Sys2Proof.Machine
end

