-- ==== Sys2Proof/Machine/Net.lean ====
section
/-! DEFINITION. Messages on the mesh and what every use of an endpoint shares: addresses (R196), sending (R33, R34,
R198), flights and their states (R187 to R189), waking parked threads (R162), closing and freeing endpoints (R185,
R216, R217). -/

namespace Sys2Proof.Machine

/-! ## Addresses (R196) -/

/-- MOD_SELF (R196). -/
def modSelf (s : State) : BitVec 8 := (s.dieRegs.get (0, 0x52000) 0).extractLsb' 0 8

/-- The address of endpoint n of a core. -/
def epAddr (s : State) (c : CoreId) (n : Nat) : BitVec 32 :=
  modSelf s ++ BitVec.ofNat 3 c.die ++ BitVec.ofNat 5 c.x ++ BitVec.ofNat 5 c.y ++ BitVec.ofNat 4 c.node
    ++ BitVec.ofNat 6 n ++ 0#1

/-- MOD of an address. -/
def addrMod (a : BitVec 32) : BitVec 8 := a.extractLsb' 24 8
/-- The die of an address. -/
def addrDie (a : BitVec 32) : Nat := (a.extractLsb' 21 3).toNat
/-- The node code of an address. -/
def addrNode (a : BitVec 32) : Nat := (a.extractLsb' 7 4).toNat
/-- The endpoint of an address. -/
def addrEp (a : BitVec 32) : Nat := (a.extractLsb' 1 6).toNat
/-- NIS of an address. -/
def addrNis (a : BitVec 32) : Bool := a.getLsbD 0
/-- The die-local y of an address. -/
def addrLocalY (a : BitVec 32) : Nat := (a.extractLsb' 11 5).toNat
/-- The core, or other node, an address names; controllers and the host keep the address's die and y. -/
def addrCore (a : BitVec 32) : CoreId :=
  let d := addrDie a
  let n := addrNode a
  let x := (a.extractLsb' 16 5).toNat
  if 8 ≤ n && n ≤ 11 then ⟨32 * (d % 4), 32 * (d / 4), n⟩
  else if n = 12 || n = 13 then ⟨32 * (d % 4), 32 * (d / 4) + addrLocalY a, n⟩
  else ⟨32 * (d % 4) + x, 32 * (d / 4) + addrLocalY a, n⟩

/-- R35, R196. Does no node of the module bear this address? -/
def addrReserved (a : BitVec 32) : Bool :=
  let n := addrNode a
  decide (n = 7 ∨ n = 15) || (decide (n = 12 ∨ n = 13) && decide (addrLocalY a ≠ 0 ∧ addrLocalY a ≠ 31))

/-- The port byte of a fleet-table entry: 0xFF for an unreachable module (R196). -/
def fleetPort (s : State) (m : BitVec 8) : BitVec 8 :=
  (s.dieRegs.get (0, 0x50000 + 32 * m.toNat) 0xFF).extractLsb' 0 8

/-- R196. Can a module's number be reached through the fleet table? -/
def fleetReach (s : State) (m : BitVec 8) : Bool := decide ((fleetPort s m).toNat < 16)

/-- R35. The node of a die's Ethernet port. -/
def portCore (port : Nat) : CoreId :=
  ⟨32 * (port / 2 % 4) + 31, 32 * (port / 2 / 4) + (if port % 2 = 1 then 31 else 0), 14⟩

/-- The node of this module at which an address is met: another module's is met at the port the fleet table names (R196). -/
def nodeOf (s : State) (a : BitVec 32) : CoreId :=
  if addrMod a = modSelf s then addrCore a else portCore ((fleetPort s (addrMod a)).toNat % 16)

/-- R33. Does the route from one router to another cross an edge? -/
def routeCrosses (e : Nat) (a b : Nat × Nat) : Bool :=
  if e < 6 then decide (a.2 / 32 = e / 3 ∧ min (a.1 / 32) (b.1 / 32) ≤ e % 3 ∧ e % 3 < max (a.1 / 32) (b.1 / 32))
  else decide (b.1 / 32 = e - 6 ∧ a.2 / 32 ≠ b.2 / 32)

/-- R38. The link of an edge that a route over it takes: the row, or the column, in which it crosses. -/
def routeLink (e : Nat) (a b : Nat × Nat) : Nat := if e < 6 then a.2 % 32 else b.1 % 32

/-- R34. Cycles from one node to another for a message of n flits: to its tail. A controller is met, and leaves, in
the other party's column (R35). -/
def msgCycles (src dst : CoreId) (flits : Nat) : Nat :=
  let x1 := if dst.node = 12 || dst.node = 13 then 32 * (dst.x / 32) + src.x % 32 else dst.x
  let x0 := if src.node = 12 || src.node = 13 then 32 * (src.x / 32) + dst.x % 32 else src.x
  meshCycles x0 src.y x1 dst.y + (flits - 1)

/-- R197. The flits of a payload. -/
def flitsOf (len : Nat) : Nat := if len ≤ 40 then 1 else 1 + (len - 40 + 63) / 64

/-! ## Well-formed messages (R197, R212) -/

/-- R212. The payload of a Delegate message has its subtype's length, and its zero bytes are zero. -/
def delegateOk (p : List Byte) : Bool :=
  match fieldAt p 0 1 with
  | 1 => decide (p.length = 40 ∧ fieldAt p 5 3 = 0 ∧ fieldAt p 36 4 = 0)
  | 2 => decide (p.length = 8 ∧ fieldAt p 1 3 = 0)
  | 3 => decide (p.length = 12 ∧ fieldAt p 1 3 = 0)
  | 4 => decide (p.length = 8 ∧ fieldAt p 1 3 = 0)
  | 5 => decide (p.length = 8 ∧ fieldAt p 1 3 = 0)
  | _ => false

/-- R197, R212. Is a message well formed? -/
def msgOk (m : Msg) : Bool :=
  decide (m.plen < 8192 ∧ m.plen ≤ 4136 ∧ m.payload.length = m.plen ∧ m.nflit = flitsOf m.plen) &&
    decide (m.lfmt.toNat % 16 < 8) && !m.lfmt.getLsbD 7 && decide (m.mtype ≠ 0xFF) &&
    (decide (m.mtype ≠ 0xF8) || delegateOk m.payload)

/-! ## The order of a route (R33) -/

/-- A memory request that an agenda entry brings to its home. -/
def requestIn : Act → Option MemReq
  | .event (.memLoad q) => some q
  | .event (.memStore q) => some q
  | .event (.memAtomic q) => some q
  | .event (.memFullEmpty q) => some q
  | .event (.memSubByteStore q) => some q
  | .event (.memDestAdd q) => some q
  | .event (.memDestMin q) => some q
  | .event (.memDestMax q) => some q
  | _ => none

/-- The node a home is reached at, as addresses name it; a device space has no node code and takes 15. -/
def homeNode (h : Home) : CoreId :=
  match h with
  | .store c => c
  | .scratch k => ⟨k.x, k.y, 2⟩
  | .control d cap north => ⟨32 * (d % 4), 32 * (d / 4) + (if north then 31 else 0), if cap then 13 else 12⟩
  | .device d => ⟨32 * (d % 4), 32 * (d / 4 % 2), 15⟩

/-- The node of a requester within the module; what a creel itself sends has no node code and takes 7. -/
def requesterNode (w : Requester) : Option CoreId :=
  match w with
  | .slot t => some t.core
  | .fetch t _ => some t.core
  | .engine c _ _ => some ⟨c.x, c.y, 7⟩
  | .gate c _ _ _ => some ⟨c.x, c.y, 7⟩
  | .remote _ => none

/-- A route: the nodes it joins, and whether it lies on the reply plane. -/
abbrev Lane := CoreId × CoreId × Bool

/-- The route of a memory request, or of the reply to it. -/
def requestLane (s : State) (q : MemReq) (reply : Bool) : Option Lane :=
  match requesterNode q.who, homeOf s q.pa with
  | some c, some h => some (if reply then (homeNode h, c, true) else (c, homeNode h, false))
  | _, _ => none

/-- The route of a message. -/
def msgLane (s : State) (m : Msg) : Lane := (nodeOf s m.src, nodeOf s m.dst, m.reply)

/-- R34, R207. Flits of a memory request, and of its reply. -/
def requestFlits (q : MemReq) : Nat := flitsOf (16 + q.data.length)
/-- The same of the reply: its status and data. -/
def replyFlits (data : List Byte) : Nat := flitsOf (1 + data.length)

/-- The route that an agenda entry is on, and its flits. -/
def laneOf (s : State) (a : Act) : Option (Lane × Nat) :=
  match a with
  | .arrive m => some (msgLane s m, m.nflit)
  | .event (.memoryReply r) => (requestLane s r.req true).map fun l => (l, replyFlits r.data)
  | _ => (requestIn a).bind fun q => (requestLane s q false).map fun l => (l, requestFlits q)

/-- The cycle at which the last of what stands on a route ahead of a head that arrives at `head` is delivered, so that the
later one does not overtake it (R33). -/
def lastArrival (s : State) (l : Option Lane) (head : Nat) : Nat :=
  match l with
  | none => 0
  | some l => s.agenda.foldl (fun m d => match laneOf s d.act with
    | some (k, n) => if k = l ∧ d.at_ ≤ head + (n - 1) then max m d.at_ else m
    | none => m) 0

/-- The routers at the ends of a route (R35). -/
def laneEnds (l : Lane) : (Nat × Nat) × (Nat × Nat) :=
  let (a, b, _) := l
  let at_ (c o : CoreId) : Nat × Nat := if c.node = 12 || c.node = 13 then (32 * (c.x / 32) + o.x % 32, c.y) else (c.x, c.y)
  (at_ a b, at_ b a)

/-- R38. Is an agenda entry held: does its route take a link that is being retrained? -/
def linkHeld (s : State) (a : Act) : Bool :=
  if s.edges.all fun x => x.2.training.isEmpty then false
  else match laneOf s a with
  | none => false
  | some (l, _) =>
    let (p, q) := laneEnds l
    s.edges.any fun (e, st) =>
      routeCrosses e p q && st.training.contains (st.carriers.get (routeLink e p q) (routeLink e p q))

/-- R139. Is something that a node sends discarded at a fenced boundary? The closed notices and the negative
acknowledgements of a fence are the boundary routers' own. -/
def stopsAtFence (s : State) (l : Option Lane) (a : Act) : Bool :=
  match l with
  | none => false
  | some (src, _, _) => decide (src.node ≤ 7) && fencedAt s src.creel && (match a with
    | .arrive m => decide (m.mtype ≠ 0xF9)
    | .event (.memoryReply r) => decide (r.status ≠ 4)
    | _ => true)

/-- R33, R34. Something of n flits put on a route: it is delivered when its tail has come, its head arriving after `head`
cycles, and never before what it follows; from a fenced rectangle it is discarded. -/
def State.onLane (s : State) (l : Option Lane) (head n : Nat) (a : Act) : State :=
  if stopsAtFence s l a then s
  else s.at (max (s.cyc + head + (n - 1)) (lastArrival s l (s.cyc + head))) a

/-- A message put on the mesh (R33, R34). -/
def State.route (s : State) (m : Msg) : State :=
  s.onLane (some (msgLane s m)) (msgCycles (nodeOf s m.src) (nodeOf s m.dst) 1) m.nflit (.arrive m)

/-- A message handed to the network interface (R33 to R35, R196): it is dropped for a reserved node code and counted, or goes
over the mesh to its endpoint, or to the port of its module; toward an unreachable module it is not sent. -/
def sendMsg (s : State) (m : Msg) : State :=
  if addrReserved m.dst then count s (addrCore m.src).die 0
  else if addrMod m.dst ≠ modSelf s ∧ fleetReach s (addrMod m.dst) = false then s
  else s.route m

/-- R89, R196. FLEETID of what endpoint n of a core sends to an address: bits [47:0] of the FLEET of its thread's launch when the
message leaves the module; zero for a supervisor thread. -/
def fleetOf (s : State) (c : CoreId) (n : Nat) (dst : BitVec 32) : BitVec 48 :=
  let th := threadOf s ⟨c, (epOf s c n).slot⟩
  if addrMod dst = modSelf s || stSup th.status then 0
  else match th.key.bind fun k => s.launches.find k.lslot with
    | some l => BitVec.ofNat 48 (fieldAt l.record 0x38 6)
    | none => 0

/-- A message without link format, from endpoint n of a core to an address. -/
def mkMsg (s : State) (c : CoreId) (n : Nat) (dst : BitVec 32) (ty : Byte) (seq : BitVec 32) (cret : Nat)
    (payload : List Byte) : Msg :=
  ⟨ty, flitsOf payload.length, false, payload.length, dst, epAddr s c n, seq, BitVec.ofNat 8 cret, 0, fleetOf s c n dst, payload⟩

/-! ## Flights (R187 to R189) -/

/-- The flight an endpoint of a core is bound to. -/
def flightOf (s : State) (c : CoreId) (n : Nat) : Flight := (creelOf s c.creel).flights.get n Flight.initial

/-- A state record of an image: its 16 bytes. -/
def stateRec (image : List Byte) (st : Nat) : List Byte :=
  (image.drop (32 + 16 * fieldAt image 8 1 + 16 * st)).take 16

/-- KIND: 1 SEND, 2 RECV, 3 OFFER, 4 SELECT, 5 LOOP, 6 END. -/
def recKind (r : List Byte) : Nat := fieldAt r 0 1 % 16
/-- NAME. -/
def recName (r : List Byte) : Byte := BitVec.ofNat 8 (fieldAt r 1 1)
/-- NB. -/
def recNb (r : List Byte) : Nat := fieldAt r 2 1
/-- SHAPED. -/
def recShaped (r : List Byte) : Bool := decide (fieldAt r 3 1 % 2 = 1)
/-- DEL. -/
def recDel (r : List Byte) : Bool := decide (fieldAt r 3 1 / 2 % 2 = 1)
/-- SHAPE. -/
def recShape (r : List Byte) : Nat := fieldAt r 4 1
/-- MAXFL. -/
def recMaxfl (r : List Byte) : Nat := fieldAt r 5 1
/-- The branches: label and next state. -/
def recBranches (r : List Byte) : List (Nat × Nat) :=
  (List.range (min 4 (recNb r))).map fun i => (fieldAt r (6 + 2 * i) 1, fieldAt r (7 + 2 * i) 1)
/-- A shape entry of an image: its 16 bytes (R188). -/
def shapeEntry (image : List Byte) (i : Nat) : List Byte := (image.drop (32 + 16 * i)).take 16

/-- A state passed along LOOPs (R189). -/
def passLoops (image : List Byte) : Nat → Nat → Nat
  | 0, st => st
  | fuel + 1, st =>
    let r := stateRec image st
    if recKind r = 5 then passLoops image fuel (fieldAt r 7 1) else st

/-- The next state along the branch of a label. -/
def nextState (image : List Byte) (st label : Nat) : Option Nat :=
  match (recBranches (stateRec image st)).find? fun b => b.1 = label with
  | some b => some (passLoops image 256 b.2)
  | none => none

/-- Is this a send-kind state (R189)? -/
def sendKind (k : Nat) : Bool := decide (k = 1 ∨ k = 4)
/-- Is it receive-kind? -/
def recvKind (k : Nat) : Bool := decide (k = 2 ∨ k = 3)

/-- The record of an endpoint's current state. -/
def epRec (s : State) (c : CoreId) (n : Nat) : List Byte :=
  stateRec (flightOf s c (epOf s c n).flight).image (epOf s c n).state

/-! ## Waking (R162) -/

/-- Threads of a core whose wait satisfies a test are taken up again at the end of this cycle. -/
def wakeWhere (s : State) (c : CoreId) (p : ThreadId → Wait → Bool) : State :=
  s.threads.foldl (fun s' (t, th) => if decide (t.core = c) && p t th.wait then s'.at s'.cyc (.redo t) else s') s

/-- Threads of a core parked on a condition are taken up again. -/
def wake (s : State) (c : CoreId) (p : Cond → Bool) : State :=
  wakeWhere s c fun _ w => match w with | .redo k => p k | _ => false

/-- A parked thread issues its instruction afresh in its next own slot (R162). -/
def reissue (s : State) (t : ThreadId) : State :=
  modThread s t fun th => { th with wait := .run, ready := nextOwn s.cyc t.slot }

/-- Is this a wait on endpoint n? -/
def condOn (n : Nat) : Cond → Bool
  | .credit e => decide (e = n)
  | .arrival e => decide (e = n)
  | .connected e => decide (e = n)
  | .accepted e => decide (e = n)
  | .redirected e => decide (e = n)
  | .freed e => decide (e = n)
  | _ => false

/-- Threads parked on an endpoint issue their instruction afresh. -/
def reissueOn (s : State) (c : CoreId) (n : Nat) : State :=
  s.threads.foldl (fun s' (t, th) =>
    match th.wait with
    | .redo k => if decide (t.core = c) && condOn n k then reissue s' t else s'
    | _ => s') s

/-! ## Closure (R216, R217) -/

/-- The payload of a closed notice (R217). -/
def noticePayload (name : Byte) (st cause : Nat) (sseq rseq : BitVec 32) : List Byte :=
  [name, BitVec.ofNat 8 st, BitVec.ofNat 8 cause, 0] ++ leBytes 4 sseq.toNat ++ leBytes 4 rseq.toNat

/-- Whom an endpoint's closed notice goes to: its peer, or the former holder of a delegation that is not finished
(R215). -/
def noticeTo (p : Endpoint) : BitVec 32 := if p.est = .delegin && !p.redirected then p.origin else p.peer

/-- R203, R217. The notice of an endpoint's closure, sent behind every earlier message, with the credit that is owed. -/
def sendNotice (s : State) (c : CoreId) (n : Nat) (name : Byte) (st cause : Nat) : State :=
  let p := epOf s c n
  modEp (sendMsg s (mkMsg s c n (noticeTo p) 0xF9 p.sseq p.cpend (noticePayload name st cause p.sseq p.rseq))) c n fun p =>
    { p with cpend := 0 }

/-- R185, R216. The conversation of a DELEGATED endpoint closes here: its status stays, and those who wait for its FWD_END wait no
longer; EPFREE releases its buffer. -/
def closeDelegated (s : State) (c : CoreId) (n cause : Nat) (name : Byte) : State :=
  let s := modEp s c n fun p => { p with
    ccause := cause, cname := name, fwdEnd := true }
  wakeWhere (count s c.die 82) c fun t w => match w with
    | .redo .ending => decide (t.slot = (epOf s c n).slot)
    | .redo k => decide (k = .freed n)
    | _ => false

/-- R216. Closure of an endpoint for a cause. `name` is the notice's name for cause 2; otherwise the name of the
current state. Only an open conversation has a peer to tell. -/
def closeEp (s : State) (c : CoreId) (n cause : Nat) (name : Option Byte) : State :=
  let p := epOf s c n
  match p.est with
  | .free => s
  | .bound => s
  | .closed => s
  | .delegated => if p.fwdEnd then s else closeDelegated s c n cause (recName (epRec s c n))
  | e =>
    let nm := name.getD (recName (epRec s c n))
    let tell := decide (e = .opened ∨ e = .delegin) && decide (cause ≠ 2 ∧ cause ≠ 4)
    let s := if tell then sendNotice s c n nm p.state cause else s
    let s := modEp s c n fun p => { p with est := .closed, ccause := cause, cname := nm, seen := false, tchg := s.cyc }
    reissueOn (count s c.die 82) c n

/-- A held Connect whose endpoint is freed is answered with Accept status 3 (R200). -/
def refuseHeld (s : State) (c : CoreId) (n : Nat) : State :=
  let mine := (coreOf s c).connects.filter fun m => addrEp m.dst = n
  let s := modCore s c fun k => { k with connects := k.connects.filter fun m => addrEp m.dst ≠ n }
  mine.foldl (fun s m =>
    count (sendMsg s (mkMsg s c n m.src 0xFB 0 0 ([3, 0, 0, 0] ++ List.replicate 20 0))) c.die 78) s

/-- R185. EPFREE of an endpoint that need not wait: closed first in status 2, 3, 4 or 6; then FREE, its buffer
released. -/
def freeEp (s : State) (c : CoreId) (n : Nat) : State :=
  let s := match (epOf s c n).est with
    | .connecting | .accepting | .opened | .delegin => closeEp s c n 1 none
    | _ => s
  let s := refuseHeld s c n
  -- the flag and handler companions go with the endpoint
  modEp s c n fun e => { Endpoint.initial with tchg := if e.est = .free then e.tchg else s.cyc }

/-! ## The message queue (R175) -/

/-- The slot an entry is for. -/
def MqEntry.slot (e : MqEntry) : Nat := (e.lo.extractLsb' 8 8).toNat

/-- An entry enters a core's queue, and the threads that wait for it wake. -/
def enterQueue (s : State) (c : CoreId) (e : MqEntry) : State :=
  wakeWhere (modCore s c fun k => { k with queue := k.queue ++ [e] }) c fun t w =>
    decide (t.slot = e.slot) && (match w with
      | .redo .queue => true
      | .redo (.event _) => true
      | _ => false)

/-- R175. An entry enters a core's queue, or waits at its source for room behind those that wait already. -/
def enqueueEntry (s : State) (c : CoreId) (e : MqEntry) : State :=
  if (coreOf s c).queue.length < 32 ∧ (coreOf s c).queueWait = [] then enterQueue s c e
  else modCore s c fun k => { k with queueWait := k.queueWait ++ [e] }

/-- Entries that waited for room enter in their order while there is room; the number bounds them. -/
def admitEntries (s : State) (c : CoreId) : Nat → State
  | 0 => s
  | fuel + 1 =>
    match (coreOf s c).queueWait with
    | [] => s
    | w :: r =>
      if (coreOf s c).queue.length < 32 then admitEntries (enterQueue (modCore s c fun k => { k with queueWait := r }) c w) c fuel
      else s

/-- Room has come about in a core's queue. -/
def admitWaiting (s : State) (c : CoreId) : State := admitEntries s c (coreOf s c).queueWait.length

/-- Endpoints a slot owns that are not FREE. -/
def ownedEps (s : State) (t : ThreadId) : List Nat :=
  (s.eps.filter fun e => decide (e.1.1 = t.core) && decide (e.2.slot = t.slot) && decide (e.2.est ≠ .free)).map
    fun e => e.1.2

/-- R277, R304, R341. Every endpoint of a slot freed; one still delegated is freed with its forwarding ended. -/
def freeOwned (s : State) (t : ThreadId) : State := (ownedEps s t).foldl (fun s n => freeEp s t.core n) s

end Sys2Proof.Machine
end

