-- ==== Sys2Proof/Machine/Record.lean ====
section
/-! DEFINITION. Launch records (R73, R74), work packets (R94, R95), the resident launch of a creel (R86), the scheduler
area and rings of a creel (R96). -/

namespace Sys2Proof.Machine

/-! ## Launch records (R73, R74) -/

/-- LEVELS of a record. -/
def lnLevels (r : List Byte) : Nat := fieldAt r 6 1
/-- PRIO. -/
def lnPrio (r : List Byte) : Nat := fieldAt r 7 1
/-- DEADLINE. -/
def lnDeadline (r : List Byte) : Nat := fieldAt r 0x10 8
/-- ASID. -/
def lnAsid (r : List Byte) : BitVec 16 := BitVec.ofNat 16 (fieldAt r 0x18 2)
/-- ROOT_PT. -/
def lnRoot (r : List Byte) : Word := BitVec.ofNat 64 (fieldAt r 0x20 8)
/-- SEED. -/
def lnSeed (r : List Byte) : Word := BitVec.ofNat 64 (fieldAt r 0x28 8)
/-- TAG. -/
def lnTag (r : List Byte) : List Byte := (r.drop 0x30).take 8
/-- FLEET. -/
def lnFleet (r : List Byte) : BitVec 64 := BitVec.ofNat 64 (fieldAt r 0x38 8)

/-- A footprint block: scratchpad, local store, register entries, instruction cache, slots. -/
structure Foot where
  sp : Nat
  ls : Nat
  reg : Nat
  ic : Nat
  slots : Nat
  deriving DecidableEq, Repr

/-- A footprint block at an offset. -/
def footAt (r : List Byte) (o : Nat) : Foot :=
  ⟨fieldAt r o 4, fieldAt r (o + 4) 2, fieldAt r (o + 6) 2, fieldAt r (o + 8) 2, fieldAt r (o + 10) 1⟩

/-- The offset of level i's entry. -/
def lvOff (i : Nat) : Nat := 64 + 128 * i
/-- DOMAIN of a level. -/
def lvDomain (r : List Byte) (i : Nat) : Nat := fieldAt r (lvOff i) 1
/-- SCOPE of a level. -/
def lvScope (r : List Byte) (i : Nat) : Nat := fieldAt r (lvOff i + 1) 1
/-- LFLAGS of a level. -/
def lvFlags (r : List Byte) (i : Nat) : BitVec 16 := BitVec.ofNat 16 (fieldAt r (lvOff i + 2) 2)
/-- RESTART. -/
def lvRestart (r : List Byte) (i : Nat) : Bool := (lvFlags r i).getLsbD 0
/-- STATIC. -/
def lvStatic (r : List Byte) (i : Nat) : Bool := (lvFlags r i).getLsbD 1
/-- PAIRED. -/
def lvPaired (r : List Byte) (i : Nat) : Bool := (lvFlags r i).getLsbD 2
/-- GRAPH. -/
def lvGraph (r : List Byte) (i : Nat) : Bool := (lvFlags r i).getLsbD 3
/-- TEAM_W. -/
def lvW (r : List Byte) (i : Nat) : Nat := fieldAt r (lvOff i + 4) 1
/-- TEAM_H. -/
def lvH (r : List Byte) (i : Nat) : Nat := fieldAt r (lvOff i + 5) 1
/-- VARIANTS. -/
def lvVariants (r : List Byte) (i : Nat) : Nat := fieldAt r (lvOff i + 6) 1
/-- NPKT. -/
def lvNpkt (r : List Byte) (i : Nat) : Nat := fieldAt r (lvOff i + 0x10) 4
/-- The footprint f of a level: 0 FOOT, 1 to 3 VAR[f - 1]. -/
def lvFoot (r : List Byte) (i f : Nat) : Foot := footAt r (lvOff i + (if f = 0 then 0x18 else 0x28 + 24 * (f - 1)))
/-- The PACKETS address that goes with footprint f. -/
def lvPackets (r : List Byte) (i f : Nat) : Nat :=
  fieldAt r (lvOff i + (if f = 0 then 8 else 0x28 + 24 * (f - 1) + 16)) 8

/-- R87. The rectangle of a level's teams: width and height. -/
def lvRect (r : List Byte) (i : Nat) : Nat × Nat :=
  match lvDomain r i with
  | 0 => (1, 1)
  | 1 => (1, 1)
  | 2 => (1, 1)
  | 3 => (lvW r i, lvH r i)
  | 4 => (32, 32)
  | _ => (128, 64)

/-- The rectangle that holds a level's tiles: its parent's, or the mesh. -/
def lvParent (r : List Byte) (i : Nat) : Nat × Nat := if i = 0 then (128, 64) else lvRect r (i - 1)

/-- R90. Tiles of a level in its parent: per row, and in all. -/
def lvPerRow (r : List Byte) (i : Nat) : Nat := (lvParent r i).1 / max 1 (lvRect r i).1
/-- R90. K. -/
def lvTiles (r : List Byte) (i : Nat) : Nat := lvPerRow r i * ((lvParent r i).2 / max 1 (lvRect r i).2)
/-- R90. The parent-relative position of tile j. -/
def tilePos (r : List Byte) (i j : Nat) : Nat × Nat :=
  ((lvRect r i).1 * (j % max 1 (lvPerRow r i)), (lvRect r i).2 * (j / max 1 (lvPerRow r i)))

/-- The team that is the parent of a team (R90). -/
def parentKey (r : List Byte) (k : TeamKey) : Option TeamKey :=
  if k.level = 0 then none else some ⟨k.lslot, k.level - 1, k.num / max 1 (lvTiles r k.level)⟩

/-- Is team p the team k or an ancestor of it? -/
def isUnder (r : List Byte) (p : TeamKey) : Nat → TeamKey → Bool
  | 0, k => decide (k = p)
  | fuel + 1, k => decide (k = p) || (match parentKey r k with
    | some q => isUnder r p fuel q
    | none => false)

/-- The record of the launch in a launch slot. -/
def recordOf (s : State) (lslot : Nat) : List Byte := ((s.launches.find lslot).map (·.record)).getD []

/-- The teams of a launch at or below a team. -/
def descendants (s : State) (k : TeamKey) : List TeamKey :=
  (s.teams.filter fun (q, _) => decide (q.lslot = k.lslot) && isUnder (recordOf s k.lslot) k 8 q).map (·.1)

/-- Does a team occupy its rectangle? -/
def resident (t : TeamSt) : Bool := match t.phase with
  | .placed => true
  | .leaving _ => true
  | .fenced => true
  | .moored => true
  | _ => false

/-- The teams on a creel, innermost first (R104). -/
def teamsAt (s : State) (c : CreelId) : List (TeamKey × TeamSt) :=
  let here := s.teams.filter fun (_, t) => resident t && inRect t c
  (List.range 8).reverse.flatMap fun l => here.filter fun (k, _) => decide (k.level = l)

/-- R86. The launch slot resident on a creel. -/
def residentLaunch (s : State) (c : CreelId) : Option Nat := (teamsAt s c).head?.map (·.1.lslot)

/-- R94. FOOT or the variant in force for a team. -/
def teamFoot (s : State) (k : TeamKey) : Foot :=
  lvFoot (recordOf s k.lslot) k.level ((s.teams.find k).map (·.foot) |>.getD 0)

/-! ## The scheduler area (R96) -/

/-- S: the largest SP of a launch's levels and variants. -/
def largestSp (r : List Byte) : Nat :=
  ((List.range (lnLevels r)).flatMap fun i => (List.range (1 + min 3 (lvVariants r i))).map fun f =>
    (lvFoot r i f).sp).foldl max 0

/-- k of R96. -/
def areaLog (r : List Byte) : Nat :=
  let sp := largestSp r
  if 18432 ≤ sp then 6 else if 9216 ≤ sp then 5 else 4

/-- LOG2N of a creel's rings: none while no launch is resident. -/
def ringLog (s : State) (c : CreelId) : Nat :=
  match residentLaunch s c with
  | some l => areaLog (recordOf s l)
  | none => 0

/-- Units of a creel's rings. -/
def ringLen (s : State) (c : CreelId) : Nat := if ringLog s c = 0 then 0 else 2 ^ ringLog s c

/-- The physical address of unit n of ring p. -/
def unitAddr (s : State) (c : CreelId) (p n : Nat) : Nat :=
  windowBase c + p * 64 * ringLen s c + 64 * n

/-- The physical address of the stamp of unit n of ring p. -/
def stampAddr (s : State) (c : CreelId) (p n : Nat) : Nat :=
  windowBase c + 256 * ringLen s c + p * 8 * ringLen s c + 8 * n

/-- WR and RD of a ring. -/
def ringPtr (s : State) (c : CreelId) (p : Nat) : Nat × Nat := (creelOf s c).rings.get p (0, 0)

/-- WR and RD of a ring set. -/
def setRing (s : State) (c : CreelId) (p wr rd : Nat) : State :=
  modCreel s c fun k => { k with rings := k.rings.put p (wr, rd) }

/-! ## Work packets (R94, R95) -/

/-- KIND. -/
def pkKind (p : List Byte) : Nat := fieldAt p 0 1
/-- LEN_UNITS. -/
def pkLen (p : List Byte) : Nat := fieldAt p 1 1
/-- PFLAGS. -/
def pkFlags (p : List Byte) : Byte := BitVec.ofNat 8 (fieldAt p 2 1)
/-- REGS. -/
def pkRegs (p : List Byte) : Nat := fieldAt p 4 1
/-- LEVEL. -/
def pkLevel (p : List Byte) : Nat := fieldAt p 5 1
/-- DEADLINE. -/
def pkDeadline (p : List Byte) : Nat := fieldAt p 6 2
/-- TEAM. -/
def pkTeam (p : List Byte) : Nat := fieldAt p 8 2
/-- SEQ. -/
def pkSeq (p : List Byte) : Nat := fieldAt p 0xC 4
/-- ENTRY. -/
def pkEntry (p : List Byte) : Nat := fieldAt p 0x10 8
/-- ARG. -/
def pkArg (p : List Byte) : Nat := fieldAt p 0x18 8
/-- FMTP. -/
def pkFmt (p : List Byte) : Nat := fieldAt p 0x20 8
/-- SCLP. -/
def pkScl (p : List Byte) : Nat := fieldAt p 0x28 8
/-- GATE0 and GATE1. -/
def pkGate (p : List Byte) (g : Nat) : Nat := fieldAt p (0x30 + 8 * g) 8

/-- Is a register count valid (R94, R157)? -/
def regsValid (n : Nat) : Bool := decide (8 ≤ n ∧ n ≤ 128 ∧ n % 8 = 0)

/-- R95. Is unit 0 of a packet well formed, but for the ring's end? `levels` is LEVELS of its launch. -/
def packetOk (p : List Byte) (levels : Nat) : Bool :=
  decide (pkKind p = 1) && decide (1 ≤ pkLen p ∧ pkLen p ≤ 4) && regsValid (pkRegs p) &&
    decide (8 * pkLen p ≤ pkRegs p) && decide (pkLevel p < levels) && decide (pkTeam p < 8192) &&
    decide ((pkFlags p).toNat < 8) && decide (fieldAt p 3 1 = 0 ∧ fieldAt p 0xA 2 = 0) &&
    decide (pkEntry p % 4 = 0 ∧ pkGate p 0 % 8 = 0 ∧ pkGate p 1 % 8 = 0)

/-- R74, R94. Flag bit of a packet, or of its level. -/
def pkStatic (r p : List Byte) : Bool := (pkFlags p).getLsbD 0 || lvStatic r (pkLevel p)
/-- PAIRED. -/
def pkPaired (r p : List Byte) : Bool := (pkFlags p).getLsbD 1 || lvPaired r (pkLevel p)

/-! ## Status words (R108) -/

/-- R108. Two status words combined: OR above, a saturating sum below. -/
def joinWords (a b : BitVec 32) : BitVec 32 :=
  (a.extractLsb' 16 16 ||| b.extractLsb' 16 16) ++
    BitVec.ofNat 16 (min 0xFFFF ((a.extractLsb' 0 16).toNat + (b.extractLsb' 0 16).toNat))

end Sys2Proof.Machine
end

