-- ==== Sys2Proof/Machine/Trace.lean ====
section
/-! DEFINITION. The trace of a creel's debug module (R143, R151, R155): selection, staging and the ring in HBM4. -/

namespace Sys2Proof.Machine

/-- R151. Does TRC_SEL select a kind, core and slot, with EN of TRC_CTL set? -/
def traceOn (s : State) (k : CreelId) (kind node slot : Nat) : Bool :=
  let sel := dbgReg s k 0x88
  (dbgReg s k 0x78).getLsbD 0 && sel.getLsbD (32 + (kind - 1)) && sel.getLsbD (16 + node) && sel.getLsbD slot

/-- Records staged in a creel's module at this cycle: two drain in a cycle (R151). -/
def traceStaged (s : State) (k : CreelId) : Nat :=
  let c := creelOf s k
  c.staged - 2 * (s.cyc - c.stagedAt)

/-- R151, R155. A record of 32 bytes enters the ring, or is dropped and counted when the staging buffer or the ring is
full. Its bytes are in the ring at once; what the staging delays is not modelled (DESIGN CHOICE, log 31). -/
def traceWrite (s : State) (k : CreelId) (bs : List Byte) : State :=
  let ctl := dbgReg s k 0x78
  let ptr := dbgReg s k 0x80
  let wr := (ptr.extractLsb' 32 32).toNat
  let rd := (ptr.extractLsb' 0 32).toNat
  let n := 2 ^ (ctl.extractLsb' 1 5).toNat
  let held := traceStaged s k
  if 64 ≤ held ∨ n ≤ (wr + 2 ^ 32 - rd) % 2 ^ 32 then count s k.die 75
  else
    let pa := (ctl.extractLsb' 12 40).toNat * 4096 + 32 * (wr % n)
    let s := modCreel s k fun c => { c with
      staged := held + 1, stagedAt := s.cyc
      dbg := c.dbg.put 0x80 (BitVec.ofNat 32 (wr + 1) ++ BitVec.ofNat 32 rd) }
    match homeOf s pa with
    | some (.control ..) => writeBytes s pa bs false
    | _ => s

/-- R151. The records of a cycle enter the ring in increasing WHO. -/
def flushTraces (s : State) : State :=
  s.creels.foldl (fun s (k, c) =>
    if c.traces.isEmpty then s
    else (c.traces.foldl (fun l x => insertBy (·.1) x l) []).foldl (fun s x => traceWrite s k x.2)
      (modCreel s k fun c => { c with traces := [] })) s

/-- R151. A record of a kind for a slot of a core, with its payload of 16 bytes; it enters the ring with those of its cycle. -/
def traceRec (s : State) (t : ThreadId) (kind : Nat) (payload : List Byte) : State :=
  if traceOn s t.core.creel kind t.core.node t.slot then
    let who := 16 * t.core.node + t.slot
    let bytes := ([BitVec.ofNat 8 kind, BitVec.ofNat 8 (16 * t.core.node + t.slot), BitVec.ofNat 8 t.core.x, BitVec.ofNat 8 t.core.y]
        ++ leBytes 4 (threadOf s t).task.toNat ++ leBytes 8 s.cyc ++ payload)
    modCreel s t.core.creel fun c => { c with traces := c.traces ++ [(who, bytes)] }
  else s

/-- The payload of a taken branch: source and target. -/
def traceBranch (s : State) (target : BitVec 57) : State :=
  traceRec s s.cur 1 (leBytes 8 s.th.pc.toNat ++ leBytes 8 target.toNat)

/-- The payload of a dispatch or a retire: team, level, WHERE and the status word. -/
def traceTask (s : State) (t : ThreadId) (kind wherE word : Nat) : State :=
  let th := threadOf s t
  traceRec s t kind (leBytes 2 th.team.toNat ++ leBytes 1 th.level.toNat ++ leBytes 1 wherE ++ leBytes 4 word ++ leBytes 8 0)

/-- A channel instruction of the current thread completes: endpoint, type, state before and after, sequence number. -/
def traceChannel (s : State) (n before : Nat) (ty : Byte) (seq : BitVec 32) : State :=
  traceRec s s.cur 3 (leBytes 1 n ++ [ty] ++ leBytes 1 before ++ leBytes 1 (epOf s s.cur.core n).state
    ++ leBytes 4 seq.toNat ++ leBytes 8 0)

end Sys2Proof.Machine
end

