-- ==== Sys2Proof/Machine/Ops.lean ====
section
/-! DEFINITION. What every instruction shares: the checks of an issue (R265, R274), completing (R160 to R162), taking a
precise trap and returning from one (R275 to R277), parking, and the end of a thread. -/

namespace Sys2Proof.Machine

/-! ## The program counter (R261, R262) -/

/-- The address of the slot a PC names. -/
def slotAddr (pc : BitVec 57) : BitVec 57 := pc &&& ~~~3#57

/-- The PC of the next slot. -/
def nextSlot (pc : BitVec 57) : BitVec 57 := slotAddr pc + 4#57

/-- The PC after the instruction at `pc`; `cp` says it is compact (R261). -/
def pcAfter (pc : BitVec 57) (cp : Bool) : BitVec 57 := if cp && !pc.getLsbD 1 then pc + 2#57 else nextSlot pc

/-- A branch target: slot address plus four times a signed displacement (R262). -/
def branchTo (pc : BitVec 57) (disp : Int) : BitVec 57 := slotAddr pc + BitVec.ofInt 57 (4 * disp)

/-! ## Completing (R160 to R162) -/

/-- Counter k (1 to 5) of a thread gains n (R307). -/
def perfAdd (th : Thread) (k n : Nat) : Thread :=
  { th with perf := th.perf.set (k - 1) (min (2 ^ 64 - 1) (th.perf.getD (k - 1) 0 + n)) }

/-- The instruction of the current thread completes with `pc` next, having taken `beats` beats: the next issue is in
the slot's own cycle after its last beat. -/
def goto (s : State) (pc : BitVec 57) (beats : Nat) : State :=
  s.mod fun th => perfAdd { th with
    pc := pc
    ready := nextOwn s.cyc s.cur.slot + 16 * (beats - 1)
    wait := .run
    req := none
    answer := none
    awaited := 0
    gathered := []
    parked := none
    going := false
    delay := 0
    finishing := false
    skipBreak := false
    skipWatch := false } 3 (beats - 1)

/-- A taken branch or jump: its trace record (R151), and the target next. -/
def jumpTo (s : State) (pc : BitVec 57) : State := goto (traceBranch s pc) pc 1

/-- One beat of an instruction of several is done: it goes on in the slot's next own cycle, `extra` cycles of the slot
later (R161, R167). -/
def nextBeat (s : State) (extra : Nat) : State :=
  s.mod fun th => perfAdd { th with
    ready := nextOwn s.cyc s.cur.slot + 16 * extra
    wait := .run
    delay := 0
    going := true } 3 (1 + extra)

/-- The instruction completes and the next in order follows. -/
def retire (s : State) (cp : Bool) (beats : Nat) : State := goto s (pcAfter s.th.pc cp) beats

/-- R161, R285. An instruction of n beats that writes at the end of the last: from its first beat it waits for that
one, in which `body` is performed. -/
def lastBeat (s : State) (n : Nat) (body : State → State) : State :=
  if s.th.going || decide (n ≤ 1) then body s else nextBeat s (n - 2)

/-- The thread parks before its instruction is performed. -/
def parkOn (s : State) (k : Cond) : State :=
  s.mod fun th => { th with wait := .redo k, parked := some (s.word, s.high, s.buffered) }

/-- The turn of the current thread has come to no issue (R154). -/
def State.unissued (s : State) : State :=
  { s with tried := s.tried.map fun x => if x.1 = s.cur then (x.1, false) else x }

/-- The instruction waits in its place and issues in the next own slot (R182); it counts once (R307). -/
def holdIssue (s : State) : State :=
  s.unissued.mod fun th => { th with
    wait := .run
    ready := nextOwn s.cyc s.cur.slot
    perf := if s.again then th.perf else th.perf.set 0 (th.perf.getD 0 0 - 1) }

/-! ## The end of a thread (R103, R277, R304) -/

/-- What a creel combines of a team (R109). -/
def doneOf (s : State) (c : CreelId) (k : TeamKey) : DoneSt :=
  ((creelOf s c).done.find? fun d => decide (d.key = k)).getD ⟨k, 0, 0, false⟩

/-- The same changed. -/
def modDone (s : State) (c : CreelId) (k : TeamKey) (f : DoneSt → DoneSt) : State :=
  let d := f (doneOf s c k)
  modCreel s c fun st => { st with done := (st.done.filter fun e => e.key ≠ k) ++ [d] }

/-- The task queue of a creel is examined in the next cycle, unless an examination is due already (R98). -/
def wakeQueue (s : State) (c : CreelId) : State :=
  let due := s.agenda.any fun d => match d.act with
    | .event (.queueExamination x) => decide (x = c)
    | _ => false
  if due || (teamsAt s c).isEmpty then s else s.after 1 (.event (.queueExamination c))

/-- R176. The vector-table entry of a message type. -/
def vecEntry (s : State) (c : CoreId) (mtype : Nat) : Word :=
  let vt := (coreOf s c).vtbase
  if vt.getLsbD 0 then
    match selfPa s c ((vt.extractLsb' 11 9).toNat * 2048 + 8 * mtype) 8 with
    | some pa => readWord s pa
    | none => 0
  else 0

/-- The physical address of unit i of an endpoint's receive buffer (R201). -/
def unitPa (s : State) (c : CoreId) (n i : Nat) : Nat :=
  (selfPa s c (((coreOf s c).chpool.extractLsb' 32 20).toNat + 64 * ((epOf s c n).bufoff + i)) 64).getD 0

/-- The first unit of the slot of the next message to be consumed (R202). -/
def nextUnit (s : State) (c : CoreId) (n : Nat) : Nat :=
  let e := epOf s c n
  e.rseq.toNat % max 1 e.lin * e.maxin

/-- R202. Is the next message there? -/
def msgReady (s : State) (c : CoreId) (n : Nat) : Bool :=
  let e := epOf s c n
  decide (0 < e.lin ∧ 0 < e.maxin) && isFull s (unitPa s c n (nextUnit s c n))

/-- PRIO of the vector entry of a service endpoint's next message (R176). -/
def waitingPrio (s : State) (c : CoreId) (n : Nat) : Nat :=
  ((vecEntry s c (cellGet s.mem (unitPa s c n (nextUnit s c n))).toNat).extractLsb' 59 2).toNat

/-- R176. The service endpoints of a core whose messages wait are tried: decreasing PRIO, then arrival order. -/
def retryHandlers (s : State) (c : CoreId) : State :=
  let w := (coreOf s c).svcWait
  ([3, 2, 1, 0].flatMap fun p => w.filter fun n => decide (waitingPrio s c n = p)).foldl
    (fun s n => s.after 1 (.event (.handlerStart c n))) s

/-- R335. Flights of a store that nothing keeps any more are removed: no endpoint is bound to them, no team of the launch
that loaded them is resident, and the thread that loaded them has left its slot. -/
def sweepFlights (s : State) (k : CreelId) : State :=
  let kept (n : Nat) (f : Flight) : Bool :=
    (s.eps.any fun ((c, _), e) => decide (c.creel = k ∧ e.est ≠ .free ∧ e.flight = n)) ||
      (match f.launch with
        | some l => decide (residentLaunch s k = some l)
        | none => false) ||
      (match f.loader with
        | some t => (s.threads.find t).isSome
        | none => false)
  modCreel s k fun c => { c with flights := c.flights.map fun (n, f) => (n, { f with valid := f.valid && kept n f }) }

/-- The service endpoints of a thread's core whose handler was this thread: a message that waits there waits for the next
handler (R205). -/
def handlerGone (s : State) (t : ThreadId) : State :=
  let mine := (s.eps.filter fun ((c, _), e) => decide (c = t.core) && decide (e.handler = some t)).map fun x => x.1.2
  mine.foldl (fun s n =>
    let s := modEp s t.core n fun e => { e with handler := none }
    if (epOf s t.core n).svc && msgReady s t.core n && !(coreOf s t.core).svcWait.contains n then
      modCore s t.core fun k => { k with svcWait := k.svcWait ++ [n] }
    else s) s

/-- The slot, register range and endpoints of a thread are freed; its instruction-cache locks and queue entries go with
it; the task queue and the waiting handlers see the idle slot. -/
def vacate (s : State) (t : ThreadId) : State :=
  let s := handlerGone (freeOwned s t) t
  let s := modCore s t.core fun c => { c with
    icache := c.icache.map fun l => if l.lock = some t.slot then { l with lock := none } else l
    queue := c.queue.filter fun e => decide (e.slot ≠ t.slot)
    queueWait := c.queueWait.filter fun e => decide (e.slot ≠ t.slot) }
  let s := admitWaiting s t.core
  let s := wake { s with threads := s.threads.del t } t.core fun k => decide (k = .region)
  retryHandlers (wakeQueue (sweepFlights (sluiceWake s t.core.creel) t.core.creel) t.core.creel) t.core

/-- R103, R108, R109. A task's status word joins its team's done combination on its creel. -/
def joinDone (s : State) (t : ThreadId) (word : BitVec 32) : State :=
  match (threadOf s t).key with
  | some k => modDone s t.core.creel k fun d => { d with word := joinWords d.word word }
  | none => s

/-- A thread leaves its slot, and the other thread of its pair with it (R136). -/
def leave (s : State) (t : ThreadId) : State :=
  match (threadOf s t).partner with
  | some p => vacate (vacate s p) t
  | none => vacate s t

/-- R277, R108. A thread ends other than by TDONE: its status word is ABORT with count 0. -/
def abortThread (s : State) (t : ThreadId) : State := leave (joinDone s t 0x10000000#32) t

/-! ## Traps (R274 to R277) -/

/-- EN of XVEC (R275). -/
def xvecEn (s : State) (c : CoreId) : Bool := (coreOf s c).xvec.getLsbD 0
/-- BASE of XVEC as an address. -/
def xvecBase (s : State) (c : CoreId) : BitVec 57 := (coreOf s c).xvec.extractLsb' 0 57 &&& ~~~0xFFF#57

/-- R275. Taking a precise trap in a slot: xpc names `pc`; xcause and xinfo hold the trap; PSUP := SUP, SUP := 1,
XM := 1; PC := BASE of XVEC + 256 * code. R277: inside a handler, or without a handler table, the thread stops. -/
def takeTrap (s : State) (t : ThreadId) (pc : BitVec 57) (tr : Trap) : State :=
  let th := threadOf s t
  if stXm th.status || !xvecEn s t.core then abortThread (count s t.core.die 85) t
  else modThread (traceRec s t 2 (leBytes 8 pc.toNat ++ leBytes 1 tr.code ++ leBytes 7 tr.info.toNat)) t fun th =>
    let st := setBit (setBit (setBit th.status 21 (stSup th.status)) 16 true) 17 true
    perfAdd { th with
      xpc := pc.setWidth 64
      xcause := BitVec.ofNat 64 tr.code
      xinfo := tr.info
      status := if s.buffered then setBit st 20 true else st
      rep := if s.buffered then { th.rep with running := false } else th.rep
      pc := xvecBase s t.core + BitVec.ofNat 57 (256 * tr.code)
      ready := nextOwn s.cyc t.slot
      wait := .run
      trap := none
      req := none
      answer := none
      awaited := 0
      gathered := []
      parked := none
      going := false
      finishing := false
      pairDest := []
      delay := 0
      skipBreak := false
      skipWatch := false } 5 1

/-- R274. A trap that follows a reply or the end of a walk is taken at the thread's next issue. -/
def trapLater (s : State) (t : ThreadId) (tr : Trap) : State :=
  modThread s t fun th => { th with
    trap := some tr, wait := .run, ready := nextOwn s.cyc t.slot, req := none, awaited := 0, gathered := []
    delay := 0
    parked := none }

/-- A trap of the instruction in hand, with xpc naming it; of a buffered beat, the REPRUN that started the run
(R275). An instruction taken up again after a park traps at its thread's next issue (R274). -/
def raise (s : State) (tr : Trap) : State :=
  if s.again then trapLater s s.cur tr
  else takeTrap s s.cur (if s.buffered then s.th.rep.pc else s.th.pc) tr

/-- The ILLEGAL trap of the instruction in hand: [31:0] the slot, [32] the parcel (R274). -/
def trapIllegal (s : State) : Trap := ⟨1, (if s.high then 0x100000000#64 else 0) ||| s.word.setWidth 64⟩

/-- R276. The return from a trap: PC := xpc, SUP := PSUP, XM := 0; a held repetition run resumes; the instruction at
the new PC issues once without a breakpoint match. -/
def trapReturn (s : State) : State :=
  s.mod fun th => { th with
    pc := th.xpc.extractLsb' 0 57 &&& ~~~1#57
    status := setBit (setBit (setBit th.status 16 (stPsup th.status)) 17 false) 20 false
    rep := if stReph th.status then { th.rep with running := true, due := nextOwn s.cyc s.cur.slot } else th.rep
    ready := nextOwn s.cyc s.cur.slot
    wait := .run
    req := none
    answer := none
    delay := 0
    skipBreak := true
    skipWatch := false }

/-! ## Uncorrectable errors (R138) -/

/-- R139. A core stops issuing: the threads of teams stand as they are; one without a team waits for the reset. -/
def stopCore (s : State) (c : CoreId) : State :=
  (s.threads.filter fun (t, _) => decide (t.core = c)).foldl (fun s (t, _) => modThread s t fun th =>
    if th.key.isSome then { th with
      wait := .stopped, stopping := true, finishing := false, parked := none, req := none
      rep := { th.rep with running := false } }
    else { th with stopping := true }) s

/-- R138, R139. The thread consumes an uncorrectable error: its instruction has no effect, its core stops, and its team is
fenced, which is an event of the team (R139); a thread without a team is stopped (DEDUCED, log 50). -/
def consumeError (s : State) (t : ThreadId) : State :=
  match (threadOf s t).key with
  | some k => (stopCore s t.core).after 0 (.event (.fenceBoundary k))
  | none => abortThread s t

/-! ## Halts of the debug module (R145) -/

/-- R145. A halt of a creel at cycle h, ignored while it is halted: its trace record (R151), and with TEAMX the cross-trigger
toward the other creels of the triggering thread's innermost team, after a free time (DESIGN CHOICE, log 6). -/
def haltAt (s : State) (k : CreelId) (h cause which ring slot : Nat) : State :=
  if isHalted s k then s
  else
    let prior := match (creelOf s k).halt with
      | some o => o.resume.map fun r => (r, o.ring)
      | none => none
    let s := (modCreel s k fun c => { c with
      halt := some ⟨h, ring, cause, which, slot, none, none, prior, [], [], []⟩, rehalt := false
      dbg := c.dbg.put 0x10 (BitVec.ofNat 64 h) }).at (h + 2) (.haltSkewOver k)
    let t : ThreadId := ⟨⟨k.x, k.y, ring⟩, slot⟩
    let s := traceRec s t 6 (leBytes 2 (4096 * cause + 256 * which + 32 * ring + 2 * slot + 1) ++ List.replicate 14 0)
    let team := if decide (2 ≤ cause ∧ cause ≤ 4) && (dbgReg s k 0).getLsbD 2 then (threadOf s t).key else none
    match team.bind fun q => s.teams.find q with
    | some u => ((creelsIn s u.x u.y u.w u.h).filter (· ≠ k)).foldl (fun s c =>
        { s with free := s.free + 1 }.after (1 + Config.delay s.free) (.event (.haltCrossTrigger c))) s
    | none => s

/-- A breakpoint, watchpoint or BKPT that halts the creel of the current thread. -/
def haltCreel (s : State) (k : CreelId) (cause which ring slot : Nat) : State :=
  haltAt s k s.cyc cause which ring slot

/-- A halt by the current thread's instruction, which does not issue (R145) and issues once without a match after the
resume (R147). -/
def haltHere (s : State) (cause which : Nat) : State :=
  haltCreel (s.unissued.mod fun th => { th with skipBreak := true, skipWatch := true, ready := nextOwn s.cyc s.cur.slot })
    s.cur.core.creel cause which s.cur.core.node s.cur.slot

/-- The same by an instruction that stood ready to be performed: it has not counted as issued (R307). -/
def haltIssue (s : State) (cause which : Nat) : State :=
  haltHere (s.mod fun th => if s.again || s.buffered || th.going || th.delay ≠ 0 then th
    else { th with perf := th.perf.set 0 (th.perf.getD 0 0 - 1) }) cause which

/-! ## The checks of an issue (R265, R164, R135) -/

/-- Does the thread have the registers an instruction names (R164, R265)? -/
def regsOk (th : Thread) (ns : List (BitVec 7)) : Bool := ns.all fun n => decide (n.toNat < th.nregs)

/-- R135, R140, R142. The first register of a list whose entry is in error: it counts as a residue error and as an
uncorrectable error of its bank, which is to be retired. -/
def residueError (s : State) (t : ThreadId) (ns : List (BitVec 7)) : State :=
  let s := count s t.core.die 71
  match ns.find? fun n => !residueOk s t n with
  | some n => (requestBank (count s t.core.die 8) t.core.creel (entryBank s t.core ((threadOf s t).base + n.toNat))).1
  | none => s

/-- R128. Is the entry of one of these registers under copy in a sluice of the core's register file? -/
def regCopying (s : State) (t : ThreadId) (ns : List (BitVec 7)) : Bool :=
  match (creelOf s t.core.creel).sluice with
  | some u => decide (u.req.store = 3 ∧ u.req.core = t.core.node) && (match u.copying with
    | some e => ns.any fun n => decide (n ≠ 0 ∧ (threadOf s t).base + n.toNat = e)
    | none => false)
  | none => false

/-- R128. An issue that meets such an entry is performed in the slot's next own cycle: a collision slot. -/
def regDelay (s : State) : State :=
  let s := count s s.cur.core.die 70
  s.mod fun th => if s.buffered then { th with rep := { th.rep with due := nextOwn s.cyc s.cur.slot } }
    else perfAdd { th with ready := nextOwn s.cyc s.cur.slot, delay := 2 } 3 1

/-- R265, R135. The checks every encoded instruction takes at issue, in order: `ok` gathers its field, privilege and
region checks; `rd` are the registers it reads, `wr` those it writes. -/
def issue (s : State) (rd wr : List (BitVec 7)) (ok : Bool) (body : State → State) : Out :=
  match s.threads.find s.cur with
  | none => .fault .noThread
  | some th =>
    if !(ok && regsOk th (rd ++ wr)) then .next (raise s (trapIllegal s))
    else if !(rd.all (residueOk s s.cur)) then .next (consumeError (residueError s s.cur rd) s.cur)
    else if !s.again && regCopying s s.cur (rd ++ wr) then .next (regDelay s)
    else .next (body s)

/-- Is the current thread a supervisor thread? -/
def State.sup (s : State) : Bool := stSup s.th.status

/-- Is the current thread outside every static region (R178)? -/
def State.free? (s : State) : Bool := !stSrg s.th.status

/-- A free time is drawn: the counter of free values advances. -/
def State.drawn (s : State) : State := { s with free := s.free + 1 }

end Sys2Proof.Machine
end

