-- ==== Sys2Proof/Machine/Operands.lean ====
section
/-! DEFINITION. Operand forms: immediates and displacements (R263, R264, R273), registers as held values and as lanes
(R284, R301), widths and extensions (R273), the codebook an instruction's type names (R250). -/

namespace Sys2Proof.Machine

/-! ## Fields -/

/-- A compact register field as a register number (R164). -/
def r5 (n : BitVec 5) : BitVec 7 := n.setWidth 7

/-- A signed immediate of any width, extended to 64 bits (R263). -/
def sx (i : BitVec n) : Word := i.signExtend 64

/-- A natural immediate. -/
def zx (i : BitVec n) : Word := i.setWidth 64

/-- The access width in bytes of a width code (R273): codes 0 and 1 byte, 2 and 3 half, 4 and 5 word, 6 doubleword. -/
def widthOf (code : Nat) : Nat := 2 ^ (code / 2)

/-- A loaded value extended as its width code gives (R273, R311). -/
def extendBy (code : Nat) (v : Nat) : Word :=
  match code with
  | 0 => (BitVec.ofNat 8 v).signExtend 64
  | 1 => (BitVec.ofNat 8 v).setWidth 64
  | 2 => (BitVec.ofNat 16 v).signExtend 64
  | 3 => (BitVec.ofNat 16 v).setWidth 64
  | 4 => (BitVec.ofNat 32 v).signExtend 64
  | 5 => (BitVec.ofNat 32 v).setWidth 64
  | _ => BitVec.ofNat 64 v

/-- The offset field of majors 20, 22, 23 and 24 in bytes: a signed count of access widths (R273). -/
def scaled (o : BitVec 8) (w : BitVec 3) : Word := BitVec.ofInt 64 (o.toInt * (widthOf w.toNat : Nat))

/-! ## Held values (R239, R284) -/

/-- The W32 value of a register's D[31:0] with S. -/
def heldOf (e : RegEntry) : Pair := ⟨decodeW32 (e.d.extractLsb' 0 32), e.s⟩

/-- The held value of g(n). -/
def State.h (s : State) (n : BitVec 7) : Pair := heldOf (regOf s s.cur n.toNat)

/-- The register image of a W32 value: D[63:32] zero. -/
def heldBits (x : Num) : Word := (encodeW32 x).setWidth 64

/-- g(n) written with a held value. -/
def State.setH (s : State) (n : BitVec 7) (p : Pair) : State := s.setGS n (heldBits p.x) p.s

/-! ## Lanes (R301) -/

/-- Lane i of w bits. -/
def lane (d : Word) (w i : Nat) : Nat := d.toNat / 2 ^ (w * i) % 2 ^ w

/-- A register from its lanes, lane 0 lowest. -/
def ofLanes (w : Nat) (ls : List Nat) : Word :=
  BitVec.ofNat 64 (ls.foldr (fun v acc => v % 2 ^ w + 2 ^ w * acc) 0)

/-! ## Codebooks of an instruction (R249, R250) -/

/-- The slot an 8-bit (selector FMT[63:61]) or 4-bit (FMT[60:58]) type uses. -/
def fmtSelector (fmt : Word) (w : Nat) : Nat :=
  if w = 8 then (fmt.extractLsb' 61 3).toNat else (fmt.extractLsb' 58 3).toNat

/-- R250. Is a selector legal for codes of w bits? -/
def selectorOk (sel w : Nat) : Bool :=
  if w = 8 then decide (sel ≤ 5) else decide (sel ≤ 3 ∨ sel = 6)

/-- The entries of a core's codebook that a selector names. -/
def slotOf (s : State) (c : CoreId) (sel : Nat) : Slot :=
  if sel ≤ 3 then fun i => (coreOf s c).codebook.get (256 * sel + i) 0 else builtinSlot sel

end Sys2Proof.Machine
end

