-- ==== Sys2Proof/Machine/Flags.lean ====
section
/-! DEFINITION. Rounding modes, flags and stochastic draws in the setting of a thread (R241 to R245). -/

namespace Sys2Proof.Machine

/-- RM of the current thread's STATUS (R242). -/
def State.rm (s : State) : Nat := rmOf s.th.status

/-- The SRD draw of the current thread for element i (R243). -/
def State.srd (s : State) (i : Nat) : Nat := srdBits s.th.seed s.th.task (stSrdc s.th.status) i

/-- SRDC advances after an instruction that rounded under SRD (R242; DEDUCED, log 17). -/
def State.usedSrd (s : State) (mode : Nat) : State :=
  if mode = 5 then s.mod fun th => { th with status := bumpSrdc th.status } else s

/-- FinalRound in the current thread's setting: element index 0. -/
def State.final (s : State) (f : Fmt) (mode q : Nat) (v : Pair) : Num × Flags := finalRound f mode q (s.srd 0) v

/-- R254. The 64 bits a store of 4 or 8 bytes writes: with S set, D[31:0] as FinalRound into W32; and its flags. -/
def storeImage (s : State) (e : RegEntry) (n : Nat) : Word × Flags :=
  if 4 ≤ n && e.s then
    let (x, fl) := s.final .w32 s.rm 24 (heldOf e)
    (e.d.extractLsb' 32 32 ++ encodeW32 x, fl)
  else (e.d, 0)

end Sys2Proof.Machine
end

