-- ==== Sys2Proof/Machine/Request.lean ====
section
/-! DEFINITION. Memory requests and what is performed at a home: the paths of R310, requests and replies (R207),
walks (R56), full/empty waiters (R316), barrier words (R324 to R326), and how a reply completes an instruction. -/

namespace Sys2Proof.Machine

/-! ## Completing a parked instruction (R162, R310) -/

/-- The thread's instruction is complete: it issues next, from `next`, in its first own cycle after this one. -/
def release (s : State) (t : ThreadId) : State :=
  modThread s t fun th => { th with
    pc := th.next, wait := .run, req := none, answer := none, awaited := 0, gathered := []
    parked := none, going := false, delay := 0, finishing := false, ready := nextOwn s.cyc t.slot, skipBreak := false, skipWatch := false }

/-- The value a completion writes, from the bytes and tags of a reply. -/
def complete (s : State) (t : ThreadId) (k : Compl) (v : Nat) (tag : Bool) (fl : Flags) : State :=
  let s := match k with
    | .load d code => setRegOf s t d.toNat (extendBy code v) false
    | .fill d => setRegOf s t d.toNat (BitVec.ofNat 64 v) tag
    | .word d => setRegOf s t d.toNat (BitVec.ofNat 64 v) false
    | .pair d => setRegOf s t d.toNat (BitVec.ofNat 64 v) tag
    | .bit d => setRegOf s t d.toNat (BitVec.ofNat 64 v) false
    | .nothing => s
    | .codebook _ => s
    | .flight _ _ _ => s
  release (modThread s t fun th => { th with status := orFlags th.status fl }) t

/-! ## Atomic functions at the home (R319 to R321) -/

/-- The new value of an atomic on a doubleword, m = 0 to 7 and 9; none for a failed AMOCAS. -/
def amoNew (m : Nat) (old arg cmp : Word) : Option Word :=
  match m with
  | 0 => some (old + arg)
  | 1 => some (old &&& arg)
  | 2 => some (old ||| arg)
  | 3 => some (old ^^^ arg)
  | 4 => some (if old.sle arg then old else arg)
  | 5 => some (if old.sle arg then arg else old)
  | 6 => some arg
  | 7 => if old = cmp then some arg else none
  | _ => some (old - arg)

/-! ## Full/empty waiters and barriers (R316, R324 to R326) -/

/-- BPH of a barrier word. -/
def barrierPhase (w : Word) : BitVec 16 := w.extractLsb' 32 16

/-- R325. BARRIVE on a barrier word. -/
def barrierArrive (w : Word) : Word :=
  let np := w.extractLsb' 48 16
  let p := barrierPhase w
  let odd := p.getLsbD 0
  let c := (if odd then w.extractLsb' 16 16 else w.extractLsb' 0 16)
  let done := decide (np.toNat ≤ c.toNat + 1)
  let c' : BitVec 16 := if done then 0 else c + 1
  let p' := if done then p + 1 else p
  if odd then np ++ p' ++ c' ++ w.extractLsb' 0 16 else np ++ p' ++ w.extractLsb' 16 16 ++ c'

/-- A reply on its way to the requester, after the home's access time and the mesh (R34, R56). -/
def sendReply (s : State) (q : MemReq) (status : Nat) (data : List Byte) (tags : BitVec 4) : State :=
  let back := match requesterNode q.who, homeOf s q.pa with
    | some c, some h => homeCycles c h
    | some _, none => 2
    | none, _ => 0
  let time := match homeOf s q.pa with | some h => homeTime h s.free | none => 1
  s.drawn.onLane (requestLane s q true) (time + back) (replyFlits data) (.event (.memoryReply ⟨q, status, data, tags⟩))

/-- A served waiter wakes: by a reply, or on its own core at once (R316). -/
def serveOne (s : State) (w : Waiter) (v : Word) : State :=
  match w.q, w.slot with
  | some q, _ => sendReply s q 0 (if w.kind ≤ 1 then leBytes 8 v.toNat else []) 0
  | none, some t =>
    (match (threadOf s t).wait with
      | .reply k => complete s t k v.toNat false 0
      | _ => s)
  | none, none => s

/-- The first waiter of a word whose kind satisfies a test. -/
def firstWaiter (s : State) (pa : Nat) (p : Nat → Bool) : Option Waiter :=
  s.waiters.find? fun w => decide (w.pa = pa) && p w.kind

/-- A waiter record removed; a request held for want of a record is sent again (R316). -/
def dropWaiter (s : State) (w : Waiter) : State :=
  let s := { s with waiters := s.waiters.erase w }
  let at_ (pa : Nat) := (homeOf s pa).map homeKey
  match s.heldWaits.find? fun q => decide (at_ q.pa = at_ w.pa) with
  | none => s
  | some q => { s with heldWaits := s.heldWaits.erase q }.after 1 (.event (.waiterStoreResend q))

/-- R316. The waiters of a word served until none can proceed: full-waiters in order while it is FULL, an LDFE
emptying it; then the head STEF, which fills it. -/
def serveWord (s : State) (pa : Nat) : Nat → State
  | 0 => s
  | fuel + 1 =>
    if isFull s pa then
      match firstWaiter s pa (fun k => decide (k ≤ 1)) with
      | none => s
      | some w =>
        let v := readWord s pa
        let s := serveOne (dropWaiter s w) w v
        serveWord (if w.kind = 0 then setFull s pa false else s) pa fuel
    else
      match firstWaiter s pa (fun k => decide (k = 2)) with
      | none => s
      | some w =>
        let s := setFull (writeWord (dropWaiter s w) pa w.want) pa true
        serveWord (serveOne s w 0) pa fuel

/-- R326. The BWAITs of a word whose phase now differs, served in order of arrival. -/
def serveBarrier (s : State) (pa : Nat) : State :=
  let p := barrierPhase (readWord s pa)
  (s.waiters.filter fun w => decide (w.pa = pa ∧ w.kind = 3 ∧ w.want.extractLsb' 0 16 ≠ p)).foldl
    (fun s w => serveOne (dropWaiter s w) w 0) s

/-- After an access that may have changed a word: its waiters re-evaluated. -/
def serveAll (s : State) (pa : Nat) : State :=
  let a := pa / 8 * 8
  serveBarrier (serveWord s a (s.waiters.length + 1)) a

/-- A write of bytes performed at its home, barrier waiters re-evaluated (R326, R330). -/
def performWrite (s : State) (pa : Nat) (bs : List Byte) (tag : Bool) : State :=
  let s := writeBytes s pa bs tag
  if s.waiters.isEmpty then s
  else (List.range (bs.length / 8 + 2)).foldl (fun s i =>
    if pa / 8 * 8 + 8 * i < pa + bs.length then serveBarrier s (pa / 8 * 8 + 8 * i) else s) s

/-- A write of one nibble performed at its home, barrier waiters re-evaluated (R318, R326). -/
def performNibble (s : State) (pa : Nat) (high : Bool) (v : BitVec 4) : State :=
  performWrite s pa [nibbleIn (cellGet s.mem pa) high v] false

/-- R315. Full/empty operation m of major 27 on a word, when it need not wait: the new state and the value for gd. -/
def feTry (s : State) (pa m : Nat) (arg : Word) : Option (State × Word) :=
  match m with
  | 0 => if isFull s pa then some (serveAll (setFull s pa false) pa, readWord s pa) else none
  | 1 => if isFull s pa then some (s, readWord s pa) else none
  | 2 => if isFull s pa then none else some (serveAll (setFull (writeWord s pa arg) pa true) pa, 0)
  | 3 => some (serveAll (setFull (writeWord s pa arg) pa true) pa, 0)
  | 4 => some (serveAll (setFull s pa false) pa, 0)
  | 5 => some (s, if isFull s pa then 1 else 0)
  | 6 => some (serveAll (writeWord s pa (barrierArrive (readWord s pa))) pa, (barrierPhase (readWord s pa)).setWidth 64)
  | _ => if barrierPhase (readWord s pa) ≠ arg.extractLsb' 0 16 then some (s, 0) else none

/-- The waiter kind of operation m (R316): LDFE 0, LDFF 1, STEF 2, BWAIT 3. -/
def waiterKind (m : Nat) : Nat := if m = 7 then 3 else m

/-- R319 to R321. An atomic performed on the doubleword at pa: the new state and the old value. -/
def atomicAt (s : State) (pa m : Nat) (arg cmp : Word) : State × Word :=
  let old := readWord s pa
  match amoNew m old arg cmp with
  | none => (s, old)
  | some v =>
    let s := performWrite s pa (leBytes 8 v.toNat) false
    (if m = 9 && decide (v = 0) then serveAll (setFull s pa true) pa else s, old)

/-- R320. AMOFADD on the W32 element at pa: the new state, the old pair's bits and S, and the flags. -/
def atomicFadd (s : State) (pa : Nat) (arg : Pair) : State × Nat × Bool × Flags :=
  let old : Pair := ⟨decodeW32 (BitVec.ofNat 32 (leNat (readBytes s pa 4))), tagAt s pa⟩
  let old := match old.x with | .nan => ⟨.nan, false⟩ | _ => old
  let (v, fl) := fadd old arg
  (performWrite s pa (leBytes 4 (encodeW32 v.x).toNat) v.s, (encodeW32 old.x).toNat, old.s, fl)

/-! ## Requests (R207, R225, R310) -/

/-- The event at the home of a request, by its OP (R207). -/
def requestEvent (q : MemReq) : Event :=
  match q.op with
  | 1 => .memLoad q
  | 2 => .memStore q
  | 3 => .memAtomic q
  | 4 => .memSubByteStore q
  | 5 => .memDestAdd q
  | 6 => .memDestMin q
  | 7 => .memDestMax q
  | _ => .memFullEmpty q

/-- A request of the current thread leaves for its home: one cycle for the translation-cache hit (R55), the mesh time,
and a cycle for each further flit. -/
def sendReq (s : State) (q : MemReq) (h : Home) (lead : Nat) : State :=
  let s := s.onLane (requestLane s q false) (1 + lead + homeCycles s.cur.core h) (requestFlits q) (.event (requestEvent q))
  s.mod fun th => perfAdd { th with memOpen := true } 4 1

/-- A request of the current thread, with a fresh token. -/
def mkReq (s : State) (op : Nat) (wid : Byte) (len pa va : Nat) (leaf : Word) (acq rel : Bool) (data : List Byte)
    (tags : BitVec 4) (posted : Bool) : MemReq :=
  ⟨.slot s.cur, s.token, op, wid, len, pteVer leaf, pteMig leaf, acq, rel, false, decide (op = 4), s.th.ordSeq, pa, va,
    data, tags, posted⟩

/-- R310. A parked request: the thread waits for its reply. -/
def parkReq (s : State) (cp : Bool) (q : MemReq) (h : Home) (k : Compl) : State :=
  (sendReq s q h 0).fresh.mod fun th => { th with
    wait := .reply k, req := some q, next := pcAfter th.pc cp }

/-- R225. A posted write: the thread goes on; at most eight are outstanding. -/
def postReq (s : State) (cp : Bool) (q : MemReq) (h : Home) : State :=
  let s := (sendReq s q h 0).fresh.mod fun th => { th with
    posted := th.posted ++ [⟨q.tok, q.va, q.rel⟩]
    ordSeq := if q.ord then th.ordSeq + 1 else th.ordSeq }
  retire s cp 1

/-! ## Walks (R51, R54, R56) -/

/-- The index of a level's entry: VA[56:48] at the root, then eight bits a level (R51). -/
def walkIndex (va level : Nat) : Nat := if level = 0 then va / 2 ^ 48 % 512 else va / 2 ^ (48 - 8 * level) % 256

/-- R51, R54. The cause that forbids reading a table entry at an address: 7 unbacked, 5 backed but outside HBM4. -/
def tableCause (s : State) (addr : Nat) : Nat :=
  match homeOf s addr with
  | none => 7
  | some (.control _ false _) => 0
  | some _ => 5

/-- What an entry at a level says (R54): go on to a table, a leaf, or a walk cause. -/
inductive EntryStep where
  | table (addr : Nat)
  | leaf
  | cause (n : Nat)
  deriving DecidableEq, Repr

/-- R53, R54. The reading of an entry at a level for an address. Where an entry breaks several conditions at once, the cause
of the first that holds in the order written here is reported, and a leaf of device register space may carry any TIER but
the malformed 3, its range standing beside no tier of R48 (DESIGN CHOICE, log 78: the spec gives neither). -/
def readEntry (s : State) (e : Word) (level va : Nat) : EntryStep :=
  if !pteV e then .cause 1
  else if !pteLeaf e then
    if level = 4 then .cause 2
    else if e.extractLsb' 2 9 ≠ 0 || e.extractLsb' 52 12 ≠ 0 then .cause 3
    else .table (pteNext e)
  else if level = 0 then .cause 2
  else
    let page := pageBytes (4 - level)
    if e.extractLsb' 60 4 ≠ 0 || e.extractLsb' 14 2 ≠ 0 || decide (pteFrame e % page ≠ 0) then .cause 3
    else if pteTier e = 3 || pteScope e = 7 then .cause 4
    else
      let f := pteFrame e
      let tier := if f < 2 ^ 40 then 1 else if 2 ^ 41 ≤ f && f < 2 ^ 42 then 2 else if 2 ^ 44 ≤ f && f < 2 ^ 44 + 2 ^ 33 then 0 else 3
      if tier ≠ 3 && decide (tier ≠ pteTier e) then .cause 5
      else if pteMig e && (decide (level ≤ 2) || decide (pteTier e = 0)) then .cause 6
      else if (homeOf s (f + va % page)).isNone then .cause 7
      else .leaf

/-- R56. The walker of a miss: eight in the south controller, eight in the north, by the creel's place in its die. -/
def walkerOf (k : CreelId) (die : Nat) : Nat := 16 * die + k.x % 32 / 4 + (if k.y % 32 < 16 then 0 else 8)

/-- The controller a walker stands in. -/
def walkerHome (w : Nat) : Home := .control (w / 16) false (decide (8 ≤ w % 16))

/-- The mesh time between a creel and its walker. -/
def walkerCycles (c : CoreId) (w : Nat) : Nat := homeCycles c (walkerHome w)

/-- R34, R56. The mesh time between a walker and the home of the entry it reads. -/
def entryCycles (s : State) (w : Walk) : Nat :=
  let north := decide (8 ≤ w.walker % 16)
  let src : CoreId := ⟨32 * (w.walker / 16 % 4) + w.creel.x % 32, 32 * (w.walker / 16 / 4) + (if north then 31 else 0), 12⟩
  homeCycles src ((homeOf s w.addr).getD (walkerHome w.walker))

/-- The request for the next entry of a walk leaves its walker. -/
def walkOn (s : State) (w : Walk) : State := s.after (entryCycles s w) (.walkRead w.id)

/-- R56. A miss of a thread: it parks until the walk ends; the miss goes to its walker over the mesh. -/
def startWalk (s : State) (t : ThreadId) (va : Nat) (fetch : Bool) : State :=
  let th := threadOf s t
  let k : CreelId := ⟨t.core.x, t.core.y⟩
  let wk := walkerOf k t.core.die
  let w : Walk := ⟨s.token, t, t.core.creel, th.asid, va, 0, th.root.toNat + 8 * walkIndex va 0, wk, false, false, false⟩
  let s := { s with walks := s.walks ++ [w] }.fresh
  let s := modThread s t fun th => { th with
    wait := .redo (.walk w.id), parked := if fetch then none else some (s.word, s.high, s.buffered) }
  s.after (walkerCycles t.core wk) (.walkArrive w.id)

/-- R51 to R54. The walk of an address space performed at once, for parties whose time is not fixed (engines, gate
tests): the leaf, its address and page-size code, or the walk cause. -/
def walkNow (s : State) (va : Nat) : Nat → Nat → Nat → Except Nat (Word × Nat × Nat)
  | 0, _, _ => .error 2
  | fuel + 1, level, table =>
    let a := table + 8 * walkIndex va level
    match tableCause s a with
    | 0 =>
      match readEntry s (readWord s a) level va with
      | .table n => walkNow s va fuel (level + 1) n
      | .leaf => .ok (readWord s a, a, 4 - level)
      | .cause n => .error n
    | n => .error n

/-! ## The translation cache in use (R55) -/

/-- R55. An entry put in a translation cache of 256, over the least recently used one. -/
def tlbInsert (s : State) (k : CreelId) (e : TlbEntry) : State :=
  modCreel s k fun c =>
    let same (x : TlbEntry) : Bool := decide (x.asid = e.asid ∧ x.vpage = e.vpage ∧ x.size = e.size)
    let l := c.tlb.filter fun x => !same x
    let l := if l.length < 256 then l else
      match l.foldl (fun (b : Option TlbEntry) x => match b with
        | none => some x
        | some y => if x.stamp < y.stamp then some x else some y) none with
      | some o => l.erase o
      | none => l
    { c with tlb := l ++ [e] }

/-- R55. An entry put in a translation cache; one of a MIG page is dropped 2^24 cycles after its walk. -/
def tlbFill (s : State) (k : CreelId) (e : TlbEntry) : State :=
  let s := tlbInsert s k e
  if pteMig e.leaf then s.after (2 ^ 24) (.event (.tlbMigEntryExpiry k e.asid e.vpage e.size)) else s

/-- R55, R59. What a use of an entry leaves: its last use, and what the request carries of a MIG leaf toward the migration
logic: size, leaf address and leaf. -/
def tlbUse (s : State) (k : CreelId) (e : TlbEntry) : State :=
  let s := tlbTouch s k e
  if pteMig e.leaf then { s with frameHeat := s.frameHeat.put (pteFrame e.leaf) (e.size, e.leafAddr, e.leaf) } else s

/-- The use of the entry of an address, where the translation cache holds one. -/
def noteUse (s : State) (k : CreelId) (asid : BitVec 16) (va : Nat) : State :=
  match tlbFind s k asid va with
  | some e => tlbUse s k e
  | none => s

/-- R55. The entry of an address for a party whose time is not fixed: from the translation cache, or from a walk that fills it. -/
def lookUp (s : State) (k : CreelId) (asid : BitVec 16) (root va : Nat) : Except Nat (State × TlbEntry) :=
  match tlbFind s k asid va with
  | some e => .ok (tlbUse s k e, e)
  | none => match walkNow s va 6 0 root with
    | .error n => .error n
    | .ok (leaf, addr, size) =>
      let e : TlbEntry := ⟨asid, va / pageBytes size, size, leaf, addr, s.cyc, s.cyc⟩
      .ok (tlbUse (tlbFill s k e) k e, e)

/-- The physical address of a virtual one through an entry. -/
def TlbEntry.pa (e : TlbEntry) (va : Nat) : Nat := pteFrame e.leaf + va % pageBytes e.size

/-- R57, R58. The entries of a translation cache without that of an address. -/
def dropPage (l : List TlbEntry) (asid : BitVec 16) (va : Nat) : List TlbEntry :=
  l.filter fun e => decide (e.asid ≠ asid ∨ e.vpage ≠ va / pageBytes e.size)

/-! ## The access of an instruction -/

/-- Working local-store banks of a core (R125, R132). -/
def bankCount (s : State) (c : CoreId) : Nat := (lsWorking (capOf s c)).length

/-- Is this physical address in a creel's scratchpad? -/
def inScratch (pa : Nat) : Bool := decide (2 ^ 44 ≤ pa ∧ pa < 2 ^ 52 ∧ pa % 2 ^ 20 < 0x80000)

/-- R167. The port a run is charged to, for the core that makes it: the working bank of its lowest word in the core's
own local store, or 3, the core's scratchpad port (R169). -/
def portOf (s : State) (c : CoreId) (pa : Nat) : Nat :=
  if inScratch pa then 3 else pa % 0x10000 / 8 % max 1 (bankCount s c)

/-- R167, R169. The further owner slots that the runs of one beat cost. -/
def runCost (runs : List (Nat × Bool)) : Nat :=
  let n (b : Nat) (w : Bool) := (runs.filter fun r => decide (r = (b, w))).length
  ((List.range 3).map fun b => (n b false - 1) + (n b true - 1)).sum + (n 3 false + n 3 true - 1)

/-- R379. Does the matrix unit use the core's scratchpad port in this cycle on another slot's behalf? -/
def matrixPort (s : State) (t : ThreadId) : Bool :=
  match (coreOf s t.core).mrun with
  | some r => decide (r.instr.slot ≠ t.slot) && r.fetch.getD (s.cyc - r.started) false
  | none => false

/-- R159, R379. One further owner slot when a scratchpad run loses the port to the matrix unit. -/
def portCost (s : State) (runs : List (Nat × Bool)) : Nat :=
  if runs.any (fun r => decide (r.1 = 3)) && matrixPort s s.cur then 1 else 0

/-- R167, R169, R182. The further owner slots that a scalar access of the current thread to its self window costs beside the
buffered beat of the same cycle; none when they have passed. -/
def scalarCost (s : State) (pa : Nat) (write : Bool) : Nat :=
  let run := (portOf s s.cur.core pa, write)
  let th := s.th
  let before := if th.runsAt = s.cyc then th.runs else []
  if th.delay ≠ 0 then 0 else runCost (before ++ [run]) - runCost before + portCost s [run]

/-- R128, R129. Does an access of the current thread to its self window meet a unit under copy? -/
def meetsCopy (s : State) (pa n : Nat) : Bool :=
  decide (s.th.delay ≠ 2) && (match homeOf s pa with | some h => copying s h pa n | none => false)

/-- R128, R161, R167. A scalar access that costs further owner slots is performed in the last of them: the instruction, which
has issued, waits for it in its place, and its repetition buffer with it. -/
def portDelay (s : State) (cost : Nat) (copy : Bool) : State :=
  let s := if copy then count s s.cur.core.die 70 else s
  s.mod fun th => perfAdd { th with
    wait := .run
    ready := nextOwn s.cyc s.cur.slot + 16 * (cost - 1)
    delay := if copy then 2 else 1
    rep := if th.rep.running then { th.rep with due := th.rep.due + 16 * cost } else th.rep } 3 cost

/-- A scalar access of the current thread to its self window, in the slot that serves it. -/
def inPort (s : State) (pa n : Nat) (write : Bool) (body : State → State) : State :=
  let copy := meetsCopy s pa n
  let cost := scalarCost s pa write + (if copy then 1 else 0)
  if cost = 0 then body s else portDelay s cost copy

/-- R167, R169, R182. A scalar access of the current thread to its self window is done: the further owner slots it still costs,
which the buffer waits as well. -/
def scalarRun (s : State) (pa : Nat) (write : Bool) : State × Nat :=
  let extra := scalarCost s pa write
  (if extra = 0 then s else s.mod fun th =>
    { th with rep := if th.rep.running then { th.rep with due := th.rep.due + 16 * extra } else th.rep }, extra)

/-- R310. An instruction that has performed a self-window access completes. -/
def doneSelf (s : State) (cp : Bool) (pa : Nat) (write : Bool) : State :=
  let (s, extra) := scalarRun s pa write
  retire s cp (1 + extra)

/-- An access of the current thread's instruction along its path: its checks and traps, a walk when the translation
is not cached, then `self` or `remote`. -/
def withAccess (s : State) (ea : Word) (n al : Nat) (need : Need) (self : State → Nat → State)
    (remote : State → Nat → Home → Word → State) : State :=
  -- R178: inside a static region only the self window
  if stSrg s.th.status && decide (ea.toNat < selfBase ∨ 2 ^ 57 ≤ ea.toNat) then raise s (trapIllegal s)
  else match access s s.cur ea n al need with
  | .trap t => raise s t
  | .halt j => haltIssue s 3 j
  | .walk => startWalk s s.cur ea.toNat false
  | .self pa => inPort s pa n need.wr fun s => self s pa
  | .remote pa h leaf => remote (noteUse s s.cur.core.creel s.th.asid ea.toNat) pa h leaf

/-- R225. Do earlier posted writes hold back a release-kind operation? -/
def releaseWaits (s : State) : Bool := !s.th.posted.isEmpty

/-- R225. Do earlier release-kind writes hold back an acquire-kind operation? -/
def acquireWaits (s : State) : Bool := s.th.posted.any fun p => p.rel

end Sys2Proof.Machine
end

