-- ==== Sys2Proof/Machine/Pair.lean ====
section
/-! DEFINITION. Paired mode (R136, R137): the load-value queue, the store comparator, and the meeting of a pair's other effects
(DESIGN CHOICE, log 19). -/

namespace Sys2Proof.Machine

/-- How an instruction concerns a pair: it stays in its registers; it takes a value from outside; it has an effect
outside them. -/
inductive PairClass where
  | inside | value | effect
  deriving DecidableEq, Repr

/-- R136. The class of a slot word, by its major and selector; `high` names the parcel. -/
def pairClass (w : BitVec 32) (high : Bool) : PairClass :=
  if !w.getLsbD 0 then
    match (if high then w.extractLsb' 17 5 else w.extractLsb' 1 5).toNat with
    | 28 => .value
    | 29 => .effect
    | _ => .inside
  else
    let m := (w.extractLsb' 28 4).toNat
    match (w.extractLsb' 1 6).toNat with
    | 20 | 21 | 23 | 26 | 45 => .value
    -- the leading thread alone waits at the home of an LDFE, LDFF or BWAIT (R330)
    | 27 => if m = 0 ∨ m = 1 ∨ m = 5 then .value else .effect
    | 31 => if m = 5 then .value else .effect
    | 22 | 24 | 25 | 28 | 29 | 30 | 44 | 46 | 47 | 48 | 49 | 52 | 53 | 54 | 55 | 56 | 57 | 58 | 60 | 61 | 62 => .effect
    | 33 => if m = 7 then .effect else .inside
    | 43 => if m = 6 then .value else if m = 2 ∨ m = 4 then .effect else .inside
    | _ => .inside

/-- The register a value instruction writes. -/
def pairTarget (w : BitVec 32) (high : Bool) : BitVec 7 :=
  if w.getLsbD 0 then w.extractLsb' 7 7
  else (if high then w.extractLsb' 22 5 else w.extractLsb' 6 5).setWidth 7

/-- The registers a slot word names in its fields. -/
def pairNames (w : BitVec 32) (high : Bool) : List (BitVec 7) :=
  if w.getLsbD 0 then [w.extractLsb' 7 7, w.extractLsb' 7 7 + 1, w.extractLsb' 14 7, w.extractLsb' 21 7]
  else if high then [(w.extractLsb' 22 5).setWidth 7, (w.extractLsb' 27 5).setWidth 7]
  else [(w.extractLsb' 6 5).setWidth 7, (w.extractLsb' 11 5).setWidth 7]

/-- Does a thread stand waiting for its partner? -/
def pairWaits (th : Thread) : Bool := decide (th.wait = .redo .pair)

/-- The leading thread is the one in the lower slot (R136). -/
def leads (t p : ThreadId) : Bool := decide (t.slot < p.slot)

/-- R137. A paired mismatch: an uncorrectable error consumed by the pair. -/
def pairMismatch (s : State) (t : ThreadId) : State := consumeError (count s t.core.die 72) t

/-- Do the two threads stand at the same instruction with equal operands and equal stream, descriptor, scale and format state? -/
def pairAgree (s : State) (t p : ThreadId) (w : BitVec 32) (high : Bool) : Bool :=
  let a := threadOf s t
  let b := threadOf s p
  decide (a.pc = b.pc ∧ b.parked.map (·.1) = some w ∧ a.z = b.z ∧ a.mdesc = b.mdesc ∧ a.scl = b.scl ∧ a.fmt = b.fmt) && (pairNames w high).all fun n =>
    decide ((regOf s t n.toNat).d = (regOf s p n.toNat).d ∧ (regOf s t n.toNat).s = (regOf s p n.toNat).s)

/-- The trailing thread `p` comes to where the leading one stands after an effect that it has performed: it takes the results,
and every state that is the thread's own; its slot, registers, counters and requests stay as they are. -/
def pairFollow (s : State) (t p : ThreadId) (names : List (BitVec 7)) : State :=
  let n := min (threadOf s t).nregs (threadOf s p).nregs
  let s := (names.filter fun r => decide (r.toNat < n)).foldl (fun s n =>
    setRegOf s p n.toNat (regOf s t n.toNat).d (regOf s t n.toNat).s) s
  let th := threadOf s t
  modThread s p fun q => perfAdd { q with
    pc := th.pc, status := setBit th.status 18 true, fmt := th.fmt, scl := th.scl, task := th.task
    xpc := th.xpc, xcause := th.xcause, xinfo := th.xinfo, xsca := th.xsca, xscb := th.xscb, progress := th.progress
    z := th.z, rep := { th.rep with running := false }, mdesc := th.mdesc, mvalid := th.mvalid, mseq := th.mseq
    lastd := th.lastd, tmis := th.tmis
    wait := .run, parked := none, answer := none, trap := none, ready := nextOwn s.cyc p.slot } 1 1

/-- What the leading thread's last instruction left for the trailing one, at its next issue: a value for the queue, or
an effect that both have issued. -/
def settle (s : State) (t : ThreadId) : State :=
  let th := threadOf s t
  match th.partner with
  | none => s
  | some p =>
    if th.going then s
    else
      let s' := modThread s t fun th => { th with pairDest := [] }
      match th.pairDest with
      | [] => s
      | [d] =>
        let e := regOf s t d.toNat
        let s' := modThread s' t fun th => { th with lvq := th.lvq ++ [(e.d, e.s)] }
        if pairWaits (threadOf s p) then reissue s' p else s'
      | _ :: names => pairFollow s' t p names

/-- A thread of a pair waits in its place for the other. -/
def pairRest (s : State) (t : ThreadId) : State :=
  let since := s.cyc
  modThread (parkOn s .pair) t fun th => { th with pairSince := since }

/-- The leading thread holds an effect until the other issues it; the hold ends after 2^16 cycles (R137). -/
def pairPark (s : State) (t : ThreadId) : State := (pairRest s t).after (2 ^ 16) (.event (.pairedHoldTimeout t s.cyc))

/-! ## The store comparator (R136) -/

/-- A store as the comparator sees it: its effective address, the bytes that are checked and their alignment, the registers of
its address and of its data, its kind, and whether it is release-kind. -/
structure PairStore where
  ea : Word
  n : Nat
  al : Nat
  a : BitVec 7
  x : BitVec 7
  kind : Nat
  rel : Bool

/-- The store that a slot word is for the current thread: ST, STL, SPILL, SBST, TAGSET or c.st (R264, R312, R313, R318,
R329). -/
def storeForm (s : State) (w : BitVec 32) (high : Bool) : Option PairStore :=
  if !w.getLsbD 0 then
    let a := if high then w.extractLsb' 27 5 else w.extractLsb' 11 5
    if (if high then w.extractLsb' 17 5 else w.extractLsb' 1 5) = 29 then
      some ⟨s.g (r5 a), 8, 8, r5 a, pairTarget w high, 0, false⟩
    else none
  else
    let d := w.extractLsb' 7 7
    let a := w.extractLsb' 14 7
    let ga := s.g a
    let b := w.extractLsb' 21 7
    let i := w.extractLsb' 21 11
    let m := (w.extractLsb' 28 4).toNat
    let plain (rel : Bool) : Option PairStore :=
      let c := (i.extractLsb' 0 3).toNat
      if c % 2 = 0 then some ⟨ga + scaled (i.extractLsb' 3 8) (i.extractLsb' 0 3), widthOf c, widthOf c, a, d, 0, rel⟩ else none
    match (w.extractLsb' 1 6).toNat with
    | 22 => plain false
    | 24 => plain true
    | 25 => some ⟨ga + BitVec.ofInt 64 (8 * i.toInt), 8, 8, a, d, 1, false⟩
    | 27 => if d = 0 ∧ (m = 6 ∨ m = 7) then some ⟨ga, 1, 1, a, b, m - 4, false⟩ else none
    | 31 => if d = 0 ∧ m = 10 then some ⟨ga, 8, 8, a, b, 4, true⟩ else none
    | _ => none

/-- Its data and tag, the flags it sets, and whether it draws on SRD (R254). -/
def storeData (s : State) (f : PairStore) : List Byte × Bool × Flags × Bool :=
  let e := regOf s s.cur f.x.toNat
  match f.kind with
  | 0 =>
    let (v, fl) := storeImage s e f.n
    (leBytes f.n v.toNat, false, fl, decide (4 ≤ f.n) && e.s)
  | 1 => (leBytes 8 e.d.toNat, e.s, 0, false)
  | 4 => (leBytes 4 (e.d.toNat % 2 ^ 32), false, 0, false)
  | _ => ([(e.d.extractLsb' 0 4).setWidth 8], false, 0, false)

/-- A held store performed. -/
def performHeld (s : State) (h : HeldStore) : State :=
  if h.kind = 2 ∨ h.kind = 3 then performNibble s h.pa (decide (h.kind = 3)) ((h.bytes.getD 0 0).extractLsb' 0 4)
  else performWrite s h.pa h.bytes h.tag

/-- The flags and the SRD of a store. -/
def storeFlags (s : State) (fl : Flags) (used : Bool) : State :=
  let s := s.flags fl
  if used then s.usedSrd s.rm else s

/-- R136. The store of the leading thread `t` enters the comparator, and the thread goes on; with 16 held it waits. None where
the store is not one into the self window that nothing stops: the pair meets at it. -/
def leadStore (s : State) (t p : ThreadId) (w : BitVec 32) : Option State :=
  match storeForm s w s.high with
  | none => none
  | some f =>
    let th := threadOf s t
    let names := [f.a, f.x]
    match access s t f.ea f.n f.al needStore with
    | .self pa =>
      let (bs, tag, fl, used) := storeData s f
      let late := match homeOf s pa with | some h => copying s h pa f.n | none => false
      if th.going || !regsOk th names || !(names.all (residueOk s t)) || regCopying s t names ||
          (f.rel && !th.posted.isEmpty) || partialPoison s pa bs.length bs.length || late then none
      else if 16 ≤ th.held.length then some (pairRest s t)
      else
        let s := modThread (storeFlags s fl used) t fun th =>
          perfAdd { th with held := th.held ++ [⟨f.kind, pa, bs, tag, s.cyc⟩] } 1 1
        let s := (retire s (!w.getLsbD 0) 1).after (2 ^ 16) (.event (.pairedHoldTimeout t s.cyc))
        some (if pairWaits (threadOf s p) then reissue s p else s)
    | _ => none

/-- R136, R137. The trailing thread `t` issues an effect while the comparator holds stores of the leading thread `p`: the
matching store is released and performed; anything else is a mismatch. None when nothing is held. -/
def trailStore (s : State) (t p : ThreadId) (w : BitVec 32) : Option State :=
  match (threadOf s p).held with
  | [] => none
  | h :: r => match storeForm s w s.high with
    | none => some (pairMismatch s t)
    | some f =>
      let (bs, tag, fl, used) := storeData s f
      let at_ : Option Nat :=
        if f.ea.toNat < selfBase ∨ 2 ^ 57 ≤ f.ea.toNat then none else selfPa s t.core (f.ea.toNat - selfBase) f.n
      if decide (at_ = some h.pa ∧ f.kind = h.kind ∧ bs = h.bytes ∧ tag = h.tag) then
        if partialPoison s h.pa bs.length bs.length then some (consumeError (noteRead s h.pa bs.length) t)
        else
          let s := modThread (storeFlags s fl used) p fun q => { q with held := r }
          let s := doneSelf (modThread (performHeld s h) t fun th => perfAdd th 1 1) (!w.getLsbD 0) h.pa true
          some (if pairWaits (threadOf s p) then reissue s p else s)
      else some (pairMismatch s t)

/-- The address, width code and need of a value instruction that reads memory; width code 7 for a register image, 8 for a
full/empty or barrier word. -/
def loadForm (s : State) (w : BitVec 32) (high : Bool) : Option (Word × Nat) :=
  if !w.getLsbD 0 then
    some (s.g (r5 (if high then w.extractLsb' 27 5 else w.extractLsb' 11 5)), 6)
  else
    let ga := s.g (w.extractLsb' 14 7)
    let i := w.extractLsb' 21 11
    match (w.extractLsb' 1 6).toNat with
    | 20 | 23 => some (ga + scaled (i.extractLsb' 3 8) (i.extractLsb' 0 3), (i.extractLsb' 0 3).toNat)
    | 21 => some (ga + s.g (w.extractLsb' 21 7), (w.extractLsb' 28 4).toNat)
    | 26 => some (ga + BitVec.ofInt 64 (8 * i.toInt), 7)
    | 27 | 31 => some (ga, 8)
    | _ => none

/-- Does an access of n bytes meet a store that the comparator holds? -/
def meetsHeld (hs : List HeldStore) (pa n : Nat) : Bool := hs.any fun h => decide (pa < h.pa + h.bytes.length ∧ h.pa < pa + n)

/-- R136. A load of the leading thread that meets a store it holds is served from the comparator; a full/empty or barrier
operation, or an access by another path, waits until the comparator has drained. None for any other. -/
def leadLoad (s : State) (t : ThreadId) (w : BitVec 32) : Option State :=
  let th := threadOf s t
  if th.held.isEmpty then none
  else match loadForm s w s.high with
  | none => none
  | some (ea, code) =>
    let n := if code < 7 then widthOf code else 8
    match access s t ea n n needLoad with
    | .remote pa _ _ => if meetsHeld th.held pa n then some (pairRest s t) else none
    | .self pa =>
      if !meetsHeld th.held (pa / 8 * 8) 8 then none
      else if code = 8 || acquireWaits s then some (pairRest s t)
      else
        let after := th.held.foldl performHeld s
        let d := pairTarget w s.high
        if poisoned after pa n then some (consumeError (noteRead s pa n) t)
        else
          let v := readBytes after pa n
          let s := if code = 7 then s.setGS d (BitVec.ofNat 64 (leNat v)) (tagAt after pa) else s.setG d (extendBy code (leNat v))
          let s := modThread s t fun th => perfAdd { th with pairDest := [d] } 1 1
          some (retire s (!w.getLsbD 0) 1)
    | _ => none

/-- R115. Does a trailing thread go on at a stop, until its pair's comparator has drained? -/
def drainsPair (s : State) (t : ThreadId) (th : Thread) : Bool :=
  match th.partner with
  | some p => leads p t && !(threadOf s p).held.isEmpty
  | none => false

/-! ## An issue of a pair -/

/-- What an issue of a pair's thread comes to: it goes on to be performed, or the thread waits, follows or
mismatches. -/
inductive PairAct where
  | go (s : State)
  | stay (s : State)

/-- R278. Does the trailing thread `t` stand at the instruction that the leading one has trapped on, with nothing of the
leading thread's before it left to take? A trap of the repetition buffer has no such place: its xpc names the REPRUN (R275). -/
def atTrap (s : State) (t p : ThreadId) : Bool :=
  let q := threadOf s p
  let pc := (threadOf s t).pc
  let at_ := if q.xcause = 10 then pcAfter pc false else pc
  !leads t p && (stReph q.status || decide (at_.setWidth 64 = q.xpc)) && q.lvq.isEmpty && q.held.isEmpty

/-- The trailing thread `t` takes the trap that the leading one has taken. -/
def trapAlike (s : State) (t p : ThreadId) : State :=
  let q := threadOf s p
  if stReph q.status then pairFollow s p t ((List.range 127).map fun i => BitVec.ofNat 7 (i + 1))
  else takeTrap s t (q.xpc.setWidth 57) ⟨q.xcause.toNat, q.xinfo⟩

/-- The value instruction of a pair's thread (R136). -/
def pairValue (s : State) (t p : ThreadId) (w : BitVec 32) : PairAct :=
  let th := threadOf s t
  let q := threadOf s p
  if leads t p then
    if 32 ≤ th.lvq.length then .stay (pairRest s t)
    else match leadLoad s t w with
    | some s => .stay s
    | none => .go (modThread s t fun th => { th with pairDest := [pairTarget w s.high] })
  else match q.lvq with
    | [] => .stay (pairRest s t)
    | (v, b) :: r =>
      let s := modThread s p fun q => { q with lvq := r }
      let s := if pairWaits q then reissue s p else s
      let s := modThread (setRegOf s t (pairTarget w s.high).toNat v b) t fun th => perfAdd th 1 1
      .stay (retire s (!w.getLsbD 0) 1)

/-- The effect of a pair's thread (R136). -/
def pairEffect (s : State) (t p : ThreadId) (w : BitVec 32) : PairAct :=
  let q := threadOf s p
  if leads t p then
    match leadStore s t p w with
    | some s => .stay s
    | none =>
      if !pairWaits q then .stay (pairPark s t)
      else if pairAgree s t p w s.high then .go (modThread s t fun th => { th with pairDest := 0 :: pairNames w s.high })
      else .stay (pairMismatch s t)
  else match trailStore s t p w with
    | some s => .stay s
    | none =>
      let s := pairRest s t
      .stay (if pairWaits q then reissue s p else s)

/-- R136. The issue of a thread that may belong to a pair. -/
def pairGate (s : State) (t : ThreadId) (w : BitVec 32) : PairAct :=
  let th := threadOf s t
  match th.partner with
  | none => .go s
  | some p =>
    let q := threadOf s p
    -- both take one trap at one instruction (R278)
    if stXm th.status && !stXm q.status then
      if pairWaits q && atTrap s p t then .stay (reissue (trapAlike s p t) t)
      else .stay (pairPark s t)
    -- an outcome that the trailing thread can learn only from the leading one
    else if !stXm th.status && stXm q.status && pairWaits q && atTrap s t p &&
        (decide (pairClass w s.high ≠ .inside) || decide (q.xcause = 3 ∨ q.xcause = 6) || stReph q.status) then
      .stay (reissue (trapAlike s t p) p)
    else if stXm th.status && stXm q.status && pairWaits q && decide (q.pc = th.pc) &&
        !decide (q.xpc = th.xpc ∧ q.xcause = th.xcause ∧ q.xinfo = th.xinfo) then .stay (pairMismatch s t)
    else
      -- the other may wait at the handler's first instruction until this thread has trapped too
      let s := if stXm th.status && stXm q.status && pairWaits q && decide (q.pc = th.pc) &&
          decide (th.pc = xvecBase s t.core + BitVec.ofNat 57 (256 * th.xcause.toNat)) then reissue s p else s
      match pairClass w s.high with
      | .inside => .go s
      | .value => pairValue s t p w
      | .effect => pairEffect s t p w

/-- R137. An effect has been held for 2^16 cycles: if it still is, it is a mismatch. -/
def execPairedHoldTimeout (t : ThreadId) (item : Nat) (s : State) : Out :=
  let th := threadOf s t
  .next (if (pairWaits th && decide (th.pairSince = item)) || th.held.any (fun h => decide (h.since = item)) then
      pairMismatch s t
    else s)

end Sys2Proof.Machine
end

