-- ==== Sys2Proof/Machine/Fetch.lean ====
section
/-! DEFINITION. Fetching (R171, R261), breakpoints (R149), what a halt, a gated clock and a stop leave of a core's issue
(R14, R15, R145), the turns of a cycle (R159, R182), and the events of the table as instructions. -/

namespace Sys2Proof.Machine

/-! ## Which cores issue (R12, R14, R15, R145, R147) -/

/-- The bit of a creel in PWR_MASK in force; fused-off and excluded creels read 0 (R29). -/
def maskBit (s : State) (k : CreelId) : Bool :=
  creelThere s k &&
    (s.power.mask.get (k.x / 64 + 2 * k.y) (BitVec.allOnes 64)).getLsbD (k.x % 64)

/-- Does any launch have a team on this creel (R86)? -/
def teamOn (s : State) (k : CreelId) : Bool :=
  s.teams.any fun (_, t) => decide (t.phase ≠ .waiting ∧ t.phase ≠ .saved ∧ t.phase ≠ .gone ∧ t.phase ≠ .kept) && inRect t k

/-- R15. Is an agenda entry the work of a creel's matrix units? -/
def matrixDue (c : CreelId) (d : Due) : Bool := match d.act with
  | .event (.matrixAccept x) => decide (x.creel = c)
  | .event (.matrixCommit x) => decide (x.creel = c)
  | _ => false

/-- R15, R16. The clocks of a creel's compute cores and matrix units are gated, once its bit is clear and no team is on it: what
the units have in hand keeps the time it has left. -/
def maskGate (s : State) (c : CreelId) : State :=
  if maskBit s c || teamOn s c || s.maskGated.any fun g => decide (g.1 = c) then s
  else { s with
    maskGated := s.maskGated ++ [(c, s.cyc, (s.agenda.filter (matrixDue c)).map fun d => { d with at_ := d.at_ - s.cyc })]
    agenda := s.agenda.filter fun d => !matrixDue c d }

/-- R16. Those clocks return. -/
def maskUngate (s : State) (c : CreelId) : State :=
  match s.maskGated.find? fun g => decide (g.1 = c) with
  | none => s
  | some (_, since, held) =>
    let n := s.cyc - since
    let late (r : MResult) : MResult :=
      { r with started := r.started + n, finish := if r.finish = 0 then 0 else r.finish + n }
    let s := { s with
      maskGated := s.maskGated.filter fun g => g.1 ≠ c
      cores := s.cores.map fun (k, q) => (k, if k.creel = c then { q with mrun := q.mrun.map late } else q) }
    held.foldl (fun s d => s.at (s.cyc + d.at_) d.act) s

/-- R11, R14, R15, R25. Does a core's clock run in this cycle? -/
def clocked (s : State) (c : CoreId) : Bool :=
  let p := s.power
  let control := c.isLengthsman && decide (c.die = 0)
  match p.state with
  | .off => false
  | .moored => false
  | .standby => decide (p.trans = .bringup ∧ 4 ≤ p.phase) && c.isLengthsman
  | .idle => control || decide (p.trans = .mooring ∧ p.goAt ≤ s.cyc) && (!c.isCompute || maskBit s c.creel || teamOn s c.creel)
  | .run =>
    control || decide (p.goAt ≤ s.cyc ∧ (p.trans = .toIdle → s.cyc < p.stopAt)) &&
      (!c.isCompute || maskBit s c.creel || teamOn s c.creel)

/-- R145. The ring distance between two cores of a creel. -/
def ringDelta (i j : Nat) : Nat :=
  let d := max i j - min i j
  min d (7 - d)

/-- R145, R147. Is a core stopped by a halt of its creel in this cycle? -/
def haltedNow (s : State) (c : CoreId) : Bool :=
  match (creelOf s c.creel).halt with
  | none => false
  | some h =>
    let d := ringDelta c.node h.ring
    (decide (h.h + d ≤ s.cyc) && (match h.resume with
      | none => true
      | some r => decide (s.cyc < r + d))) || (match h.prior with
      | some (r, ring) => decide (s.cyc < r + ringDelta c.node ring)
      | none => false)

/-- R145, R147, R148. Are the engines of a creel frozen by a halt: three cycles behind it, and not while a save stops the
creel's threads? -/
def enginesFrozen (s : State) (k : CreelId) : Bool :=
  match (creelOf s k).halt with
  | none => false
  | some h =>
    (decide (h.h + 3 ≤ s.cyc) && (match h.resume with
      | none => true
      | some r => decide (s.cyc < r + 3)) || (match h.prior with
      | some (r, _) => decide (s.cyc < r + 3)
      | none => false)) && s.threads.all fun (t, th) => decide (t.core.creel ≠ k) || !th.stopping

/-- R146. The skew of a halt is over: operations of several beats stand frozen where they are. -/
def haltSkewOver (s : State) (k : CreelId) : State :=
  match (creelOf s k).halt with
  | some h =>
    if s.cyc ≠ h.h + 2 then s
    else
      let mine := s.threads.filter fun (t, th) =>
        let stop := h.h + ringDelta t.core.node h.ring
        decide (t.core.creel = k) && (decide (th.wait = .run ∧ stop + 16 ≤ th.ready) ||
          (th.rep.running && decide (stop + 16 ≤ th.rep.due)))
      modCreel s k fun c => { c with halt := some { h with waits := mine.map fun (t, th) => (t, th.ready, th.rep.due) } }
  | none => s

/-- May this thread issue although its creel is halted, by a step (R147)? -/
def stepping (s : State) (t : ThreadId) : Bool :=
  match (creelOf s t.core.creel).halt with
  | some h => decide (h.step = some t)
  | none => false

/-- R182. Does the scalar side wait with its repetition buffer, for collision slots? -/
def bufferWaits (s : State) (th : Thread) : Bool := th.rep.running && !th.rep.wait && decide (s.cyc < th.rep.due)

/-- R115, R370, R392. Does a thread that is to stop complete the instruction it has begun, or drain its pair's comparator? -/
def completes (th : Thread) : Bool := th.stopping && (th.drains || (th.going && th.finishing))

/-- R115, R370, R392. Is a thread held from issuing by a stop? One whose instruction in progress completes first goes on. -/
def stopHeld (th : Thread) : Bool := th.stopping && !completes th

/-- R159. Does a slot's thread issue in this cycle? -/
def issues (s : State) (t : ThreadId) (th : Thread) : Bool :=
  decide (th.wait = .run ∧ th.ready ≤ s.cyc) && !stopHeld th && !bufferWaits s th && clocked s t.core &&
    (!haltedNow s t.core || stepping s t || completes th)

/-- R115. Does a repetition buffer stand between two iterations? -/
def betweenRuns (r : RepBuf) : Bool := decide (r.idx = 0 ∧ r.beat = 0) && !r.wait

/-- R182. Does its repetition buffer issue a beat? -/
def beats (s : State) (t : ThreadId) (th : Thread) : Bool :=
  th.rep.running && !th.rep.wait && !(th.stopping && betweenRuns th.rep) && decide (th.rep.due ≤ s.cyc) && decide (th.wait ≠ .halted ∧ (th.wait ≠ .stopped ∨ th.stopping = true)) &&
    clocked s t.core && (!haltedNow s t.core || th.stopping)

/-- Order of cores in a cycle: the model's own (DESIGN CHOICE, log 7). -/
def coreKey (c : CoreId) : Nat := (c.x * 64 + c.y) * 16 + c.node

/-- A turn put in its place. -/
def insertTurn (k : Nat) (v : Turn) : List (Nat × Turn) → List (Nat × Turn)
  | [] => [(k, v)]
  | (k', v') :: r => if k < k' then (k, v) :: (k', v') :: r else (k', v') :: insertTurn k v r

/-- The turns of a cycle: for each core the buffered beat of the slot whose cycle it is, then its issue. -/
def turnsOf (s : State) : List Turn :=
  let mine := s.threads.filter fun (t, _) => decide (t.slot = s.cyc % 16)
  let add := mine.foldl (fun acc (t, th) =>
    let acc := if beats s t th then insertTurn (2 * coreKey t.core) (.beat t) acc else acc
    if issues s t th then insertTurn (2 * coreKey t.core + 1) (.issue t) acc else acc) []
  add.map (·.2)

/-! ## The instruction cache (R171) -/

/-- The line that holds an address, in the space of a thread. -/
def lineFind (s : State) (c : CoreId) (asid : BitVec 16) (va : Nat) : Option Line :=
  (coreOf s c).icache.find? fun l => decide (l.asid = asid ∧ l.va = va / 64 * 64)

/-- Working ways of a core's instruction cache (R122, R125). -/
def icWays (s : State) (c : CoreId) : List Nat :=
  (List.range 4).filter fun w => !((capOf s c).ret.getLsbD (20 + w))

/-- The lines of a set. -/
def setLines (s : State) (c : CoreId) (va : Nat) : List Line :=
  (coreOf s c).icache.filter fun l => decide (l.va / 64 % 64 = va / 64 % 64)

/-- R171. A line installed: in a free working way of its set, or over the least recently used unlocked line. -/
def installLine (s : State) (c : CoreId) (asid : BitVec 16) (va : Nat) (bytes : List Byte) : State :=
  let inSet := setLines s c va
  let free := (icWays s c).filter fun w => !inSet.any fun l => decide (l.way = w)
  let fresh (w : Nat) : Line := ⟨asid, va / 64 * 64, w, s.cyc, none, bytes⟩
  match free with
  | w :: _ => modCore s c fun k => { k with icache := k.icache ++ [fresh w] }
  | [] =>
    let old := inSet.foldl (fun (b : Option Line) l =>
      if l.lock.isSome then b else match b with
        | none => some l
        | some m => if l.stamp < m.stamp then some l else some m) none
    match old with
    | some o => modCore s c fun k => { k with icache := (k.icache.erase o) ++ [fresh o.way] }
    | none => s

/-- A use of the line of an address noted (R171). -/
def touchLine (s : State) (c : CoreId) (asid : BitVec 16) (va : Nat) : State :=
  modCore s c fun k => { k with icache := k.icache.map fun l =>
    if l.asid = asid ∧ l.va = va / 64 * 64 then { l with stamp := s.cyc } else l }

/-- The bytes of the line that a thread's PC names: cached, or lent for one issue. -/
def lineBytes (s : State) (t : ThreadId) (th : Thread) : Option (List Byte) :=
  match lineFind s t.core th.asid th.pc.toNat with
  | some l => some l.bytes
  | none => match th.lent with
    | some (va, bs) => if va = th.pc.toNat / 64 * 64 then some bs else none
    | none => none

/-! ## Fetching -/

/-- The slot at an address within a line's bytes. -/
def slotIn (bytes : List Byte) (va : Nat) : BitVec 32 := BitVec.ofNat 32 (fieldAt bytes (va % 64 / 4 * 4) 4)

/-- R171, R54, R52. The line at an address is asked for on a thread's behalf: the thread waits for it from its home, read
with execute permission; a line of the self window comes from the store in the next cycle (DESIGN CHOICE, log 8). `at_` is the address
a trap names, `trap` takes it. -/
def fetchLine (s : State) (t : ThreadId) (th : Thread) (va at_ : Nat) (trap : Trap → State) : State :=
  let hold (s : State) : State := modThread s t fun th => { th with wait := .line va }
  if selfBase ≤ va then
    match selfPa s t.core (va - selfBase) 64 with
    | none => trap (trapTranslation 7 at_)
    | some pa => (hold s).after 1 (.event (.icacheLineFill t va pa (readBytes s pa 64) (if poisoned s pa 64 then 1 else 0)))
  else match translate s t th va needFetch with
    | .trap tr => trap { tr with info := tr.info - BitVec.ofNat 64 va + BitVec.ofNat 64 at_ }
    | .remote pa h leaf =>
      let q : MemReq := ⟨.fetch t va, s.token, 1, 0x40, 64, pteVer leaf, pteMig leaf, false, false, false, false, 0, pa,
        va, [], 0, false⟩
      ((hold (noteUse s t.core.creel th.asid va)).fresh).onLane (requestLane s q false) (1 + homeCycles t.core h) 1 (.event (requestEvent q))
    | .walk => startWalk { s with cur := t } t va true
    | .self _ => s
    | .halt _ => s

/-- R171. A miss of a thread's next slot. -/
def fetchMiss (s : State) (t : ThreadId) (th : Thread) : State :=
  fetchLine s t th (th.pc.toNat / 64 * 64) th.pc.toNat fun tr => takeTrap s t th.pc tr

/-! ## The locked lines of a static region (R171, R181, R346) -/

/-- The addresses of a region's lines. -/
def regionLines (r : Region) : List Nat := (List.range r.lines).map fun i => r.line + 64 * i

/-- R171. Can a region's lines be locked: 1 to 192 of them, and in every set at most one way fewer than the working ways,
those of other slots counted? -/
def lockFits (s : State) (t : ThreadId) (r : Region) : Bool :=
  let ways := (icWays s t.core).length
  let held := (coreOf s t.core).icache.filter fun l => match l.lock with
    | some n => decide (n ≠ t.slot)
    | none => false
  decide (1 ≤ r.lines ∧ r.lines ≤ 192) && (List.range 64).all fun i =>
    let mine := ((regionLines r).filter fun a => decide (a / 64 % 64 = i)).length
    let theirs := (held.filter fun l => decide (l.va / 64 % 64 = i)).length
    decide (mine = 0 ∨ mine + theirs + 1 ≤ ways)

/-- The lines of a slot released (R171). -/
def unlockLines (s : State) (t : ThreadId) : State :=
  let free (l : Line) : Line := if l.lock = some t.slot then { l with lock := none } else l
  modCore s t.core fun k => { k with icache := k.icache.map free }

/-- The lines of a region that are in the cache locked for a slot. -/
def lockPresent (s : State) (t : ThreadId) (asid : BitVec 16) (r : Region) : State :=
  let hold (l : Line) : Line :=
    if l.asid = asid ∧ r.line ≤ l.va ∧ l.va < r.line + 64 * r.lines then { l with lock := some t.slot } else l
  modCore s t.core fun k => { k with icache := k.icache.map hold }

/-- R346, R181. A region's lines locked, one fetched at a time: a state in which the thread waits or has trapped, or the
state with every line locked. -/
def lockStep (s : State) (t : ThreadId) (r : Region) : Except State State :=
  let th := threadOf s t
  let capacity (n : Nat) : State := takeTrap (unlockLines s t) t th.pc ⟨8, BitVec.ofNat 64 n⟩
  if r.banks ≠ (lsWorking (capOf s t.core)).length then .error (capacity 1)
  else if !lockFits s t r then .error (capacity 2)
  else
    let s := lockPresent s t th.asid r
    match (regionLines r).find? fun a => (lineFind s t.core th.asid a).isNone with
    | some a => .error (fetchLine s t th a a fun tr => takeTrap (unlockLines s t) t th.pc tr)
    | none => .ok s

/-! ## Breakpoints (R149) -/

/-- Does breakpoint i match the thread's next issue? Either thread of a pair is selected by either's slot, so that both take it
at the same instruction (R148); one that would halt a halted creel is a trigger that is ignored (R145). -/
def breakMatches (s : State) (t : ThreadId) (th : Thread) (cp : Bool) (i : Nat) : Bool :=
  let k := t.core.creel
  let ctl := dbgReg s k (0x38 + 8 * i)
  let high := th.pc.getLsbD 1
  let parcel := (ctl.extractLsb' 27 2).toNat
  let sel := dbgSelects ctl t th.asid || (match th.partner with | some p => dbgSelects ctl p th.asid | none => false)
  (dbgReg s k 0).getLsbD 0 && sel && !(ctl.getLsbD 24 && isHalted s k) &&
    decide ((dbgReg s k (0x18 + 8 * i)).extractLsb' 2 55 = th.pc.extractLsb' 2 55) &&
    (match parcel with
      | 0 => !high
      | 1 => cp && !high
      | 2 => cp && high
      | _ => false)

/-- The first breakpoint that matches. -/
def breakHit (s : State) (t : ThreadId) (th : Thread) (cp : Bool) : Option Nat :=
  if th.skipBreak || th.going || th.delay ≠ 0 then none else (List.range 4).find? fun i => breakMatches s t th cp i

/-! ## An issue -/

/-- What an issue turn comes to: an instruction to perform, or a state in which none is. -/
inductive Issue where
  | go (s : State)
  | done (s : State)

/-- The sentinel by which an uncorrectable error that a posted write met waits for the thread's next issue (R225). -/
def errorTrap : Trap := ⟨256, 0⟩

/-- R159, R149, R274. The issue of a thread: a trap that waits is taken; otherwise the slot is fetched, breakpoints are
matched, and the instruction stands ready in `word` and `high`. -/
def issueTurn (s : State) (t : ThreadId) : Issue :=
  let s := settle { s with cur := t, again := false, buffered := false } t
  let th := threadOf s t
  match th.trap with
  | some tr =>
    let s := modThread s t fun th => { th with trap := none }
    if tr = errorTrap then .done (consumeError s t) else .done (takeTrap s t th.pc tr)
  | none =>
    match (match th.region with
      | some r => if r.relock then lockStep s t r else .ok s
      | none => .ok s) with
    | .error s => .done s
    | .ok s =>
    let s := modThread s t fun th => { th with region := th.region.map fun r => { r with relock := false } }
    match lineBytes s t th with
    | none => .done (fetchMiss s t th)
    | some bytes =>
      let w := slotIn bytes th.pc.toNat
      match breakHit s t th (!w.getLsbD 0) with
      | some i =>
        if (dbgReg s t.core.creel (0x38 + 8 * i)).getLsbD 24 then .done (haltHere s 2 i)
        else .done (takeTrap s t th.pc ⟨9, (slotAddr th.pc).setWidth 64⟩)
      | none =>
        let s := (touchLine s t.core th.asid th.pc.toNat)
        let s := modThread s t fun th => { th with lent := none }
        let s := { s with word := w, high := th.pc.getLsbD 1 }
        match pairGate s t w with
        | .stay s => .done s
        | .go s => .go (if th.going || th.delay ≠ 0 then s else modThread s t fun th => perfAdd th 1 1)

/-- The parked instruction of a thread taken up again at the end of this cycle (R162), if it is parked before being
performed; a thread that waited for a walk of its fetch fetches again at its next issue. -/
def redoTurn (s : State) (t : ThreadId) : Issue :=
  let th := threadOf s t
  match th.wait with
  | .redo _ =>
    let s := modThread s t fun th => { th with wait := .run, ready := nextOwn s.cyc t.slot }
    (match th.parked with
    | some (w, h, b) => .go { s with cur := t, word := w, high := h, again := true, buffered := b }
    | none => .done s)
  | _ => .done s

/-! ## Events of the table as instructions -/

noncomputable section

/-- The instruction that an event is. -/
def Event.toInstr (e : Event) : Instr :=
  match e with
  | .moorReqRise => .moorReqRise
  | .moorReqFall => .moorReqFall
  | .powerGood => .powerGood
  | .supplyRemoved => .supplyRemoved
  | .bringupPhaseComplete r => .bringupPhaseComplete r
  | .pwrCmdStandby => .pwrCmdStandby
  | .pwrCmdWake => .pwrCmdWake
  | .pwrCmdIdle => .pwrCmdIdle
  | .pwrCmdRun => .pwrCmdRun
  | .pwrCmdMoor => .pwrCmdMoor
  | .pwrCmdResume => .pwrCmdResume
  | .pwrCmdInvalid c => .pwrCmdInvalid c
  | .standbyEntryComplete => .standbyEntryComplete
  | .idleEntryComplete => .idleEntryComplete
  | .runEntryComplete => .runEntryComplete
  | .pwrLimitWrite v => .pwrLimitWrite v
  | .pwrMaskWrite n v => .pwrMaskWrite n v
  | .powerWindowEnd watts => .powerWindowEnd watts
  | .moorEntryComplete => .moorEntryComplete
  | .moorEntryTimeout lost => .moorEntryTimeout lost
  | .resumptionComplete bad => .resumptionComplete bad
  | .dieLinkReplay edge link => .dieLinkReplay edge link
  | .dieLinkRetrain edge link => .dieLinkRetrain edge link
  | .dieLinkRetrainEnd edge link ok => .dieLinkRetrainEnd edge link ok
  | .ethFrameReceive port f => .ethFrameReceive port f
  | .pfcPauseReceive port prio pause => .pfcPauseReceive port prio pause
  | .arpRequest port ip => .arpRequest port ip
  | .neighbourSolicitation port ip => .neighbourSolicitation port ip
  | .ethLinkUp port => .ethLinkUp port
  | .ethCfgWrite port v => .ethCfgWrite port v
  | .ethHostPersist => .ethHostPersist
  | .ethHostPortWrite p => .ethHostPortWrite p
  | .modSelfWrite m => .modSelfWrite m
  | .walkEntryReply walk entry status => .walkEntryReply walk entry status
  | .tlbMigEntryExpiry c asid vpage size => .tlbMigEntryExpiry c asid vpage size
  | .tsdCtlShootdown t v => .tsdCtlShootdown t v
  | .shootdownReceive c sd => .shootdownReceive c sd
  | .shootdownCreelDone c sd => .shootdownCreelDone c sd
  | .shootdownCompletion t => .shootdownCompletion t
  | .migrationEpochEnd die => .migrationEpochEnd die
  | .migrationLineCopy die move => .migrationLineCopy die move
  | .migrationCommit die move => .migrationCommit die move
  | .migrationFrameRelease die ring frame => .migrationFrameRelease die ring frame
  | .migFreeWrite die ring v => .migFreeWrite die ring v
  | .migRbaseWrite die ring v => .migRbaseWrite die ring v
  | .towlineData session seq acknum ece m => .towlineData session seq acknum ece m
  | .towlineAck session acknum ece => .towlineAck session acknum ece
  | .towlineOpen session => .towlineOpen session
  | .towlineReset session => .towlineReset session
  | .towlineRetransmitTimeout session seq => .towlineRetransmitTimeout session seq
  | .regRead addr => .regRead addr
  | .regWrite addr v => .regWrite addr v
  | .fwWrite slot off data => .fwWrite slot off data
  | .fwActivate => .fwActivate
  | .noticeAck => .noticeAck
  | .launch rec => .launch rec
  | .bulkRead server pa len => .bulkRead server pa len
  | .bulkWrite server pa data => .bulkWrite server pa data
  | .getVersion => .getVersion
  | .getCapabilities => .getCapabilities
  | .negotiateAlgorithms => .negotiateAlgorithms
  | .getDigests => .getDigests
  | .getCertificate slot off len => .getCertificate slot off len
  | .challenge nonce => .challenge nonce
  | .getMeasurements index sign nonce => .getMeasurements index sign nonce
  | .spdmUnsupported code => .spdmUnsupported code
  | .fwuQuiesced => .fwuQuiesced
  | .fwuSigDone t => .fwuSigDone t
  | .fwuSigFail t => .fwuSigFail t
  | .fwuHandoverTimeout upd => .fwuHandoverTimeout upd
  | .fwHbWrite t seq => .fwHbWrite t seq
  | .fwuHeartbeatTimeout upd => .fwuHeartbeatTimeout upd
  | .teamPlacement k => .teamPlacement k
  | .queueExamination c => .queueExamination c
  | .gateTestReply c ring unit gate full => .gateTestReply c ring unit gate full
  | .dispatchEnterRotation t => .dispatchEnterRotation t
  | .stealRequest victim thief k => .stealRequest victim thief k
  | .stealReply thief victim k ring stamp pkt => .stealReply thief victim k ring stamp pkt
  | .stealBackoffExpiry c => .stealBackoffExpiry c
  | .doneSend c k => .doneSend c k
  | .doneReceive c k word => .doneReceive c k word
  | .preReqEstimate v => .preReqEstimate v
  | .preReqSave v => .preReqSave v
  | .preReqDiscard v => .preReqDiscard v
  | .preReqDrain v => .preReqDrain v
  | .preReqResume v => .preReqResume v
  | .preemptBoundaryStop k => .preemptBoundaryStop k
  | .saveComplete k => .saveComplete k
  | .snapshotMarker core ep => .snapshotMarker core ep
  | .teamRelaunch k => .teamRelaunch k
  | .restoreComplete k => .restoreComplete k
  | .retCtlRetire c v => .retCtlRetire c v
  | .sluiceStart c => .sluiceStart c
  | .sluiceWaitfitDone c => .sluiceWaitfitDone c
  | .sluicePinDone c => .sluicePinDone c
  | .sluiceUnitCopy c => .sluiceUnitCopy c
  | .bceWrite c reg v => .bceWrite c reg v
  | .errorCounterWrite die n v => .errorCounterWrite die n v
  | .pairedHoldTimeout t item => .pairedHoldTimeout t item
  | .fenceBoundary k => .fenceBoundary k
  | .fenceStop k => .fenceStop k
  | .fenceReset k => .fenceReset k
  | .boundaryNack m => .boundaryNack m
  | .nackReceive m => .nackReceive m
  | .dbgHalt c => .dbgHalt c
  | .dbgResume c => .dbgResume c
  | .dbgStep t => .dbgStep t
  | .dbgRegRead c off => .dbgRegRead c off
  | .dbgRegWrite c off v => .dbgRegWrite c off v
  | .dbgThreadRegRead t n => .dbgThreadRegRead t n
  | .dbgDumpTeam t level => .dbgDumpTeam t level
  | .dbgDumpCreel c => .dbgDumpCreel c
  | .haltCrossTrigger c => .haltCrossTrigger c
  | .debugResumePoint c => .debugResumePoint c
  | .debugStepComplete t => .debugStepComplete t
  | .sampleTick c => .sampleTick c
  | .slotStart t v => .slotStart t v
  | .chpoolWrite core v => .chpoolWrite core v
  | .statusWrite t v => .statusWrite t v
  | .devDataRead t d => .devDataRead t d
  | .devDataWrite t v => .devDataWrite t v
  | .registerWrite t n v => .registerWrite t n v
  | .bargeTake core => .bargeTake core
  | .handlerStart core ep => .handlerStart core ep
  | .icacheLineFill t va pa bytes status => .icacheLineFill t va pa bytes status
  | .repBufferBeat t => .repBufferBeat t
  | .wfeTimeout t since => .wfeTimeout t since
  | .userMessageArrival m => .userMessageArrival m
  | .connectMessage m => .connectMessage m
  | .acceptMessage m => .acceptMessage m
  | .creditReturn m => .creditReturn m
  | .delegateTransfer m => .delegateTransfer m
  | .taken m => .taken m
  | .redirect m => .redirect m
  | .redirected m => .redirected m
  | .fwdEnd m => .fwdEnd m
  | .closedNotice m => .closedNotice m
  | .inlineCodeRun core ep => .inlineCodeRun core ep
  | .memLoad q => .memLoad q
  | .memStore q => .memStore q
  | .memAtomic q => .memAtomic q
  | .memSubByteStore q => .memSubByteStore q
  | .memDestAdd q => .memDestAdd q
  | .memDestMin q => .memDestMin q
  | .memDestMax q => .memDestMax q
  | .memFullEmpty q => .memFullEmpty q
  | .memoryReply r => .memoryReply r
  | .waitCancel q => .waitCancel q
  | .waiterStoreResend q => .waiterStoreResend q
  | .treq m => .treq m
  | .twrite m => .twrite m
  | .tbye m => .tbye m
  | .autloadComplete t => .autloadComplete t
  | .enqRemoteArrival t k pkt => .enqRemoteArrival t k pkt
  | .enqAnswer t code => .enqAnswer t code
  | .engineCommandComplete c eng cmd => .engineCommandComplete c eng cmd
  | .matrixAccept core => .matrixAccept core
  | .matrixCommit core => .matrixCommit core
  | .mteamBlockArrival core blk => .mteamBlockArrival core blk
  | .mswapMessageArrival core m => .mswapMessageArrival core m
  | .bootDiscoveryFlood die v => .bootDiscoveryFlood die v
  | .bootImageFlood die v => .bootImageFlood die v
  | .floodFlitArrival c port f => .floodFlitArrival c port f
  | .floodAnswer die f => .floodAnswer die f
  | .imagePacketArrival c port f => .imagePacketArrival c port f
  | .imageAck die f => .imageAck die f
  | .discoveryWindowEnd die fnum => .discoveryWindowEnd die fnum
  | .imageWindowEnd die fnum => .imageWindowEnd die fnum
  | .illegalEncoding slot high => .illegalEncoding slot high
  | .softError site => .softError site
  | .ethLinkDown port => .ethLinkDown port
  | .towlineMooredReceive session => .towlineMooredReceive session

end

end Sys2Proof.Machine
end

