-- ==== Sys2Proof/Machine/LoadStore.lean ====
section
/-! DEFINITION. Loads, stores, register images, full/empty operations, sub-byte stores and atomics: majors 20 to 30
(R309 to R321), c.ld and c.st (R264), and CBLOAD (R300). -/

namespace Sys2Proof.Machine

/-! ## Self-window reads and writes (R310, R424) -/

/-- A self-window read of n bytes: an uncorrectable error in them is consumed (R138). -/
def selfRead (s : State) (pa n : Nat) (k : State → State) : State :=
  let s := noteRead s pa n
  if poisoned s pa n then consumeError s s.cur else k s

/-- A self-window write of n bytes: an uncorrectable unit it covers in part is consumed (R424). -/
def selfWrite (s : State) (pa n : Nat) (k : State → State) : State :=
  if partialPoison s pa n n then consumeError (noteRead s pa n) s.cur else k s

/-- The waits of R225 before an operation of acquire or release kind is performed or leaves. -/
def ordered (s : State) (acq rel : Bool) (k : State → State) : State :=
  if (rel && releaseWaits s) || (acq && acquireWaits s) then parkOn s .ack else k s

/-- A posted write leaves when fewer than eight are outstanding (R225). -/
def posting (s : State) (k : State → State) : State :=
  if 8 ≤ s.th.posted.length then parkOn s .ack else k s

/-! ## Loads (R311) -/

/-- A load of a width code from ea into g(d); `acq` for LDA. -/
def loadAt (s : State) (cp : Bool) (ea : Word) (code : Nat) (d : BitVec 7) (acq : Bool) : State :=
  let n := widthOf code
  withAccess s ea n n needLoad
    (fun s pa => ordered s acq false fun s => selfRead s pa n fun s =>
      doneSelf (s.setG d (extendBy code (leNat (readBytes s pa n)))) cp pa false)
    (fun s pa h leaf => ordered s acq false fun s =>
      parkReq s cp (mkReq s 1 (BitVec.ofNat 8 code) n pa ea.toNat leaf acq false [] 0 false) h (.load d code))

/-- R311. LD. -/
def execLd (o : BitVec 8) (w : BitVec 3) (a d : BitVec 7) (s : State) : Out :=
  issue s [a] [d] (okLoadWidth w.toNat) fun s => loadAt s false (s.g a + scaled o w) w.toNat d false

/-- R311. LDX: the offset is g(b), unscaled. -/
def execLdx (w : BitVec 4) (b a d : BitVec 7) (s : State) : Out :=
  issue s [a, b] [d] (okLoadWidth w.toNat) fun s => loadAt s false (s.g a + s.g b) w.toNat d false

/-- R311. LDA, acquire-kind. -/
def execLda (o : BitVec 8) (w : BitVec 3) (a d : BitVec 7) (s : State) : Out :=
  issue s [a] [d] (okLoadWidth w.toNat) fun s => loadAt s false (s.g a + scaled o w) w.toNat d true

/-- R264. c.ld: eight bytes. -/
def execCLd (a d : BitVec 5) (s : State) : Out :=
  issue s [r5 a] [r5 d] true fun s => loadAt s true (s.g (r5 a)) 6 (r5 d) false

/-! ## Stores (R312, R254) -/

/-- A store of the low n bytes of g(x) to ea; `rel` for STL. -/
def storeAt (s : State) (cp : Bool) (ea : Word) (n : Nat) (x : BitVec 7) (rel : Bool) : State :=
  let e := regOf s s.cur x.toNat
  let used := decide (4 ≤ n) && e.s
  withAccess s ea n n needStore
    (fun s pa => ordered s false rel fun s => selfWrite s pa n fun s =>
      let (v, fl) := storeImage s e n
      let s := performWrite (s.flags fl) pa (leBytes n v.toNat) false
      doneSelf (if used then s.usedSrd s.rm else s) cp pa true)
    (fun s pa h leaf => ordered s false rel fun s => posting s fun s =>
      let (v, fl) := storeImage s e n
      let s := s.flags fl
      let s := if used then s.usedSrd s.rm else s
      postReq s cp (mkReq s 2 (BitVec.ofNat 8 (2 * Nat.log2 n)) n pa ea.toNat leaf false rel (leBytes n v.toNat) 0 true) h)

/-- R312. ST. -/
def execSt (o : BitVec 8) (w : BitVec 3) (a x : BitVec 7) (s : State) : Out :=
  issue s [a, x] [] (okStoreWidth w.toNat) fun s => storeAt s false (s.g a + scaled o w) (widthOf w.toNat) x false

/-- R312. STL, release-kind. -/
def execStl (o : BitVec 8) (w : BitVec 3) (a x : BitVec 7) (s : State) : Out :=
  issue s [a, x] [] (okStoreWidth w.toNat) fun s => storeAt s false (s.g a + scaled o w) (widthOf w.toNat) x true

/-- R264. c.st: eight bytes. -/
def execCSt (a d : BitVec 5) (s : State) : Out :=
  issue s [r5 a, r5 d] [] true fun s => storeAt s true (s.g (r5 a)) 8 (r5 d) false

/-! ## Register images (R313) -/

/-- R313. SPILL: D as 8 bytes, S in the tag of quarter 0, the other tags zero. -/
def execSpill (i : BitVec 11) (a x : BitVec 7) (s : State) : Out :=
  issue s [a, x] [] true fun s =>
    let ea := s.g a + BitVec.ofInt 64 (8 * i.toInt)
    let e := regOf s s.cur x.toNat
    withAccess s ea 8 8 needStore
      (fun s pa => doneSelf (performWrite s pa (leBytes 8 e.d.toNat) e.s) false pa true)
      (fun s pa h leaf => posting s fun s =>
        postReq s false (mkReq s 2 6 8 pa ea.toNat leaf false false (leBytes 8 e.d.toNat) (if e.s then 1 else 0) true) h)

/-- R313. FILL: D from the 8 bytes, S from the tag of quarter 0. -/
def execFill (i : BitVec 11) (a d : BitVec 7) (s : State) : Out :=
  issue s [a] [d] true fun s =>
    let ea := s.g a + BitVec.ofInt 64 (8 * i.toInt)
    withAccess s ea 8 8 needLoad
      (fun s pa => selfRead s pa 8 fun s =>
        doneSelf (s.setGS d (readWord s pa) (tagAt s pa)) false pa false)
      (fun s pa h leaf => parkReq s false (mkReq s 1 6 8 pa ea.toNat leaf false false [] 0 false) h (.fill d))

/-! ## Full/empty operations (R314 to R316) -/

/-- A full/empty or barrier operation m at ea with argument `arg` (R315, R325, R326), completing by `k`. -/
def fullEmpty (s : State) (m : Nat) (ea arg : Word) (acq rel : Bool) (d : BitVec 7) (k : Compl) : State :=
  withAccess s ea 8 8 (feNeed m)
    (fun s pa => ordered s acq rel fun s => selfRead s pa 8 fun s =>
      match feTry s pa m arg with
      | some (s, v) => doneSelf (if k = .nothing then s else s.setG d v) false pa (decide (m ≠ 1 ∧ m ≠ 5 ∧ m ≠ 7))
      | none =>
        let s := { s with waiters := s.waiters ++ [Waiter.mk pa (waiterKind m) arg none (some s.cur)] }
        s.mod fun th => { th with wait := .reply k, req := none, next := pcAfter th.pc false })
    (fun s pa h leaf => ordered s acq rel fun s =>
      parkReq s false (mkReq s 8 (BitVec.ofNat 8 m) 8 pa ea.toNat leaf acq rel
        (if m = 2 || m = 3 || m = 7 then leBytes 8 arg.toNat else []) 0 false) h k)

/-- R315. LDFE; not inside a static region (R178). Its emptying is a release (R227), so it waits for posted writes as
R225 gives (DEDUCED, log 18). -/
def execLdfe (a d : BitVec 7) (s : State) : Out :=
  issue s [a] [d] s.free? fun s => fullEmpty s 0 (s.g a) 0 true true d (.word d)

/-- R315. LDFF; not inside a static region (R178). -/
def execLdff (a d : BitVec 7) (s : State) : Out :=
  issue s [a] [d] s.free? fun s => fullEmpty s 1 (s.g a) 0 true false d (.word d)

/-- R315. STEF; not inside a static region (R178). -/
def execStef (b a : BitVec 7) (s : State) : Out :=
  issue s [a, b] [] s.free? fun s => fullEmpty s 2 (s.g a) (s.g b) true true 0 .nothing

/-- R315. STFF. -/
def execStff (b a : BitVec 7) (s : State) : Out :=
  issue s [a, b] [] true fun s => fullEmpty s 3 (s.g a) (s.g b) false true 0 .nothing

/-- R315. FESET. -/
def execFeset (a : BitVec 7) (s : State) : Out :=
  issue s [a] [] true fun s => fullEmpty s 4 (s.g a) 0 false true 0 .nothing

/-- R315. FEPEEK. -/
def execFepeek (a d : BitVec 7) (s : State) : Out :=
  issue s [a] [d] true fun s => fullEmpty s 5 (s.g a) 0 false false d (.bit d)

/-! ## Sub-byte stores (R318) -/

/-- A nibble of g(b) stored to the low or high half of the byte at g(a). -/
def nibbleStore (s : State) (high : Bool) (b a : BitVec 7) : Out :=
  issue s [a, b] [] true fun s =>
    let ea := s.g a
    let v := (s.g b).extractLsb' 0 4
    withAccess s ea 1 1 needStore
      (fun s pa => selfWrite s pa 1 fun s => doneSelf (performNibble s pa high v) false pa true)
      (fun s pa h leaf => posting s fun s =>
        postReq s false (mkReq s 4 (if high then 0x11 else 0x10) 1 pa ea.toNat leaf false false
          [v.setWidth 8] 0 true) h)

/-- R318. SBST.lo. -/
def execSbstLo (b a : BitVec 7) (s : State) : Out := nibbleStore s false b a

/-- R318. SBST.hi. -/
def execSbstHi (b a : BitVec 7) (s : State) : Out := nibbleStore s true b a

/-! ## Atomics (R319 to R321) -/

/-- Atomic m (not AMOFADD) on the doubleword at g(a). -/
def atomic (s : State) (m : Nat) (acq rel : Bool) (b a d : BitVec 7) : Out :=
  issue s (if m = 7 then [a, b, d] else [a, b]) [d] true fun s =>
    let ea := s.g a
    withAccess s ea 8 8 needAtomic
      (fun s pa => ordered s acq rel fun s => selfRead s pa 8 fun s =>
        let (s', old) := atomicAt s pa m (s.g b) (s.g d)
        doneSelf (s'.setG d old) false pa true)
      (fun s pa h leaf => ordered s acq rel fun s =>
        parkReq s false (mkReq s 3 (BitVec.ofNat 8 m) 8 pa ea.toNat leaf acq rel
          (leBytes 8 (s.g b).toNat ++ (if m = 7 then leBytes 8 (s.g d).toNat else [])) 0 false) h (.word d))

/-- R320. AMOFADD on the W32 element at g(a). -/
def atomicAdd (s : State) (acq rel : Bool) (b a d : BitVec 7) : Out :=
  issue s [a, b] [d] true fun s =>
    let ea := s.g a
    let arg := s.h b
    withAccess s ea 4 4 needAtomic
      (fun s pa => ordered s acq rel fun s => selfRead s pa 4 fun s =>
        let (s', old, os, fl) := atomicFadd s pa arg
        doneSelf ((s'.setGS d (BitVec.ofNat 64 old) os).flags fl) false pa true)
      (fun s pa h leaf => ordered s acq rel fun s =>
        parkReq s false (mkReq s 3 8 4 pa ea.toNat leaf acq rel
          (leBytes 4 ((s.g b).toNat % 2 ^ 32)) (if s.gS b then 1 else 0) false) h (.pair d))

/-- R319. AMOADD. -/
def execAmoadd (b a d : BitVec 7) (s : State) : Out := atomic s 0 false false b a d

/-- R319. AMOAND. -/
def execAmoand (b a d : BitVec 7) (s : State) : Out := atomic s 1 false false b a d

/-- R319. AMOOR. -/
def execAmoor (b a d : BitVec 7) (s : State) : Out := atomic s 2 false false b a d

/-- R319. AMOXOR. -/
def execAmoxor (b a d : BitVec 7) (s : State) : Out := atomic s 3 false false b a d

/-- R319. AMOMIN. -/
def execAmomin (b a d : BitVec 7) (s : State) : Out := atomic s 4 false false b a d

/-- R319. AMOMAX. -/
def execAmomax (b a d : BitVec 7) (s : State) : Out := atomic s 5 false false b a d

/-- R319. AMOSWAP. -/
def execAmoswap (b a d : BitVec 7) (s : State) : Out := atomic s 6 false false b a d

/-- R319. AMOCAS. -/
def execAmocas (b a d : BitVec 7) (s : State) : Out := atomic s 7 false false b a d

/-- R320. AMOFADD. -/
def execAmofadd (b a d : BitVec 7) (s : State) : Out := atomicAdd s false false b a d

/-- R321. AMODF. -/
def execAmodf (b a d : BitVec 7) (s : State) : Out := atomic s 9 false true b a d

/-- R319. AMOADD.acq. -/
def execAmoaddAcq (b a d : BitVec 7) (s : State) : Out := atomic s 0 true false b a d

/-- R319. AMOAND.acq. -/
def execAmoandAcq (b a d : BitVec 7) (s : State) : Out := atomic s 1 true false b a d

/-- R319. AMOOR.acq. -/
def execAmoorAcq (b a d : BitVec 7) (s : State) : Out := atomic s 2 true false b a d

/-- R319. AMOXOR.acq. -/
def execAmoxorAcq (b a d : BitVec 7) (s : State) : Out := atomic s 3 true false b a d

/-- R319. AMOMIN.acq. -/
def execAmominAcq (b a d : BitVec 7) (s : State) : Out := atomic s 4 true false b a d

/-- R319. AMOMAX.acq. -/
def execAmomaxAcq (b a d : BitVec 7) (s : State) : Out := atomic s 5 true false b a d

/-- R319. AMOSWAP.acq. -/
def execAmoswapAcq (b a d : BitVec 7) (s : State) : Out := atomic s 6 true false b a d

/-- R319. AMOCAS.acq. -/
def execAmocasAcq (b a d : BitVec 7) (s : State) : Out := atomic s 7 true false b a d

/-- R320. AMOFADD.acq. -/
def execAmofaddAcq (b a d : BitVec 7) (s : State) : Out := atomicAdd s true false b a d

/-- R321. AMODF.acq. -/
def execAmodfAcq (b a d : BitVec 7) (s : State) : Out := atomic s 9 true true b a d

/-- R319. AMOADD.rel. -/
def execAmoaddRel (b a d : BitVec 7) (s : State) : Out := atomic s 0 false true b a d

/-- R319. AMOAND.rel. -/
def execAmoandRel (b a d : BitVec 7) (s : State) : Out := atomic s 1 false true b a d

/-- R319. AMOOR.rel. -/
def execAmoorRel (b a d : BitVec 7) (s : State) : Out := atomic s 2 false true b a d

/-- R319. AMOXOR.rel. -/
def execAmoxorRel (b a d : BitVec 7) (s : State) : Out := atomic s 3 false true b a d

/-- R319. AMOMIN.rel. -/
def execAmominRel (b a d : BitVec 7) (s : State) : Out := atomic s 4 false true b a d

/-- R319. AMOMAX.rel. -/
def execAmomaxRel (b a d : BitVec 7) (s : State) : Out := atomic s 5 false true b a d

/-- R319. AMOSWAP.rel. -/
def execAmoswapRel (b a d : BitVec 7) (s : State) : Out := atomic s 6 false true b a d

/-- R319. AMOCAS.rel. -/
def execAmocasRel (b a d : BitVec 7) (s : State) : Out := atomic s 7 false true b a d

/-- R320. AMOFADD.rel. -/
def execAmofaddRel (b a d : BitVec 7) (s : State) : Out := atomicAdd s false true b a d

/-- R321. AMODF.rel. -/
def execAmodfRel (b a d : BitVec 7) (s : State) : Out := atomic s 9 false true b a d

/-! ## CBLOAD (R300) -/

/-- The gathered bytes of a slot image, by load. -/
def slotImage (g : List (Nat × List Byte)) (base : Nat) : List Byte :=
  (List.range 16).flatMap fun i => ((g.find? fun x => x.1 = base + 64 * i).map (·.2)).getD (List.replicate 64 0)

/-- R249, R300. Codebook slot n written whole from a slot image: bits [12:3] zero, SYM kept in entry 0 only. -/
def writeSlot (s : State) (c : CoreId) (n : Nat) (image : List Byte) : State :=
  modCore s c fun k => { k with
    codebook := (List.range 256).foldl (fun m i =>
      let e := BitVec.ofNat 32 (fieldAt image (4 * i) 4)
      m.put (256 * n + i) (e &&& (if i = 0 then 0xFFFFE007#32 else 0xFFFFE003#32))) k.codebook }

/-- The loads of a CBLOAD outside the self window: each checked in order, then all sent. -/
def codebookLoads (s : State) (ea : Word) (n : Nat) : Nat → State → State
  | 0, acc => acc.mod fun th => { th with
      wait := .reply (.codebook n), next := pcAfter th.pc false, parked := none, req := none
      answer := some (BitVec.ofNat 64 s.token) }
  | k + 1, acc =>
    let va := ea + BitVec.ofNat 64 (64 * (15 - k))
    withAccess s va 64 64 needLoad
      (fun _ pa => codebookLoads s ea n k
        (acc.mod fun th => { th with gathered := th.gathered ++ [(va.toNat, readBytes s pa 64)] }))
      (fun _ pa h leaf =>
        let acc := noteUse acc acc.cur.core.creel acc.th.asid va.toNat
        codebookLoads s ea n k ((sendReq acc { mkReq acc 1 0x40 64 pa va.toNat leaf false false [] 0 false with tok := acc.token } h 0).fresh.mod
          fun th => { th with awaited := th.awaited + 1 }))

/-- R300. CBLOAD. -/
def execCbload (n : BitVec 2) (a : BitVec 7) (s : State) : Out :=
  issue s [a] [] true fun s =>
    let ea := s.g a
    let i := if s.th.going then s.th.gathered.length else 0
    if selfBase ≤ ea.toNat then
      -- load i at beat i
      let va := ea + BitVec.ofNat 64 (64 * i)
      withAccess s va 64 64 needLoad
        (fun s pa => selfRead s pa 64 fun s =>
          let (s, extra) := scalarRun s pa false
          let s := s.mod fun th => { th with
            gathered := (if i = 0 then [] else th.gathered) ++ [(va.toNat, readBytes s pa 64)] }
          if i < 15 then nextBeat s extra
          else retire (writeSlot s s.cur.core n.toNat (slotImage s.th.gathered ea.toNat)) false (1 + extra))
        (fun s _ _ _ => s)
    else codebookLoads s ea n.toNat 16 (s.mod fun th => { th with gathered := [], awaited := 0 })

end Sys2Proof.Machine
end

