-- ==== Sys2Proof/Machine/Flights.lean ====
section
/-! DEFINITION. Flights: the checks of an image (R187 to R190), its canonical form (R191), SHA-256 and the hashes
(R192), look-aheads (R193), the automaton store (R186, R425) and AUTLOAD's reading of an image (R335). -/

namespace Sys2Proof.Machine

/-! ## The parts of an image (R187 to R189) -/

/-- NSTATE. -/
def imStates (im : List Byte) : Nat := fieldAt im 6 2
/-- NSHAPE. -/
def imShapes (im : List Byte) : Nat := fieldAt im 8 1
/-- Bytes of an image by its header. -/
def imLen (im : List Byte) : Nat := 32 + 16 * imShapes im + 16 * imStates im
/-- The state records. -/
def imRecs (im : List Byte) : List (List Byte) := (List.range (imStates im)).map (stateRec im)

/-- Does a header give sizes that a flight may have? -/
def headerSizes (im : List Byte) : Bool := decide (1 ≤ imStates im ∧ imStates im ≤ 256 ∧ imShapes im ≤ 16)

/-- R177. The link formats allowed for an element format. -/
def linkAllowed (et lf : Nat) : Bool :=
  decide (lf = et) ||
  (match et with
  | 1 => decide (3 ≤ lf ∧ lf ≤ 7)
  | 2 => decide (lf = 3 ∨ (5 ≤ lf ∧ lf ≤ 7))
  | 3 => decide (5 ≤ lf ∧ lf ≤ 7)
  | 4 => decide (5 ≤ lf ∧ lf ≤ 7)
  | _ => false)

/-- Bits of an element of a format code of R188. -/
def formatBits (f : Nat) : Nat :=
  match f with
  | 1 => 32
  | 2 => 32
  | 9 => 32
  | 3 => 16
  | 4 => 16
  | 7 => 4
  | 11 => 4
  | _ => 8

/-- Are the bytes of a list from `off` on, n of them, zero? -/
def zeroAt (bs : List Byte) (off n : Nat) : Bool := decide (fieldAt bs off n = 0)

/-- R188. Is a shape entry within its ranges? -/
def shapeEntryOk (e : List Byte) : Bool :=
  match fieldAt e 0 1 with
  | 1 =>
    let et := fieldAt e 1 1
    let rank := fieldAt e 2 1
    let lf := fieldAt e 3 1
    decide (1 ≤ et ∧ et ≤ 11 ∧ 1 ≤ rank ∧ rank ≤ 4 ∧ lf ≤ 7) && (decide (lf = 0) || linkAllowed et lf) &&
      (List.range 4).all (fun d => decide (1 ≤ fieldAt e (4 + 2 * d) 2) && (decide (d < rank) || decide (fieldAt e (4 + 2 * d) 2 = 1))) &&
      zeroAt e 12 4
  | 2 => zeroAt e 1 7
  | _ => false

/-- R189. Is a state record within its ranges? -/
def stateOk (r : List Byte) (nshape : Nat) : Bool :=
  let k := fieldAt r 0 1
  let nb := recNb r
  let fl := fieldAt r 3 1
  let msg := decide (1 ≤ k ∧ k ≤ 4)
  decide (1 ≤ k ∧ k ≤ 6 ∧ fl ≤ 3) &&
    (if k = 1 ∨ k = 2 ∨ k = 5 then decide (nb = 1) else if k = 3 ∨ k = 4 then decide (2 ≤ nb ∧ nb ≤ 4) else decide (nb = 0)) &&
    (if fl = 0 then decide (recShape r = 0) else msg && decide (recShape r < nshape)) &&
    (if msg then decide (1 ≤ recMaxfl r ∧ recMaxfl r ≤ 65) else decide (recMaxfl r = 0)) &&
    (recBranches r).all (fun b => if k = 5 then decide (b.1 = 0) else if recDel r then decide (b.1 = 0xF8) else decide (b.1 ≤ 0xF7)) &&
    zeroAt r (6 + 2 * nb) (8 - 2 * nb) && zeroAt r 14 2

/-- Check 1 of R190. -/
def imRanges (im : List Byte) : Bool :=
  decide (fieldAt im 0 4 = 0x464C4754 ∧ fieldAt im 4 2 = 1) && headerSizes im && zeroAt im 9 23 &&
    (List.range (imShapes im)).all (fun i => shapeEntryOk (shapeEntry im i)) && (imRecs im).all fun r => stateOk r (imShapes im)

/-- Check 4 of R190: the flags and the kind of the entry named. -/
def entryKindOk (im : List Byte) (r : List Byte) : Bool :=
  let k := fieldAt (shapeEntry im (recShape r)) 0 1
  !(recShaped r && recDel r) && (!recShaped r || decide (k = 1)) && (!recDel r || decide (k = 2))

/-- The elements of a tile entry. -/
def tileCount (e : List Byte) : Nat := ((List.range 4).map fun d => fieldAt e (4 + 2 * d) 2).foldl (· * ·) 1

/-- The link format a tile entry's payload is written in: LFMT, or ET. -/
def tileFormat (e : List Byte) : Nat := if fieldAt e 3 1 = 0 then fieldAt e 1 1 else fieldAt e 3 1

/-- The payload bytes of a tile entry. -/
def tileBytes (e : List Byte) : Nat := (tileCount e * formatBits (tileFormat e) + 7) / 8

/-- The payload bytes of n flits (R197). -/
def flitPayload (n : Nat) : Nat := if n = 0 then 0 else 40 + 64 * (n - 1)

/-- The states left after removing, n times, those without a successor among them. -/
def prune (succ : Nat → List Nat) : Nat → List Nat → List Nat
  | 0, l => l
  | n + 1, l => prune succ n (l.filter fun v => (succ v).any fun w => l.contains w)

/-- The next states of a state. -/
def succOf (im : List Byte) (v : Nat) : List Nat := (recBranches (stateRec im v)).map (·.2)

/-- Check 7 of R190: no cycle of LOOP states with states of one kind. -/
def cyclesOk (im : List Byte) : Bool :=
  let ofKind (p : Nat → Bool) := (List.range (imStates im)).filter fun v =>
    let k := recKind (stateRec im v)
    decide (k = 5) || p k
  (prune (succOf im) (imStates im) (ofKind sendKind)).isEmpty && (prune (succOf im) (imStates im) (ofKind recvKind)).isEmpty

/-! ## The canonical form (R191) -/

/-- A state's branches in increasing label order, along LOOPs. -/
def sortedBranches (im : List Byte) (v : Nat) : List (Nat × Nat) :=
  ((recBranches (stateRec im v)).foldl (fun l b => insertBy (·.1) b l) []).map fun b => (b.1, passLoops im 256 b.2)

/-- Breadth-first order from the states found so far, the i-th being visited next. -/
def breadthFirst (im : List Byte) : Nat → Nat → List Nat → List Nat
  | 0, _, l => l
  | fuel + 1, i, l =>
    match l[i]? with
    | none => l
    | some v => breadthFirst im fuel (i + 1)
        ((sortedBranches im v).foldl (fun l b => if l.contains b.2 then l else l ++ [b.2]) l)

/-- The states of a flight in canonical order. -/
def canonOrder (im : List Byte) : List Nat := breadthFirst im (imStates im) 0 [passLoops im 256 0]

/-- The canonical number of a state. -/
def canonNumber (im : List Byte) (v : Nat) : Nat := (canonOrder im).idxOf v

/-- The state of a canonical number. -/
def canonState (im : List Byte) (n : Nat) : Nat := (canonOrder im).getD n 0

/-- The kind in the dual form: SEND and RECV exchanged, OFFER and SELECT exchanged (R192). -/
def dualKind (k : Nat) : Nat :=
  match k with
  | 1 => 2
  | 2 => 1
  | 3 => 4
  | 4 => 3
  | k => k

/-- The 32 bytes of a canonical state. -/
def canonRec (im : List Byte) (order : List Nat) (dual : Bool) (v : Nat) : List Byte :=
  let r := stateRec im v
  let k := recKind r
  let br := (sortedBranches im v).flatMap fun b => [BitVec.ofNat 8 b.1, BitVec.ofNat 8 (order.idxOf b.2)]
  let head : List Byte := [BitVec.ofNat 8 (if dual then dualKind k else k), 0, BitVec.ofNat 8 (recNb r),
    BitVec.ofNat 8 (fieldAt r 3 1), 0, BitVec.ofNat 8 (recMaxfl r)]
  head ++ (br ++ List.replicate (8 - br.length) 0) ++ [0, 0] ++
    (if recShaped r || recDel r then shapeEntry im (recShape r) else List.replicate 16 0)

/-- R191, R192. The canonical or the dual form. -/
def canonForm (im : List Byte) (dual : Bool) : List Byte :=
  let order := canonOrder im
  [1, 0] ++ leBytes 2 order.length ++ [0, 0, 0, 0] ++ order.flatMap (canonRec im order dual)

/-! ## SHA-256 (R192; FIPS 180-4) -/

/-- The largest number of `bits` more bits below `r` whose `k`-th power does not exceed `n`. -/
def rootOn (k n : Nat) : Nat → Nat → Nat
  | 0, r => r
  | bits + 1, r => rootOn k n bits (if (r + 2 ^ bits) ^ k ≤ n then r + 2 ^ bits else r)

/-- The first 32 bits of the fractional part of the `k`-th root of a prime, which is where the constants of SHA-256 come from. -/
def rootFraction (k prime : Nat) : BitVec 32 := BitVec.ofNat 32 (rootOn k (prime * 2 ^ (32 * k)) 37 0)

/-- The first 64 primes. -/
def firstPrimes : List Nat :=
  [2, 3, 5, 7, 11, 13, 17, 19, 23, 29, 31, 37, 41, 43, 47, 53] ++ [59, 61, 67, 71, 73, 79, 83, 89, 97] ++
  [101, 103, 107, 109, 113, 127, 131, 137, 139, 149, 151, 157, 163, 167, 173, 179, 181, 191, 193, 197, 199] ++
  [211, 223, 227, 229, 233, 239, 241, 251, 257, 263, 269, 271, 277, 281, 283, 293, 307, 311]

/-- The round constants: of the cube roots of the first 64 primes. -/
def shaK : List (BitVec 32) := firstPrimes.map (rootFraction 3)

/-- The initial hash value: of the square roots of the first 8 primes. -/
def shaInit : List (BitVec 32) := (firstPrimes.take 8).map (rootFraction 2)

/-- The sum of a word's rotations right by the listed counts, each bit modulo 2. -/
def turnsSum (x : BitVec 32) (counts : List Nat) : BitVec 32 := counts.foldl (fun z n => z ^^^ x.rotateRight n) 0

/-- The message schedule extended by some words, the latest word first. -/
def shaSchedule : Nat → List (BitVec 32) → List (BitVec 32)
  | 0, w => w
  | more + 1, w =>
    let back (n : Nat) := w.getD (n - 1) 0
    let early := turnsSum (back 15) [7, 18] ^^^ back 15 >>> 3
    let late := turnsSum (back 2) [17, 19] ^^^ back 2 >>> 10
    shaSchedule more ((back 16 + back 7 + early + late) :: w)

/-- One round on the eight working variables: they move up one place, the fourth taking the new sum with it. -/
def shaRound (v : List (BitVec 32)) (kw : BitVec 32 × BitVec 32) : List (BitVec 32) :=
  let x (n : Nat) := v.getD n 0
  let choice := x 6 ^^^ (x 4 &&& (x 5 ^^^ x 6))
  let most := (x 0 &&& x 1) ||| (x 2 &&& (x 0 ||| x 1))
  let sum := kw.1 + kw.2 + x 7 + turnsSum (x 4) [6, 11, 25] + choice
  ((turnsSum (x 0) [2, 13, 22] + most + sum) :: v.take 7).modify 4 (· + sum)

/-- Big-endian words of a block. -/
def beWords : Nat → List Byte → List (BitVec 32)
  | 0, _ => []
  | n + 1, bs => BitVec.ofNat 32 (leNat (bs.take 4).reverse) :: beWords n (bs.drop 4)

/-- One block. -/
def shaBlock (h : List (BitVec 32)) (block : List Byte) : List (BitVec 32) :=
  let w := (shaSchedule 48 (beWords 16 block).reverse).reverse
  h.zipWith (· + ·) ((shaK.zip w).foldl shaRound h)

/-- The padded message. -/
def shaPad (m : List Byte) : List Byte :=
  let zeros : List Byte := List.replicate ((119 - m.length % 64) % 64) 0
  m ++ 0x80 :: (zeros ++ (leBytes 8 (8 * m.length)).reverse)

/-- SHA-256. -/
def sha256 (m : List Byte) : List Byte :=
  let p := shaPad m
  ((chunks 64 (p.length / 64) p).foldl shaBlock shaInit).flatMap fun w => (leBytes 4 w.toNat).reverse

/-- R192. HOWN or DHASH of a form. -/
def formHash (form : List Byte) : Word := BitVec.ofNat 64 (fieldAt (sha256 form) 0 8)

/-! ## Look-aheads (R193) -/

/-- The greatest number of states of a kind in a row from a state. -/
def runFrom (im : List Byte) (p : Nat → Bool) : Nat → Nat → Nat
  | 0, _ => 0
  | fuel + 1, v =>
    if p (recKind (stateRec im v)) then
      1 + ((sortedBranches im v).map fun b => runFrom im p fuel b.2).foldl max 0
    else 0

/-- LIN or LOUT. -/
def lookAhead (im : List Byte) (p : Nat → Bool) : Nat :=
  let order := canonOrder im
  (order.map (runFrom im p order.length)).foldl max 0

/-- MAXIN or MAXOUT. -/
def maxFlits (im : List Byte) (p : Nat → Bool) : Nat :=
  ((canonOrder im).map fun v => if p (recKind (stateRec im v)) then recMaxfl (stateRec im v) else 0).foldl max 0

/-- R190. The number of the first check an image fails, or 0. -/
def imageCheck (im : List Byte) : Nat :=
  let rs := imRecs im
  if !imRanges im then 1
  else if rs.any fun r => decide (((recBranches r).map (·.1)).eraseDups.length ≠ (recBranches r).length) then 2
  else if rs.any fun r => (recBranches r).any fun b => decide (imStates im ≤ b.2) then 3
  else if !rs.all (entryKindOk im) then 4
  else if rs.any fun r => recDel r && decide (recKind r ≠ 1 ∧ recKind r ≠ 2) then 5
  else if rs.any fun r => recShaped r && decide (flitPayload (recMaxfl r) < tileBytes (shapeEntry im (recShape r))) then 6
  else if !cyclesOk im then 7
  else if 4096 < lookAhead im recvKind * maxFlits im recvKind ∨ 4096 < lookAhead im sendKind * maxFlits im sendKind then 8
  else 0

/-! ## The automaton store (R186) -/

/-- The flight an image makes at an offset. -/
def flightFrom (s : State) (t : ThreadId) (im : List Byte) (off : Nat) : Flight :=
  { valid := true, off := off, len := im.length, lin := lookAhead im recvKind, lout := lookAhead im sendKind
    maxin := maxFlits im recvKind, maxout := maxFlits im sendKind, hown := formHash (canonForm im false)
    dhash := formHash (canonForm im true), image := im, loader := some t
    launch := (threadOf s t).key.map (·.lslot) }

/-- The first gap of n bytes between the flights of a store, in increasing offset. -/
def firstGap (n : Nat) : Nat → List (Nat × Nat) → Option Nat
  | at_, [] => if at_ + n ≤ 57344 then some at_ else none
  | at_, (o, l) :: r => if at_ + n ≤ o then some at_ else firstGap n (max at_ (o + l)) r

/-- Valid flights of a store, by number. -/
def loaded (s : State) (k : CreelId) : List (Nat × Flight) := (creelOf s k).flights.filter fun (_, f) => f.valid

/-- R186, R335. An image placed first-fit in a store: its number, or none when no space or number is free. -/
def placeFlight (s : State) (t : ThreadId) (k : CreelId) (im : List Byte) : Option (State × Nat) :=
  let fs := loaded s k
  match fs.find? fun (_, f) => decide (f.image = im) with
  | some (n, f) => 
      let f' : Flight := { f with loader := some t, launch := (threadOf s t).key.map (·.lslot) }
      some (modCreel s k fun c => { c with flights := c.flights.put n f' }, n)
  | none =>
    let used := (fs.foldl (fun l (_, f) => insertBy (·.1) (f.off, f.len) l) [])
    match firstGap im.length 0 used, (List.range 32).find? fun n => !fs.any fun (m, _) => decide (m = n) with
    | some off, some n => some (modCreel s k fun c => { c with flights := c.flights.put n (flightFrom s t im off) }, n)
    | _, _ => none

/-- R335. The cycles the store takes over an image once it is read. -/
def formCycles (im : List Byte) : Nat :=
  16 + 4 * imStates im +
    (if imageCheck im = 0 then 160 * (((canonForm im false).length + 9 + 63) / 64) else 0)

/-! ## AUTLOAD (R335) -/

/-- The result word of a channel instruction (R333). -/
def resultWord (rcode rtype rlen rinfo : Nat) : Word :=
  BitVec.ofNat 8 rcode ++ BitVec.ofNat 8 rtype ++ BitVec.ofNat 16 rlen ++ BitVec.ofNat 32 rinfo

/-- An image has been read whole: the store takes it in order of arrival. -/
def imageRead (s : State) (t : ThreadId) (d : BitVec 7) (im : List Byte) : State :=
  let k := t.core.creel
  let first := (creelOf s k).loading.isEmpty
  let s := modCreel s k fun c => { c with loading := c.loading ++ [⟨t, d, im⟩] }
  if first then s.after (formCycles im) (.event (.autloadComplete t)) else s

/-- The lines or parts of lines from an address on, n bytes of them. -/
def linePieces : Nat → Nat → Nat → List (Nat × Nat)
  | 0, _, _ => []
  | fuel + 1, va, n =>
    if n = 0 then [] else
    let k := min n (64 - va % 64)
    (va, k) :: linePieces fuel (va + k) (n - k)

/-- R335. The rest of an image of a remote page is requested, once its header has come; a page not in the translation
cache is walked at once (DESIGN CHOICE, log 6). -/
def restRequests (s : State) (t : ThreadId) : List (Nat × Nat) → Except Trap State
  | [] => .ok s
  | (va, n) :: r =>
    let th := threadOf s t
    let send (s : State) (pa : Nat) (h : Home) (leaf : Word) : State :=
      let q : MemReq := ⟨.slot t, s.token, 1, 0x40, n, pteVer leaf, pteMig leaf, false, false, false, false, 0, pa, va, [], 0, false⟩
      modThread ((s.fresh).onLane (requestLane s q false) (1 + homeCycles t.core h) 1 (.event (requestEvent q))) t fun th =>
        perfAdd { th with awaited := th.awaited + 1 } 4 1
    let k := t.core.creel
    match translate s t th va needLoad with
    | .remote pa h leaf => restRequests (send (noteUse s k th.asid va) pa h leaf) t r
    | .trap tr => .error tr
    | .walk =>
      (match lookUp s k th.asid th.root.toNat va with
      | .error c => .error (trapTranslation c va)
      | .ok (s, e) =>
        match throughLeaf s t th va needLoad e.leaf (e.pa va) with
        | .remote pa h leaf => restRequests (send s pa h leaf) t r
        | .trap tr => .error tr
        | _ => restRequests s t r)
    | _ => restRequests s t r

/-- The bytes gathered from an address, piece by piece in increasing address. -/
def gatheredBytes (g : List (Nat × List Byte)) : List Byte :=
  (g.foldl (fun l x => insertBy (·.1) x l) []).flatMap (·.2)

/-- R335. A part of an image has come: after the header the rest is asked for; after the last part the store takes it. -/
def flightReply (s : State) (t : ThreadId) (d : BitVec 7) (va : Nat) (header : Bool) (at_ : Nat) (data : List Byte) : State :=
  if header then
    let s := modThread s t fun th => { th with
      gathered := [(va, data)], awaited := 0, req := none, answer := some (BitVec.ofNat 64 s.token)
      wait := .reply (.flight d va false) }
    if !headerSizes data then imageRead s t d data
    else match restRequests s t (linePieces 70 (va + 32) (imLen data - 32)) with
      | .ok s => s
      | .error tr => trapLater s t tr
  else
    let s := modThread s t fun th => { th with gathered := th.gathered ++ [(at_, data)], awaited := th.awaited - 1 }
    let th := threadOf s t
    if th.awaited = 0 then imageRead s t d (gatheredBytes th.gathered) else s

/-- R335. AUTLOAD. -/
def execAutload (a : BitVec 7) (s : State) : Out :=
  issue s [a] [a] s.free? fun s =>
    let ea := s.g a
    withAccess s ea 32 32 needLoad
      (fun s pa => selfRead s pa 32 fun s =>
        let head := readBytes s pa 32
        let n := if headerSizes head then imLen head else 32
        match selfPa s s.cur.core (ea.toNat - selfBase) n with
        | none => raise s (trapTranslation 7 ea.toNat)
        | some pa => selfRead s pa n fun s =>
          let im := readBytes s pa n
          let s' := s.mod fun th => { th with
            wait := .reply (.flight a ea.toNat false), next := pcAfter th.pc false, gathered := [(ea.toNat, im)], awaited := 0 }
          imageRead s' s.cur a im)
      (fun s pa h leaf => parkReq s false (mkReq s 1 0x40 32 pa ea.toNat leaf false false [] 0 false) h (.flight a ea.toNat true))

/-- R335. The store has finished with an image: the flight stands in it, or the image is refused, or no space fits; the
next image is taken. -/
def execAutloadComplete (t : ThreadId) (s : State) : Out :=
  let k := t.core.creel
  .next (match (creelOf s k).loading with
  | [] => s
  | l :: r =>
    if l.thread ≠ t then s
    else
      let s := modCreel s k fun c => { c with loading := r }
      let s := match r with
        | m :: _ => s.after (formCycles m.image) (.event (.autloadComplete m.thread))
        | [] => s
      let (s, w) := match imageCheck l.image with
        | 0 => (match placeFlight s t k l.image with
          | some (s, n) => (s, resultWord 0 0 0 n)
          | none => (s, resultWord 0x11 0 0 0))
        | n => (s, resultWord 0x10 0 0 (256 * n))
      match (threadOf s t).wait with
      | .reply (.flight _ _ _) => release (setRegOf s t l.d.toNat w false) t
      | _ => s)

end Sys2Proof.Machine
end

