-- ==== Sys2Proof/Machine/Stream.lean ====
section
/-! DEFINITION. Streams: shape records (R349 to R352), stream registers and their binding (R353 to R356), the element a
walk position names (R357, R358), runs (R359), and how an element is read and formed (R350, R361). -/

namespace Sys2Proof.Machine

/-! ## Element types (R350) -/

/-- Width in memory, in bits. -/
def etBits (et : Nat) : Nat :=
  if et = 1 ∨ et = 2 ∨ et = 9 ∨ et = 14 then 32
  else if et = 3 ∨ et = 4 then 16
  else if et = 7 ∨ et = 11 ∨ et = 12 then 4
  else 8

/-- Does memory hold S with an element of the type? -/
def etTagged (et : Nat) : Bool := decide (1 ≤ et ∧ et ≤ 4)
/-- The floating class. -/
def etFloating (et : Nat) : Bool := decide ((1 ≤ et ∧ et ≤ 7) ∨ et = 10 ∨ et = 11)
/-- The integer class. -/
def etInteger (et : Nat) : Bool := decide (et = 8 ∨ et = 9 ∨ (12 ≤ et ∧ et ≤ 14))

/-- The precision q that a value read from an element of the type counts with (R245; DEDUCED, log 25). -/
def etQ (et : Nat) : Nat := if et = 2 ∨ et = 4 then 11 else if et = 3 then 8 else 24

/-- R250, R350. Are the selectors of FMT legal for an element type? -/
def etSelector (fmt : Word) (et : Nat) : Bool :=
  if et = 10 then decide (fmtSelector fmt 8 ≤ 3) else if et = 11 then decide (fmtSelector fmt 4 ≤ 3) else true

/-- The exact value of an element of a floating or scale type. -/
def etDecode (s : State) (c : CoreId) (fmt : Word) (et v : Nat) : Num :=
  match et with
  | 1 => decodeW32 (BitVec.ofNat 32 v)
  | 2 => decodeW19 (BitVec.ofNat 32 v)
  | 3 => decodeBf16 (BitVec.ofNat 16 v)
  | 4 => decodeFp16 (BitVec.ofNat 16 v)
  | 5 => decodeE4m3 v
  | 6 => decodeE5m2 v
  | 7 => decodeE2m1 v
  | 10 => decodeCb (slotOf s c (fmtSelector fmt 8)) 8 v
  | 11 => decodeCb (slotOf s c (fmtSelector fmt 4)) 4 v
  | 15 => decodeE8m0 v
  | _ => .nan

/-- The exact value of an element of an integer type. -/
def etInteger? (et v : Nat) : Int := if et = 13 ∨ et = 14 then (v : Int) else signedOf (etBits et) v

/-- The range of an integer type. -/
def etRange (et : Nat) : Int × Int :=
  let w := etBits et
  if et = 13 ∨ et = 14 then (0, 2 ^ w - 1) else (-(2 ^ (w - 1)), 2 ^ (w - 1) - 1)

/-! ## Shape records (R349, R351, R352) -/

/-- A list of four fields of n bytes. -/
def four (bs : List Byte) (off n : Nat) : List Nat := (List.range 4).map fun d => fieldAt bs (off + n * d) n

/-- A shape record as read. -/
def shapeOf (bs : List Byte) : Shape :=
  { et := fieldAt bs 0 1, rank := fieldAt bs 1 1, flags := fieldAt bs 2 1, idim := fieldAt bs 3 1
    ext := four bs 4 2, str := (four bs 0xC 4).map (signedOf 32), tagx := BitVec.ofNat 32 (fieldAt bs 0x1C 4)
    org := (four bs 0x20 2).map (signedOf 16), clo := (four bs 0x28 2).map (signedOf 16)
    chi := (four bs 0x30 2).map (signedOf 16), idxoff := fieldAt bs 0x38 4, distoff := fieldAt bs 0x3C 4 }

/-- IDXV. -/
def Shape.idxv (h : Shape) : Bool := decide (h.flags % 2 = 1)
/-- DISTV. -/
def Shape.distv (h : Shape) : Bool := decide (h.flags / 2 % 2 = 1)
/-- CLAMPV. -/
def Shape.clampv (h : Shape) : Bool := decide (h.flags / 4 % 2 = 1)
/-- T. -/
def Shape.total (h : Shape) : Nat := h.ext.foldl (· * ·) 1

/-- R349, R351. Is the record valid, its descriptor apart? -/
def shapeOk (h : Shape) : Bool :=
  let unused (d : Nat) : Bool := decide (h.rank ≤ d)
  decide (1 ≤ h.et ∧ h.et ≤ 15 ∧ 1 ≤ h.rank ∧ h.rank ≤ 4 ∧ h.flags < 8 ∧ h.idim < h.rank) &&
    (List.range 4).all (fun d =>
      decide (1 ≤ h.ext.getD d 0) && (!unused d || decide (h.ext.getD d 0 = 1 ∧ h.str.getD d 0 = 0 ∧ h.org.getD d 0 = 0 ∧
        h.clo.getD d 0 = 0 ∧ h.chi.getD d 0 = 0)) && (!h.clampv || decide (h.clo.getD d 0 ≤ h.chi.getD d 0))) &&
    decide (h.idxoff < 2 ^ 20 ∧ h.idxoff % 4 = 0 ∧ h.distoff < 2 ^ 20 ∧ h.distoff % 8 = 0 ∧ h.total < 2 ^ 32)

/-- A descriptor as read. -/
def distOf (bs : List Byte) : List Shard :=
  (List.range 4).map fun d =>
    let w := fieldAt bs (0x10 + 4 * d) 4
    ⟨fieldAt bs (4 * d) 4, w % 4, w / 4 % 2, w / 256 % 256, w / 65536⟩

/-- R352. Is a descriptor of so many dimensions valid? -/
def distOk (bs : List Byte) (rank : Nat) : Bool :=
  (List.range 4).all fun d =>
    let w := fieldAt bs (0x10 + 4 * d) 4
    let g := fieldAt bs (4 * d) 4
    if d < rank then decide (1 ≤ g ∧ w / 8 % 32 = 0 ∧ 1 ≤ w / 256 % 256 ∧ w / 256 % 256 ≤ 128 ∧ 1 ≤ w / 65536)
    else decide (g = 1 ∧ w = 0)

/-! ## Stream registers (R353) -/

/-- zN of the current thread. -/
def State.z (s : State) (n : Nat) : ZReg := s.th.z.getD n ZReg.unbound

/-- zN of the current thread changed. -/
def State.modZ (s : State) (n : Nat) (f : ZReg → ZReg) : State :=
  s.mod fun th => { th with z := th.z.set n (f (th.z.getD n ZReg.unbound)) }

/-- A stream advanced by n elements; at its T it returns to 0 (R360). -/
def State.advance (s : State) (n k : Nat) : State :=
  s.modZ n fun z => { z with zpos := (z.zpos + k) % max 1 z.shape.total }

/-! ## What stops a beat -/

/-- Why a beat is not performed. -/
inductive Bad where
  | trap (t : Trap)
  /-- A watchpoint that halts the creel (R150). -/
  | halt (j : Nat)
  /-- An uncorrectable error met by an access of n bytes at pa (R138). -/
  | poison (pa n : Nat)
  deriving DecidableEq, Repr

/-- n bytes at a self-window address of a thread's core: their physical address, or TRANSLATION with cause 7. -/
def windowPa (s : State) (t : ThreadId) (va n : Nat) : Except Bad Nat :=
  if va < selfBase ∨ 2 ^ 57 ≤ va then .error (.trap (trapTranslation 7 va))
  else match selfPa s t.core (va - selfBase) n with
    | some pa => .ok pa
    | none => .error (.trap (trapTranslation 7 va))

/-- A watchpoint that n bytes at va match (R150). -/
def watched (s : State) (t : ThreadId) (va n : Nat) (write : Bool) : Except Bad Unit :=
  match watchHit s t (threadOf s t) va n (!write) write with
  | none => .ok ()
  | some j => if (dbgReg s t.core.creel (0x68 + 8 * j)).getLsbD 24 then .error (.halt j)
    else .error (.trap ⟨11, BitVec.ofNat 64 va⟩)

/-! ## The element of a walk position (R357, R358) -/

/-- The element coordinates of a walk position, dimension 0 innermost. -/
def digits : List Nat → Nat → List Nat
  | [], _ => []
  | e :: r, p => p % max 1 e :: digits r (p / max 1 e)

/-- The issuing creel's coordinate in its innermost team along an axis; 0 without a team (R352). -/
def teamCoord (s : State) (t : ThreadId) (axis : Nat) : Nat :=
  match teamRect s (threadOf s t) with
  | some r => if axis = 0 then t.core.x - r.x else t.core.y - r.y
  | none => 0

/-- R352. The global coordinate of a local one; none where it maps outside by its sign. -/
def globalCoord (s : State) (t : ThreadId) (h : Shard) (ext : Nat) (c : Int) : Option Int :=
  let sh : Int := (teamCoord s t h.axis % max 1 h.nsh : Nat)
  match h.kind with
  | 0 => some c
  | 1 => some (sh * ext + c)
  | 2 => some (c * h.nsh + sh)
  | _ =>
    let b : Int := (max 1 h.blk : Nat)
    if c < 0 then none else some ((c / b * h.nsh + sh) * b + c % b)

/-- The global coordinates of an element inside the global extents; none when OUTSIDE. -/
def globalCoords (s : State) (t : ThreadId) (z : ZReg) (c : List Int) : Option (List Int) :=
  (List.range 4).mapM fun d =>
    let h := z.dist.getD d ⟨1, 0, 0, 0, 0⟩
    match globalCoord s t h (z.shape.ext.getD d 1) (c.getD d 0) with
    | some g => if 0 ≤ g ∧ g < h.gext then some g else none
    | none => none

/-- R352. The global linear index of an element. -/
def globalIndex (z : ZReg) (g : List Int) : Int :=
  let e (d : Nat) : Int := ((z.dist.getD d ⟨1, 0, 0, 0, 0⟩).gext : Nat)
  g.getD 0 0 + e 0 * (g.getD 1 0 + e 1 * (g.getD 2 0 + e 2 * g.getD 3 0))

/-- Where a walk position leads: nowhere, or to a half-byte address in the self window with its physical half-byte
address; and the index-tensor entry read on the way, as a physical half-byte address. -/
structure Got where
  place : Option (Nat × Nat)
  idx : Option Nat
  deriving DecidableEq, Repr

/-- The coordinates of a position after index tensor and override. -/
def walkCoords (s : State) (t : ThreadId) (z : ZReg) (p : Nat) (k : Option Int) : Except Bad (List Int × Option Nat) := do
  let h := z.shape
  let i := digits h.ext p
  let c : List Int := (List.range 4).map fun d => ((i.getD d 0 : Nat) : Int) + h.org.getD d 0
  let (c, idx) ←
    if h.idxv then
      let va := selfBase + h.idxoff + 4 * i.getD h.idim 0
      watched s t va 4 false
      let pa ← windowPa s t va 4
      if poisoned s pa 4 then .error (.poison pa 4)
      else pure (c.set h.idim ((leNat (readBytes s pa 4) : Nat) : Int), some (2 * pa))
    else pure (c, none)
  pure (match k with | some v => c.set h.idim v | none => c, idx)

/-- R357. Element(z, p, kind, k), with the checks of R358. -/
def reach (s : State) (t : ThreadId) (z : ZReg) (write : Bool) (p : Nat) (k : Option Int) : Except Bad Got := do
  let h := z.shape
  let (c, idx) ← walkCoords s t z p k
  let nowhere : Got := ⟨none, idx⟩
  if h.distv && (globalCoords s t z c).isNone then return nowhere
  let inBox := (List.range 4).all fun d => decide (h.clo.getD d 0 ≤ c.getD d 0 ∧ c.getD d 0 ≤ h.chi.getD d 0)
  if h.clampv && write && !inBox then return nowhere
  let c := if h.clampv then (List.range 4).map fun d => min (h.chi.getD d 0) (max (h.clo.getD d 0) (c.getD d 0)) else c
  let n := ((List.range 4).map fun d => c.getD d 0 * h.str.getD d 0).foldl (· + ·) 0
  let nib : Int := 2 * (z.zbase.toNat : Int) + n * ((etBits h.et / 4 : Nat) : Int)
  let va : Nat := (nib / 2 % 2 ^ 57).toNat
  let bytes := max 1 (etBits h.et / 8)
  watched s t va bytes write
  let pa ← (if nib < 2 * (selfBase : Int) ∨ (2 : Int) ^ 58 ≤ nib then .error (.trap (trapTranslation 7 va)) else windowPa s t va bytes)
  pure ⟨some ((nib % 2 ^ 58).toNat, 2 * pa + (nib % 2).toNat), idx⟩

/-! ## Runs (R359) -/

/-- The starts of the runs of a stream's accesses in walk order, as half-byte addresses: `cur` is the current run's start
and the last element's start and end. -/
def runStarts (read : Bool) : Option (Nat × Nat × Nat) → List (Nat × Nat) → List Nat
  | _, [] => []
  | none, (a, n) :: r => a :: runStarts read (some (a, a, a + n)) r
  | some (st, ps, pe), (a, n) :: r =>
    if (a = pe ∨ (read ∧ a = ps)) ∧ st ≤ a ∧ a + n ≤ st + 128 then runStarts read (some (st, a, a + n)) r
    else a :: runStarts read (some (a, a, a + n)) r

/-- The runs of a stream's beat: port and whether written. -/
def streamRuns (s : State) (t : ThreadId) (bits : Nat) (write : Bool) (gs : List Got) : List (Nat × Bool) :=
  let elems := gs.filterMap fun g => g.place.map fun p => (p.2, bits / 4)
  let idx := gs.filterMap fun g => g.idx.map fun a => (a, 8)
  (runStarts (!write) none elems).map (fun a => (portOf s t.core (a / 2), write)) ++
    (runStarts true none idx).map (fun a => (portOf s t.core (a / 2), false))

/-! ## Reading elements -/

/-- An element as read: none when OUTSIDE, which reads as exact zero (R358). -/
abbrev Elem := Option (Nat × Bool)

/-- The bits and tag at a place. -/
def elemAt (s : State) (et : Nat) (g : Got) : Except Bad Elem :=
  match g.place with
  | none => .ok none
  | some (_, a) =>
    let pa := a / 2
    let bytes := max 1 (etBits et / 8)
    if poisoned s pa bytes then .error (.poison pa bytes)
    else
      let v := leNat (readBytes s pa bytes)
      .ok (some (if etBits et = 4 then v / 16 ^ (a % 2) % 16 else v, etTagged et && tagAt s pa))

/-- Elements of a stream at walk positions, with their runs. -/
def readElems (s : State) (t : ThreadId) (z : ZReg) (ps : List (Nat × Option Int)) :
    Except Bad (List Elem × List (Nat × Bool)) := do
  let gs ← ps.mapM fun (p, k) => reach s t z false p k
  let es ← gs.mapM (elemAt s z.shape.et)
  pure (es, streamRuns s t (etBits z.shape.et) false gs)

/-- The next n positions of a stream that returns to 0 at its T (R360). -/
def nextPositions (z : ZReg) (off n : Nat) : List (Nat × Option Int) :=
  (List.range n).map fun j => ((z.zpos + off + j) % max 1 z.shape.total, none)

/-- The held value of an element. -/
def elemPair (s : State) (t : ThreadId) (et : Nat) (e : Elem) : Pair :=
  match e with
  | none => .zero
  | some (v, b) =>
    let x := etDecode s t.core (threadOf s t).fmt et v
    ⟨x, match x with | .nan => false | _ => b⟩

/-- The integer value of an element. -/
def elemInt (et : Nat) (e : Elem) : Int :=
  match e with
  | none => 0
  | some (v, _) => etInteger? et v

/-! ## Forming elements (R361) -/

/-- A value to be written: held, with the precision q it counts with and the flags of its forming; an integer; or bits
carried unchanged. -/
inductive VVal where
  | held (p : Pair) (q : Nat) (fl : Flags)
  | int (i : Int) (fl : Flags) (rounded : Bool)
  | raw (v : Nat) (tag : Bool)
  deriving DecidableEq, Repr

/-- The rounding mode of an rc field for the walk in progress. -/
def walkMode (th : Thread) (rc : Nat) : Nat := if rc = 0 then th.vrm else if rc = 1 then 0 else 2

/-- The SRD draw of a destination walk position. -/
def walkDraw (th : Thread) (p : Nat) : Nat := srdBits th.seed th.task th.vsrdc p

/-- A floating format of an element type, with its encoder. -/
def etFmt (et : Nat) : Fmt × (Num → Nat) :=
  match et with
  | 2 => (.w19, fun x => (encodeW32 x).toNat)
  | 3 => (.bf16, fun x => (encodeBf16 x).toNat)
  | 4 => (.fp16, fun x => (encodeFp16 x).toNat)
  | _ => (.w32, fun x => (encodeW32 x).toNat)

/-- The code width and slot by which types 5, 6, 7, 10 and 11 are encoded. -/
def etSlot (s : State) (c : CoreId) (fmt : Word) (et : Nat) : Nat × Slot :=
  match et with
  | 5 => (8, builtinSlot 4)
  | 6 => (8, builtinSlot 5)
  | 7 => (4, builtinSlot 6)
  | 10 => (8, slotOf s c (fmtSelector fmt 8))
  | _ => (4, slotOf s c (fmtSelector fmt 4))

/-- R361. FinalRound of a held value into an element type, or EncodeCB: bits and flags. -/
def roundInto (s : State) (c : CoreId) (fmt : Word) (et mode t8 q : Nat) (p : Pair) : Nat × Flags :=
  if etTagged et then
    let (f, enc) := etFmt et
    let (x, fl) := finalRound f mode q t8 p
    (enc x, fl)
  else
    let (w, sl) := etSlot s c fmt et
    encodeCb sl w mode t8 p

/-- An element as formed: bits, tag, flags, and whether a final rounding was made. -/
structure Formed where
  bits : Nat
  tag : Bool
  fl : Flags
  rounded : Bool
  deriving DecidableEq, Repr

/-- R361. The element of a destination type for a value, under rc, at a walk position. -/
def formElem (s : State) (t : ThreadId) (et rc p : Nat) (v : VVal) : Formed :=
  let th := threadOf s t
  let held (x : Pair) (q : Nat) (fl : Flags) : Formed :=
    if rc = 3 then
      let (f, enc) := etFmt et
      let (r, fl') := roundOdd f x.x false
      let b := match r.x with | .nan => false | _ => r.s || x.s
      ⟨enc r.x, b, fl ||| fl' ||| flagIf (b && decide (q < 24 ∧ et = 1)) flagPREC, false⟩
    else
      let (n, fl') := roundInto s t.core th.fmt et (walkMode th rc) (walkDraw th p) q x
      ⟨n, false, fl ||| fl', true⟩
  match v with
  | .raw n b => ⟨n, b, 0, false⟩
  | .held x q fl =>
    if etInteger et then
      -- a floating value never reaches an integer element but through VCVT
      ⟨0, false, fl, false⟩
    else held x q fl
  | .int i fl rounded =>
    if etInteger et then ⟨(i % 2 ^ etBits et).toNat, false, fl, rounded⟩
    else
      let (r, fl') := roundOdd .w32 (.ofInt i) false
      held r 24 (fl ||| fl')

/-! ## Writing elements (R358) -/

/-- One element written at its place. -/
def putElem (s : State) (et : Nat) (g : Got) (e : Formed) : State :=
  match g.place with
  | none => s
  | some (_, a) =>
    if etBits et = 4 then performNibble s (a / 2) (decide (a % 2 = 1)) (BitVec.ofNat 4 e.bits)
    else performWrite s (a / 2) (leBytes (etBits et / 8) e.bits) e.tag

/-- The first of the places, if any, that falls in part of an uncorrectable unit (R424): its address and width. -/
def putsPoison (s : State) (et : Nat) (gs : List Got) : Option (Nat × Nat) :=
  let n := max 1 (etBits et / 8)
  gs.findSome? fun g => match g.place with
    | none => none
    | some (_, a) => if partialPoison s (a / 2) n n then some (a / 2, n) else none

/-! ## Binding (R354 to R356) -/

/-- R354. The shape record at an offset, with its descriptor, checked in the order of R354; `tail` are the checks of the
base, last. `legal` lays ZBINDC's further demands on the record. -/
def readShape (s : State) (t : ThreadId) (off : Nat) (legal : Shape → Bool) : Except Bad (Shape × List Shard × List (Nat × Bool)) := do
  if off % 64 ≠ 0 then throw (.trap (trapAlign (selfBase + off)))
  watched s t (selfBase + off) 64 false
  let pa ← windowPa s t (selfBase + off) 64
  if poisoned s pa 64 then throw (.poison pa 64)
  let h := shapeOf (readBytes s pa 64)
  let run := (portOf s t.core pa, false)
  let bad : Bad := .trap (trapIllegal s)
  if !(shapeOk h && legal h) then throw bad
  if !h.distv then return (h, [], [run])
  watched s t (selfBase + h.distoff) 32 false
  let da ← windowPa s t (selfBase + h.distoff) 32
  if poisoned s da 32 then throw (.poison da 32)
  let ds := readBytes s da 32
  if !distOk ds h.rank then throw bad
  return (h, distOf ds, [run, (portOf s t.core da, false)])

/-- R353. A bound stream register after a restoration: the record and the descriptor are read again from `ZSHP`; one that is
no longer valid, or cannot be read, leaves it unbound. -/
def shapeAgain (s : State) (t : ThreadId) (z : ZReg) : ZReg :=
  let legal (h : Shape) : Bool := z.zm = 1 || decide (h.flags = 0 ∧ h.tagx = 0 ∧ h.et ≠ 15)
  if z.zm = 0 then z
  else match selfPa s t.core z.zshp 64 with
  | none => ZReg.unbound
  | some pa =>
    let h := shapeOf (readBytes s pa 64)
    if poisoned s pa 64 || !(shapeOk h && legal h) then ZReg.unbound
    else if !h.distv then { z with shape := h, dist := [] }
    else match selfPa s t.core h.distoff 32 with
    | none => ZReg.unbound
    | some da =>
      let ds := readBytes s da 32
      if poisoned s da 32 || !distOk ds h.rank then ZReg.unbound else { z with shape := h, dist := distOf ds }

/-- What stops a beat of the current thread, taken. -/
def badly (s : State) (b : Bad) : State :=
  match b with
  | .trap t => raise s t
  | .halt j => haltIssue s 3 j
  | .poison pa n => consumeError (noteRead s pa n) s.cur

/-- R182. A V-form, and every instruction that waits as one, waits in its place while a repetition run is in flight. -/
def afterRun (s : State) (body : State → State) : State :=
  if s.th.rep.running && !s.buffered then holdIssue s else body s

/-- R354. ZBIND. -/
def execZbind (b a : BitVec 7) (n : BitVec 3) (s : State) : Out :=
  issue s [a, b] [] true fun s => afterRun s fun s =>
    let base := (s.g a).toNat
    let off := (s.g b).toNat % 2 ^ 20
    match readShape s s.cur off (fun _ => true) with
    | .error e => badly s e
    | .ok (h, ds, runs) =>
      let w := max 1 (etBits h.et / 8)
      if base % w ≠ 0 then raise s (trapAlign base)
      else match windowPa s s.cur base w with
        | .error e => badly s e
        | .ok _ =>
          let s' := s.modZ n.toNat fun _ => ⟨1, 0, 0, false, off, BitVec.ofNat 57 base, 0, h, ds⟩
          retire s' false (1 + runCost runs + portCost s runs)

/-- R355. ZBINDC. -/
def execZbindc (b a : BitVec 7) (n : BitVec 3) (s : State) : Out :=
  issue s [a, b] [] true fun s => afterRun s fun s =>
    let ep := (s.g a).toNat % 64
    let ty := (s.g a).extractLsb' 8 8
    let off := (s.g b).toNat % 2 ^ 20
    match readShape s s.cur off (fun h => decide (h.flags = 0 ∧ h.tagx = 0 ∧ h.et ≠ 15)) with
    | .error e => badly s e
    | .ok (h, ds, runs) =>
      let e := epOf s s.cur.core ep
      if e.est = .free ∨ e.slot ≠ s.cur.slot then raise s (trapProtocol 1 ep)
      else
        let s' := s.modZ n.toNat fun _ => ⟨2, ep, ty, false, off, 0, 0, h, ds⟩
        retire s' false (1 + runCost runs + portCost s runs)

/-- R356. The word ZSTAT reads. -/
def zstatWord (z : ZReg) : Word :=
  BitVec.ofNat 2 z.zm ++ BitVec.ofNat 6 z.zep ++ z.ztype ++ 0#15 ++ BitVec.ofBool z.ztag ++ BitVec.ofNat 32 z.zpos

/-- R356. ZSTAT. -/
def execZstat (n : BitVec 3) (d : BitVec 7) (s : State) : Out :=
  issue s [] [d] true fun s => afterRun s fun s => retire (s.setG d (zstatWord (s.z n.toNat))) false 1

end Sys2Proof.Machine
end

