-- ==== Sys2Proof/Machine/Sync.lean ====
section
/-! DEFINITION. Fences, phase barriers, mailboxes, the message queue and tags: major 31 (R322 to R329). -/

namespace Sys2Proof.Machine

/-! ## The message queue (R175) -/

/-- MKIND of an entry. -/
def MqEntry.kind (e : MqEntry) : Nat := (e.lo.extractLsb' 0 8).toNat
/-- The oldest entry of a slot (R175, R328). -/
def oldestEntry (s : State) (c : CoreId) (slot : Nat) : Option MqEntry :=
  (coreOf s c).queue.find? fun e => decide (e.slot = slot)

/-- An entry removed; one that waited for room enters. -/
def removeEntry (s : State) (c : CoreId) (e : MqEntry) : State :=
  admitWaiting (modCore s c fun k => { k with queue := k.queue.erase e }) c

/-! ## Fences (R322, R323) -/

/-- A fence that waits for every earlier posted write of the slot (R225). -/
def fence (s : State) (body : State → State) : Out :=
  issue s [] [] true fun s => ordered s false true fun s => retire (body s) false 1

/-- R322. FENCE.ACQ: every earlier read has completed already (R225). -/
def execFenceAcq (s : State) : Out := issue s [] [] true fun s => retire s false 1

/-- R322. FENCE.REL. -/
def execFenceRel (s : State) : Out := fence s id

/-- R322. FENCE.FULL. -/
def execFenceFull (s : State) : Out := fence s id

/-- Slots of a core with a line fill in flight. -/
def fillingSlots (s : State) (c : CoreId) : List Nat :=
  (s.threads.filter fun (t, th) => decide (t.core = c) && (match th.wait with | .line _ => true | _ => false)).map
    fun x => x.1.slot

/-- R323. Every unlocked line of a core's instruction cache discarded; fills in flight are not installed. -/
def discardLines (s : State) (c : CoreId) : State :=
  let filling := fillingSlots s c
  modCore s c fun k => { k with icache := k.icache.filter fun l => l.lock.isSome, noInstall := filling }

/-- R323. IFENCE. -/
def execIfence (s : State) : Out := fence s fun s => discardLines s s.cur.core

/-! ## Phase barriers (R325, R326) -/

/-- R325. BARRIVE, release-kind. -/
def execBarrive (a d : BitVec 7) (s : State) : Out :=
  issue s [a] [d] true fun s => fullEmpty s 6 (s.g a) 0 false true d (.word d)

/-- R326. BWAIT, acquire-kind; not inside a static region (R178). -/
def execBwait (b a : BitVec 7) (s : State) : Out :=
  issue s [a, b] [] s.free? fun s => fullEmpty s 7 (s.g a) (s.g b) true false 0 .nothing

/-! ## Mailboxes (R172, R327) -/

/-- A mailbox of a core. -/
def mboxOf (s : State) (c : CoreId) (n : Nat) : Mailbox := (coreOf s c).mbox.get n Mailbox.initial

/-- A mailbox changed; the change is visible from the next cycle, when it serves a waiter (R327). -/
def setMbox (s : State) (c : CoreId) (n : Nat) (m : Mailbox) : State :=
  (modCore s c fun k => { k with mbox := k.mbox.put n m }).after 1 (.mailbox c n)

/-- R327. MBPUT: release-kind; waits for EMPTY. -/
def execMbput (n : BitVec 4) (a : BitVec 7) (s : State) : Out :=
  issue s [a] [] s.free? fun s => ordered s false true fun s =>
    if (mboxOf s s.cur.core n.toNat).full then parkOn s (.mailbox n.toNat false)
    else retire (setMbox s s.cur.core n.toNat ⟨s.g a, true, s.cur.slot⟩) false 1

/-- R327. MBGET: acquire-kind; waits for FULL. -/
def execMbget (n : BitVec 4) (d : BitVec 7) (s : State) : Out :=
  issue s [] [d] s.free? fun s => ordered s true false fun s =>
    let m := mboxOf s s.cur.core n.toNat
    if m.full then retire (setMbox (s.setG d m.value) s.cur.core n.toNat { m with full := false }) false 1
    else parkOn s (.mailbox n.toNat true)

/-- Does the barge slot of a core serve this mailbox, FULL as it is (R173)? -/
def bargeServes (s : State) (c : CoreId) (n : Nat) : Bool :=
  c.isCompute && decide (n < 15) && (coreOf s c).bargeSel.getLsbD n && (mboxOf s c n).full

/-- R327. The change of a mailbox serves the waiter whose own slot comes first; the barge slot counts as one. WFEs
of the core wake when it is FULL (R304). -/
def serveMailbox (s : State) (c : CoreId) (n : Nat) : State :=
  let full := (mboxOf s c n).full
  let s := if full then wake s c fun k => match k with | .event _ => true | _ => false else s
  let waiting := s.threads.filter fun (t, th) => decide (t.core = c) && (match th.wait with
    | .redo (.mailbox m f) => decide (m = n) && (f == full)
    | _ => false)
  let best := waiting.foldl (fun (b : Option ThreadId) (t, _) =>
    match b with
    | none => some t
    | some u => if nextOwn s.cyc t.slot < nextOwn s.cyc u.slot then some t else some u) none
  let barge := bargeServes s c n
  match best with
  | some t => if barge && decide (nextOwn s.cyc 15 < nextOwn s.cyc t.slot) then s.at s.cyc (.event (.bargeTake c))
    else s.at s.cyc (.redo t)
  | none => if barge then s.at s.cyc (.event (.bargeTake c)) else s

/-! ## The message queue (R328) -/

/-- R328. WAITMSG; not inside a static region (R178). -/
def execWaitmsg (s : State) : Out :=
  issue s [] [] s.free? fun s =>
    match oldestEntry s s.cur.core s.cur.slot with
    | some _ => retire s false 1
    | none => parkOn s .queue

/-- R328. MSGPOP: two beats, a register in each; the entry leaves at the end of the second. With d = 0 no register is
written. -/
def execMsgpop (d : BitVec 7) (s : State) : Out :=
  issue s [] (if d = 0 then [] else [d, d + 1]) (okMsgpop d && s.free?) fun s =>
    let e := oldestEntry s s.cur.core s.cur.slot
    if !s.th.going then
      -- whether an entry was there is fixed by the first beat
      (nextBeat (s.setG d ((e.map (·.lo)).getD 0)) 0).mod fun th => { th with answer := e.map (·.lo) }
    else
      let e := if s.th.answer.isSome then e else none
      let s := if d = 0 then s else s.setG (d + 1) ((e.map (·.hi)).getD 0)
      retire (match e with | some e => removeEntry s s.cur.core e | none => s) false 1

/-! ## Tags (R329) -/

/-- R329. TAGSET: the low four bytes of the metadata word at g(a); release-kind. -/
def execTagset (b a : BitVec 7) (s : State) : Out :=
  issue s [a, b] [] true fun s =>
    let ea := s.g a
    let bs := leBytes 4 ((s.g b).toNat % 2 ^ 32)
    withAccess s ea 8 8 needStore
      (fun s pa => ordered s false true fun s => selfWrite s pa 4 fun s =>
        doneSelf (performWrite s pa bs false) false pa true)
      (fun s pa h leaf => ordered s false true fun s => posting s fun s =>
        postReq s false (mkReq s 2 4 4 pa ea.toNat leaf false true bs 0 true) h)

end Sys2Proof.Machine
end

