-- ==== Sys2Proof/Machine/Channel.lean ====
section
/-! DEFINITION. Channel instructions: buffers (R201, R202), the checks at issue (R194, R332, R334), connecting (R199, R200,
R336), sending and receiving (R337 to R339), delegation at its two ends (R211 to R213, R340), and the management of
endpoints (R335). -/

namespace Sys2Proof.Machine

/-! ## Receive buffers (R201, R202) -/

/-- The exponent of a buffer of so many units: the smallest from 2 to 12 that holds them. -/
def bufLog (units : Nat) : Nat := ((List.range 11).map (· + 2)).find? (fun n => decide (units ≤ 2 ^ n)) |>.getD 12

/-- Is unit u of a core's pool usable, lying whole below its store's usable size? -/
def poolUnit (s : State) (c : CoreId) (u : Nat) : Bool :=
  let pool := (coreOf s c).chpool
  decide (u < (pool.extractLsb' 1 13).toNat) && (selfPa s c ((pool.extractLsb' 32 20).toNat + 64 * u) 64).isSome

/-- Units of a pool that endpoints hold. -/
def unitHeld (s : State) (c : CoreId) (u : Nat) : Bool :=
  s.eps.any fun ((c', _), e) => decide (c' = c) && e.held && decide (e.bufoff ≤ u ∧ u < e.bufoff + 2 ^ e.bufn)

/-- R201. The buffer of an endpoint reserved first-fit, its guards EMPTY; none when nothing fits. -/
def reserve (s : State) (c : CoreId) (n : Nat) : Option State :=
  let e := epOf s c n
  if e.lin = 0 then some s
  else if !(coreOf s c).chpool.getLsbD 0 then none
  else
    let k := bufLog (e.lin * e.maxin)
    let fits (i : Nat) : Bool := (List.range (2 ^ k)).all fun j => poolUnit s c (i * 2 ^ k + j) && !unitHeld s c (i * 2 ^ k + j)
    match (List.range (4096 / 2 ^ k)).find? fits with
    | none => none
    | some i =>
      let s := modEp s c n fun e => { e with held := true, bufn := k, bufoff := i * 2 ^ k }
      some ((List.range (2 ^ k)).foldl (fun s j => setFull s (unitPa s c n j) false) s)

/-- A buffer released. -/
def releaseBuf (s : State) (c : CoreId) (n : Nat) : State :=
  modEp s c n fun e => { e with held := false, bufn := 0, bufoff := 0 }

/-- The units of the slot of message number q. -/
def slotUnit (e : Endpoint) (q : Nat) : Nat := q % max 1 e.lin * e.maxin

/-- The header of a message as it lies in a head flit (R196). -/
def headerBytes (m : Msg) : List Byte :=
  [m.mtype, BitVec.ofNat 8 (m.nflit % 128 + (if m.reply then 128 else 0))] ++ leBytes 2 m.plen ++ leBytes 4 m.dst.toNat
    ++ leBytes 4 m.src.toNat ++ leBytes 4 m.seq.toNat ++ [m.cret, m.lfmt] ++ leBytes 6 m.fleet.toNat

/-- The flits of a message. -/
def flitBytes (m : Msg) : List (List Byte) :=
  let all := headerBytes m ++ m.payload
  (List.range m.nflit).map fun i =>
    let f := (all.drop (64 * i)).take 64
    f ++ List.replicate (64 - f.length) 0

/-- R202. The network interface writes a message into its slot and fills the guards. -/
def storeMsg (s : State) (c : CoreId) (n : Nat) (m : Msg) : State :=
  let u := slotUnit (epOf s c n) m.seq.toNat
  ((flitBytes m).zip (List.range m.nflit)).foldl (fun s (f, i) =>
    let pa := unitPa s c n (u + i)
    setFull (writeBytes s pa f false) pa true) s

/-- The message that lies at unit u of an endpoint's buffer. -/
def msgAt (s : State) (c : CoreId) (n u : Nat) : Msg :=
  let h := readBytes s (unitPa s c n u) 24
  let nf := fieldAt h 1 1 % 128
  let raw := (List.range nf).flatMap fun i => readBytes s (unitPa s c n (u + i)) 64
  let pl := fieldAt h 2 2
  ⟨h.getD 0 0, nf, decide (128 ≤ fieldAt h 1 1), pl, BitVec.ofNat 32 (fieldAt h 4 4), BitVec.ofNat 32 (fieldAt h 8 4),
    BitVec.ofNat 32 (fieldAt h 12 4), h.getD 16 0, h.getD 17 0, BitVec.ofNat 48 (fieldAt h 18 6), (raw.drop 24).take pl⟩

/-- The next message to be consumed. -/
def nextMsg (s : State) (c : CoreId) (n : Nat) : Msg := msgAt s c n (nextUnit s c n)

/-- R203. The credit return that a consumption owes at a receive-kind state or at END. -/
def returnCredit (s : State) (c : CoreId) (n : Nat) : State :=
  let e := epOf s c n
  let k := recKind (epRec s c n)
  if (recvKind k || decide (k = 6)) && decide (e.est = .opened ∨ e.est = .delegin ∨ e.est = .closed) then
    modEp (sendMsg s (mkMsg s c n e.peer 0xFC e.sseq e.cpend [])) c n fun e => { e with cpend := 0 }
  else s

/-- R339. The next message is consumed: its guards emptied, the endpoint moved on along its type, credit returned. -/
def consume (s : State) (c : CoreId) (n : Nat) (m : Msg) : State :=
  let u := nextUnit s c n
  let s := (List.range m.nflit).foldl (fun s i => setFull s (unitPa s c n (u + i)) false) s
  let im := (flightOf s c (epOf s c n).flight).image
  returnCredit (modEp s c n fun e => { e with
    rseq := e.rseq + 1
    cpend := e.cpend + 1
    state := (nextState im e.state m.mtype.toNat).getD e.state }) c n

/-! ## Sending (R338) -/

/-- R196. Is the module of an address this one, or reachable through the fleet table? -/
def reachable (s : State) (a : BitVec 32) : Bool :=
  decide (addrMod a = modSelf s) || fleetReach s (addrMod a)

/-- R196. FLEETID of what a thread sends: bits [47:0] of its launch's FLEET when the message leaves the module. -/
def fleetId (s : State) (th : Thread) (dst : BitVec 32) : BitVec 48 :=
  if addrMod dst = modSelf s || stSup th.status then 0
  else match th.key with
    | some k => (lnFleet (recordOf s k.lslot)).extractLsb' 0 48
    | none => 0

/-- R338. A message handed to the network interface on an open endpoint, which moves on along its type and gives up a
credit; toward an unreachable module it is not sent and the endpoint closes (R196). -/
def sendOn (s : State) (c : CoreId) (n : Nat) (ty lfmt : Byte) (fleet : BitVec 48) (payload : List Byte) : State :=
  let e := epOf s c n
  if !reachable s e.peer then closeEp s c n 4 none
  else
    let im := (flightOf s c e.flight).image
    let s := sendMsg s { mkMsg s c n e.peer ty e.sseq e.cpend payload with lfmt := lfmt, fleet := fleet }
    modEp s c n fun e => { e with
      sseq := e.sseq + 1
      credit := e.credit - 1
      cpend := 0
      state := (nextState im e.state ty.toNat).getD e.state
      astate := (nextState im e.astate ty.toNat).getD e.astate }

/-! ## The checks at issue (R332, R334) -/

/-- R334, R205. Does the current thread own an endpoint? The running handler of a service endpoint counts as its owner,
since it receives and answers there (DEDUCED, log 34). -/
def owns (s : State) (e : Endpoint) : Bool := decide (e.slot = s.cur.slot) || decide (e.handler = some s.cur)

/-- Checks 1 and 2 of R334: ownership, and closure unless messages are left for a receive (R218). -/
def withEp (s : State) (n : Nat) (a : BitVec 7) (recv : Bool) (body : State → Endpoint → State) : State :=
  let e := epOf s s.cur.core n
  if decide (e.est ≠ .free) && !owns s e then raise s (trapProtocol 1 n)
  else if decide (e.est = .closed) && !(recv && msgReady s s.cur.core n) then
    if e.seen then retire (s.setG a (resultWord 0xFF 0 0 (256 * e.cname.toNat + e.ccause))) false 1
    else raise s ⟨6, BitVec.ofNat 64 (n + 256 * e.cname.toNat)⟩
  else body s e

/-- Check 3 of R334, in its order: the PROTOCOL cause, or 0. `ty` is the type, none for OFFER; `flits` the size of what
is sent; `tile` says that a stream carries it, `fits` that the stream fits the state's shape entry; `del` that the
instruction is DELEG. -/
def stateCheck (e : Endpoint) (r : List Byte) (kind : Nat) (ty : Option Nat) (flits : Nat) (tile fits del : Bool) : Nat :=
  let k := recKind r
  let send := sendKind kind
  if send && !del && decide (ty = some 0xF8) then 7
  else if !(decide (e.est = .opened ∨ e.est = .delegin) || (!send && decide (e.est = .closed))) then 2
  else if k = 6 then 8
  else if k ≠ kind then 3
  else if del then (if recDel r then 0 else 7)
  else if (match ty with | some t => !(recBranches r).any fun b => decide (b.1 = t) | none => false) then 4
  else if recMaxfl r < flits then 5
  else if tile && !(recShaped r && fits) then 6
  else 0

/-- LEN of a payload descriptor. -/
def dsLen (w : Word) : Nat := (w.extractLsb' 48 16).toNat
/-- OFF. -/
def dsOff (w : Word) : Nat := (w.extractLsb' 0 20).toNat
/-- Z. -/
def dsZ (w : Word) : Nat := (w.extractLsb' 40 3).toNat
/-- T. -/
def dsT (w : Word) : Bool := w.getLsbD 47

/-- R332. The area checks of a payload descriptor: its physical address, or a trap. -/
def areaPa (s : State) (w : Word) (write : Bool) : Except Bad Nat := do
  let va := selfBase + dsOff w
  if dsLen w = 0 then return 0
  watched s s.cur va (dsLen w) write
  if dsOff w % 8 ≠ 0 then throw (.trap (trapAlign va))
  windowPa s s.cur va (dsLen w)

/-- R194. Does a memory stream that stands at its start fit a tile entry? -/
def streamFits (z : ZReg) (entry : List Byte) : Bool :=
  decide (z.zm = 1 ∧ z.zpos = 0 ∧ z.shape.et = fieldAt entry 1 1 ∧ z.shape.rank = fieldAt entry 2 1) &&
    (List.range 4).all fun d => decide (z.shape.ext.getD d 0 = fieldAt entry (4 + 2 * d) 2)

/-- The shape entry of an endpoint's state. -/
def entryOf (s : State) (c : CoreId) (n : Nat) : List Byte :=
  shapeEntry (flightOf s c (epOf s c n).flight).image (recShape (epRec s c n))

/-! ## Tiles on the link (R177) -/

/-- Elements of w bits packed into bytes, the lower index lower. -/
def packBits (w : Nat) (vs : List Nat) : List Byte :=
  if w = 4 then
    (List.range ((vs.length + 1) / 2)).map fun i => BitVec.ofNat 8 (vs.getD (2 * i) 0 + 16 * vs.getD (2 * i + 1) 0)
  else vs.flatMap (leBytes (w / 8))

/-- Element i of w bits of packed bytes. -/
def unpackBits (w : Nat) (bs : List Byte) (i : Nat) : Nat :=
  if w = 4 then fieldAt bs (i / 2) 1 / 16 ^ (i % 2) % 16 else fieldAt bs (i * (w / 8)) (w / 8)

/-- R177. One element of memory type et in a link format, as element i of its message: bits, flags, and whether it was
rounded. With no conversion the bits travel as they stand, but that a value with S is rounded into its own type. -/
def linkOut (s : State) (et lf i : Nat) (e : Elem) : Nat × Flags × Bool :=
  match e with
  | none => (0, 0, false)
  | some (v, b) =>
    let f := if lf = 0 then et else lf
    if f = et && !b then (v, 0, false)
    else
      let (n, fl) := roundInto s s.cur.core s.th.fmt f s.rm (s.srd i) (etQ et) (elemPair s s.cur et e)
      (n, fl, true)

/-- R177. An element of link format lf decoded into memory type et, S clear. -/
def linkIn (s : State) (t : ThreadId) (et lf v : Nat) : Nat :=
  if lf = 0 ∨ lf = et then v
  else
    let x := etDecode s t.core (threadOf s t).fmt lf v
    (etFmt et).2 x

/-- Owner slots that runs cost, flit by flit. -/
def flitCost (runs : List (List (Nat × Bool))) : Nat := (runs.map runCost).sum

/-- The elements of a walk by the flit that carries them: the head's 40 bytes, then 64 each. -/
def byFlit (w : Nat) (n : Nat) (gs : List Got) : List (List Got) :=
  (List.range n).map fun i =>
    let start := if i = 0 then 0 else (40 + 64 * (i - 1)) * 8 / w
    let stop := (40 + 64 * i) * 8 / w
    (gs.drop start).take (stop - start)

/-- R337. The payload that a stream's read walk gives in a link format, with its flags, whether SRD was drawn on, and the
further slots its runs cost. -/
def tilePayload (s : State) (z : ZReg) (lf : Nat) : Except Bad (List Byte × Flags × Bool × Nat) := do
  let ps := nextPositions z 0 z.shape.total
  let gs ← ps.mapM fun (p, k) => reach s s.cur z false p k
  let es ← gs.mapM (elemAt s z.shape.et)
  let outs := (es.zip (List.range es.length)).map fun (e, i) => linkOut s z.shape.et lf i e
  let f := if lf = 0 then z.shape.et else lf
  let payload := packBits (etBits f) (outs.map (·.1))
  let cost := flitCost ((byFlit (etBits z.shape.et) (flitsOf payload.length) gs).map
    (streamRuns s s.cur (etBits z.shape.et) false))
  pure (payload, outs.foldl (fun a o => a ||| o.2.1) 0, outs.any (·.2.2), cost)

/-- R337. A payload written through a stream's write walk. -/
def tileWrite (s : State) (z : ZReg) (lf : Nat) (payload : List Byte) : Except Bad (State × Nat) := do
  let et := z.shape.et
  let ps := nextPositions z 0 z.shape.total
  let gs ← ps.mapM fun (p, k) => reach s s.cur z true p k
  if let some (pa, n) := putsPoison s et gs then throw (Bad.poison pa n)
  let w := etBits (if lf = 0 then et else lf)
  let cost := flitCost ((byFlit (etBits et) (flitsOf payload.length) gs).map (streamRuns s s.cur (etBits et) true))
  pure ((gs.zip (List.range gs.length)).foldl (fun s (g, i) =>
    putElem s et g ⟨linkIn s s.cur et lf (unpackBits w payload i), false, 0, false⟩) s, cost)

/-- A management instruction on endpoint n completes in a state: its trace record (R151), and the next instruction. -/
def chanEnd (was : State) (n : Nat) (s : State) : State :=
  let c := was.cur.core
  retire (traceChannel s n (epOf was c n).state 0 (epOf was c n).sseq) false 1

/-! ## SEND, SENDT, SELECT (R337, R338) -/

/-- The further slots that the flits of a payload area cost beside the buffer (R169): one a flit when both lie in the
scratchpad. -/
def areaCost (s : State) (c : CoreId) (n pa nflit : Nat) : Nat :=
  if inScratch pa && inScratch (unitPa s c n 0) then nflit else 0

/-- R338. The waits of a send, then its beats, then `last`. -/
def sendWait (s : State) (n : Nat) (flits : Nat) (last : State → State) : State :=
  if s.th.going then last s
  else
    let e := epOf s s.cur.core n
    ordered s false true fun s =>
      if decide (e.est = .delegin) && !e.redirected then parkOn s (.redirected n)
      else if e.credit = 0 then parkOn s (.credit n)
      else lastBeat s flits last

/-- The send of a payload of bytes. -/
def sendBytes (s : State) (n : Nat) (ty : Byte) (a : BitVec 7) (pa len : Nat) : State :=
  if poisoned s pa len then consumeError (noteRead s pa len) s.cur
  else
    let e := epOf s s.cur.core n
    let s' := sendOn s s.cur.core n ty 0 (fleetId s s.th e.peer) (readBytes s pa len)
    retire (traceChannel (s'.setG a (resultWord 0 ty.toNat len e.sseq.toNat)) n e.state ty e.sseq) false 1

/-- The send of a tile. -/
def sendTile (s : State) (n : Nat) (ty : Byte) (a : BitVec 7) (z : Nat) : State :=
  let c := s.cur.core
  let lf := fieldAt (entryOf s c n) 3 1
  match tilePayload s (s.z z) lf with
  | .error b => badly s b
  | .ok (payload, fl, rounded, cost) =>
    let e := epOf s c n
    let s' := sendOn (s.flags fl) c n ty (BitVec.ofNat 8 lf) (fleetId s s.th e.peer) payload
    let s' := if rounded then s'.usedSrd s.rm else s'
    retire (traceChannel (s'.setG a (resultWord 0 ty.toNat payload.length e.sseq.toNat)) n e.state ty e.sseq) false (1 + cost)

/-- R337. SEND, SENDT and SELECT: `kind` is the state kind, `tile` says that a stream is always sent. -/
def sendOp (s : State) (kind : Nat) (tile : Bool) (a : BitVec 7) (ty : Byte) (ep : BitVec 6) : Out :=
  issue s [a] [a] (okType ty && s.free?) fun s =>
    let n := ep.toNat
    let c := s.cur.core
    withEp s n a false fun s e =>
      let w := s.g a
      let r := epRec s c n
      let entry := entryOf s c n
      let asTile := tile || (decide (kind = 4) && recShaped r)
      let z := s.z (dsZ w)
      if asTile && recShaped r && decide (z.zm ≠ 1) then raise s (trapIllegal s)
      else
        let len := if asTile then tileBytes entry else dsLen w
        let wrong := decide (0xF0 ≤ ty.toNat ∧ ty.toNat ≤ 0xF7) && decide (len ≠ 24 + 8 * (ty.toNat - 0xF0))
        let flits := if wrong then 66 else flitsOf len
        if s.th.going then (if asTile then sendTile s n ty a (dsZ w) else
          match areaPa s w false with
          | .ok pa => sendBytes s n ty a pa len
          | .error b => badly s b)
        else match stateCheck e r kind (some ty.toNat) (if asTile && !wrong then 0 else flits) asTile (streamFits z entry) false with
        | 0 =>
          if asTile then sendWait s n flits fun s => sendTile s n ty a (dsZ w)
          else (match areaPa s w false with
            | .error b => badly s b
            | .ok pa => sendWait s n flits fun s => sendBytes s n ty a pa len)
        | cause => raise s (trapProtocol cause n)

/-- R337. SEND. -/
def execSend (a : BitVec 7) (t : BitVec 8) (e : BitVec 6) (s : State) : Out := sendOp s 1 false a t e

/-- R337. SENDT. -/
def execSendt (a : BitVec 7) (t : BitVec 8) (e : BitVec 6) (s : State) : Out := sendOp s 1 true a t e

/-- R337. SELECT. -/
def execSelect (a : BitVec 7) (t : BitVec 8) (e : BitVec 6) (s : State) : Out := sendOp s 4 false a t e

/-! ## RECV, RECVT, OFFER (R337, R339) -/

/-- The consumption of a message and the result it gives. -/
def received (s : State) (n : Nat) (a : BitVec 7) (m : Msg) (cost : Nat) : State :=
  let before := (epOf s s.cur.core n).state
  let s := consume s s.cur.core n m
  retire (traceChannel (s.setG a (resultWord 0 m.mtype.toNat m.plen m.seq.toNat)) n before m.mtype m.seq) false (1 + cost)

/-- A message received into an area: its bytes, and zeros up to a multiple of 8. -/
def recvBytes (s : State) (n : Nat) (a : BitVec 7) (w : Word) : State :=
  let m := nextMsg s s.cur.core n
  match areaPa s w true with
  | .error b => badly s b
  | .ok pa =>
    if m.lfmt.getLsbD 5 then consumeError s s.cur
    else
      let bs := m.payload ++ List.replicate ((8 - m.plen % 8) % 8) 0
      if partialPoison s pa bs.length bs.length then consumeError (noteRead s pa bs.length) s.cur
      else received (if bs.isEmpty then s else performWrite s pa bs false) n a m (areaCost s s.cur.core n pa m.nflit)

/-- A message received through a stream. -/
def recvTile (s : State) (n : Nat) (a : BitVec 7) (z : Nat) : State :=
  let m := nextMsg s s.cur.core n
  if m.lfmt.getLsbD 5 then consumeError s s.cur
  else match tileWrite s (s.z z) (m.lfmt.toNat % 16) m.payload with
  | .error b => badly s b
  | .ok (s', cost) => received s' n a m cost

/-- R339. The wait for a message, then its beats, then `last`. -/
def recvWait (s : State) (n : Nat) (last : State → State) : State :=
  if s.th.going then last s
  else ordered s true false fun s =>
    if msgReady s s.cur.core n then lastBeat s (nextMsg s s.cur.core n).nflit last
    else parkOn s (.arrival n)

/-- R337. RECV, RECVT and OFFER. -/
def recvOp (s : State) (kind : Nat) (tile : Bool) (a : BitVec 7) (ty : Option Nat) (n : Nat) : State :=
  let c := s.cur.core
  withEp s n a true fun s e =>
    let w := s.g a
    let r := epRec s c n
    let entry := entryOf s c n
    let z := s.z (dsZ w)
    let mayTile := tile || (decide (kind = 3) && dsT w)
    let finish (s : State) : State :=
      if tile || (mayTile && decide ((nextMsg s c n).plen = tileBytes entry)) then recvTile s n a (dsZ w)
      else recvBytes s n a w
    if mayTile && recShaped r && decide (z.zm ≠ 1) then raise s (trapIllegal s)
    else if s.th.going then finish s
    else match stateCheck e r kind ty 0 mayTile (streamFits z entry) false with
    | 0 =>
      if !tile && decide (dsLen w < flitPayload (recMaxfl r)) then raise s (trapProtocol 9 n)
      else if tile then recvWait s n finish
      else (match areaPa s w true with
        | .error b => badly s b
        | .ok _ => recvWait s n finish)
    | cause => raise s (trapProtocol cause n)

/-- R337. RECVT. -/
def execRecvt (a : BitVec 7) (t : BitVec 8) (e : BitVec 6) (s : State) : Out :=
  issue s [a] [a] (okType t && s.free?) fun s => recvOp s 2 true a (some t.toNat) e.toNat

/-- R337. OFFER. -/
def execOffer (a : BitVec 7) (e : BitVec 6) (s : State) : Out :=
  issue s [a] [a] s.free? fun s => recvOp s 3 false a none e.toNat

/-! ## Delegation (R211 to R213, R340) -/

/-- The 40 bytes of TRANSFER (R212) for endpoint x. -/
def transferPayload (s : State) (c : CoreId) (x : Nat) : List Byte :=
  let e := epOf s c x
  let im := (flightOf s c e.flight).image
  [1, BitVec.ofNat 8 (canonNumber im e.state), BitVec.ofNat 8 (canonNumber im e.astate), BitVec.ofNat 8 e.credit,
    BitVec.ofNat 8 e.cpend, 0, 0, 0] ++ leBytes 8 e.hown.toNat ++ leBytes 4 e.peer.toNat ++ leBytes 4 e.sseq.toNat
    ++ leBytes 4 e.rseq.toNat ++ leBytes 4 e.anext.toNat ++ leBytes 4 (epAddr s c x).toNat ++ [0, 0, 0, 0]

/-- R340. DELEG. -/
def execDeleg (a : BitVec 7) (e : BitVec 6) (s : State) : Out :=
  issue s [a] [a] s.free? fun s =>
    let n := e.toNat
    let c := s.cur.core
    withEp s n a false fun s e =>
      let x := (s.g a).toNat % 64
      let ex := epOf s c x
      let r := epRec s c n
      -- X closed while DELEG was parked: it ends without effect
      if s.again && decide (ex.est = .closed) then
        retire (s.setG a (resultWord 0xFF 0xF8 0 (256 * ex.cname.toNat + ex.ccause))) false 1
      else match stateCheck e r 1 none 0 false false true with
      | 0 =>
        if ex.est = .free ∨ ex.slot ≠ s.cur.slot then raise s (trapProtocol 1 x)
        else if ex.est ≠ .opened ∨ x = n ∨ ex.mark then raise s (trapProtocol 2 x)
        else if ex.hown ≠ BitVec.ofNat 64 (fieldAt (entryOf s c n) 8 8) then raise s (trapProtocol 7 x)
        else sendWait s n 1 fun s =>
          let s' := sendOn s c n 0xF8 0 (fleetId s s.th e.peer) (transferPayload s c x)
          let s' := if (epOf s' c n).est = .closed then s' else modEp (setEst s' c x .delegated) c x fun e => { e with
            fwd := 0, taken := false, redirected := false, fwdEnd := false, lateCredit := 0, notice := none }
          retire (traceChannel (s'.setG a (resultWord 0 0xF8 40 e.sseq.toNat)) n e.state 0xF8 e.sseq) false 1
      | cause => raise s (trapProtocol cause n)

/-- A Delegate message of the 8 or 12 bytes of subtypes 2 to 5, from endpoint n of a core (R212). -/
def delegateMsg (s : State) (c : CoreId) (n : Nat) (dst : BitVec 32) (sub : Nat) (fields : List Nat) : Msg :=
  mkMsg s c n dst 0xF8 0 0 (leBytes 4 sub ++ fields.flatMap (leBytes 4))

/-- R213 step 2. Y takes the state that a TRANSFER carries. -/
def takeOver (s : State) (c : CoreId) (y : Nat) (p : List Byte) : State :=
  let im := (flightOf s c (epOf s c y).flight).image
  let old := BitVec.ofNat 32 (fieldAt p 32 4)
  let s := modEp s c y fun e => { e with
    est := .delegin
    tchg := s.cyc
    res := 0
    state := canonState im (fieldAt p 1 1)
    astate := canonState im (fieldAt p 2 1)
    credit := fieldAt p 3 1
    cpend := fieldAt p 4 1
    peer := BitVec.ofNat 32 (fieldAt p 16 4)
    sseq := BitVec.ofNat 32 (fieldAt p 20 4)
    rseq := BitVec.ofNat 32 (fieldAt p 24 4)
    anext := BitVec.ofNat 32 (fieldAt p 28 4)
    origin := old
    redirected := false
    fwdEnd := false }
  sendMsg s (delegateMsg s c y old 2 [(epAddr s c y).toNat])

/-- R340, R213. A RECV at a DEL state takes the delegated endpoint into Y. -/
def recvDelegate (s : State) (n : Nat) (a : BitVec 7) (y : Nat) : State :=
  let c := s.cur.core
  let m := nextMsg s c n
  let p := m.payload
  let dh := BitVec.ofNat 64 (fieldAt (entryOf s c n) 8 8)
  let old := fieldAt p 32 4
  let closed := decide ((epOf s c n).est = .closed)
  let before := (epOf s c n).state
  let s := consume s c n m
  let done (s : State) (code : Nat) : State :=
    let s := (modEp s c y fun e => { e with res := code }).setG a (resultWord code 0xF8 m.plen old)
    retire (traceChannel s n before 0xF8 m.seq) false 1
  let fail (s : State) (code : Nat) : State :=
    done (sendMsg s (mkMsg s c n (BitVec.ofNat 32 old) 0xF9 0 0 (noticePayload 0 0 9 0 0))) code
  if closed then done s 5
  else if (epOf s c y).hown ≠ dh then fail s 6
  else match reserve s c y with
  | none => fail (count s c.die 80) 2
  | some s => done (takeOver s c y p) 0

/-- R337, R340. RECV: a message, or a delegated endpoint at a DEL state. -/
def execRecv (a : BitVec 7) (t : BitVec 8) (e : BitVec 6) (s : State) : Out :=
  issue s [a] [a] (okType t && s.free?) fun s =>
    let n := e.toNat
    let c := s.cur.core
    let r := epRec s c n
    if decide (recKind r = 2) && recDel r && decide (t = 0xF8) then
      withEp s n a true fun s e =>
        match stateCheck e r 2 (some 0xF8) 0 false false false with
        | 0 =>
          let y := (s.g a).toNat % 64
          let ey := epOf s c y
          if ey.est ≠ .free && ey.slot ≠ s.cur.slot then raise s (trapProtocol 1 y)
          else if ey.est ≠ .bound then raise s (trapProtocol 2 y)
          else recvWait s n fun s => recvDelegate s n a y
        | cause => raise s (trapProtocol cause n)
    else recvOp s 2 false a (some t.toNat) n

/-! ## Connecting (R199, R200, R336) -/

/-- The 20 bytes of Connect and Accept. -/
def offerBytes (s : State) (c : CoreId) (n : Nat) : List Byte :=
  let e := epOf s c n
  leBytes 8 e.hown.toNat ++ leBytes 8 (flightOf s c e.flight).dhash.toNat ++
    [BitVec.ofNat 8 e.lin, BitVec.ofNat 8 e.maxin, BitVec.ofNat 8 e.lout, BitVec.ofNat 8 e.maxout]

/-- An endpoint at the start of a conversation with a peer (R199). -/
def openEp (s : State) (c : CoreId) (n : Nat) (peer : BitVec 32) (credit : Nat) : State :=
  let st := passLoops (flightOf s c (epOf s c n).flight).image 256 0
  modEp s c n fun e => { e with
    est := .opened, tchg := s.cyc, res := 0, peer := peer, credit := credit, sseq := 0, rseq := 0, anext := 0
    state := st, astate := st, cpend := 0 }

/-- The thread that waits on an endpoint takes up its instruction again, with a word of answer. -/
def answerEp (s : State) (c : CoreId) (n : Nat) (w : Word) : State :=
  s.threads.foldl (fun s' (t, th) =>
    if decide (t.core = c ∧ t.slot = (epOf s c n).slot) && (match th.wait with
        | .redo k => condOn n k
        | .stopped => th.answer.isSome
        | _ => false) then
      let s' := modThread s' t fun th => { th with answer := some w }
      (match th.wait with | .redo _ => s'.at s'.cyc (.redo t) | _ => s')
    else s') s

/-- R199 step 4. An endpoint F in ACCEPTING handles a Connect. -/
def handleConnect (s : State) (c : CoreId) (n : Nat) (m : Msg) : State :=
  let e := epOf s c n
  let hown := BitVec.ofNat 64 (fieldAt m.payload 0 8)
  let dhash := BitVec.ofNat 64 (fieldAt m.payload 8 8)
  let ok := decide (dhash = e.hown ∧ (flightOf s c e.flight).dhash = hown)
  let s := sendMsg s (mkMsg s c n m.src 0xFB 0 0 ([if ok then 0 else 1, 0, 0, 0] ++ offerBytes s c n))
  let s := if ok then openEp s c n m.src (fieldAt m.payload 16 1)
    else modEp (setEst (releaseBuf (count s c.die 79) c n) c n .bound) c n fun e => { e with res := 1 }
  answerEp s c n (m.src.setWidth 64 ||| 0x200000000#64)

/-- R336. Addresses to which a CONNECT completes at once with RES 3. -/
def connectNowhere (s : State) (dst : BitVec 32) : Bool :=
  addrReserved dst || (addrNis dst && decide (12 ≤ addrNode dst)) || !reachable s dst

/-- A word of answer: bit 32 while it is awaited. -/
def awaited : Word := 0x100000000#64

/-- R336. CONNECT. -/
def execConnect (a : BitVec 7) (e : BitVec 6) (s : State) : Out :=
  issue s [a] [a] s.free? fun s =>
    let n := e.toNat
    let c := s.cur.core
    let dst := (s.g a).extractLsb' 0 32
    withEp s n a false fun s e =>
      let finish (s : State) (code : Nat) : State := chanEnd s n (s.setG a (resultWord code 0 0 dst.toNat))
      if s.th.answer.isSome then
        (if e.est = .connecting then parkOn s (.connected n) else finish s e.res)
      else if e.est ≠ .bound then raise s (trapProtocol 2 n)
      else if connectNowhere s dst then finish (modEp s c n fun e => { e with res := 3 }) 3
      else match reserve s c n with
      | none => finish (modEp (count s c.die 80) c n fun e => { e with res := 2 }) 2
      | some s =>
        let s := sendMsg (setEst s c n .connecting)
          { mkMsg s c n dst 0xFA 0 0 (offerBytes s c n) with fleet := fleetId s s.th dst }
        parkOn (s.mod fun th => { th with answer := some awaited }) (.connected n)

/-- R336. ACCEPT. -/
def execAccept (a : BitVec 7) (e : BitVec 6) (s : State) : Out :=
  issue s [a] [a] s.free? fun s =>
    let n := e.toNat
    let c := s.cur.core
    withEp s n a false fun s e =>
      match s.th.answer with
      | some w =>
        if e.est = .accepting then parkOn s (.accepted n)
        else chanEnd s n (s.setG a (resultWord e.res 0 0 (w.toNat % 2 ^ 32)))
      | none =>
        if e.est ≠ .bound then raise s (trapProtocol 2 n)
        else match reserve s c n with
        | none => chanEnd s n ((modEp (count s c.die 80) c n fun e => { e with res := 2 }).setG a (resultWord 2 0 0 0))
        | some s =>
          let s := setEst s c n .accepting
          (match (coreOf s c).connects.find? fun m => addrEp m.dst = n with
          | some m =>
            let s := handleConnect (modCore s c fun k => { k with connects := k.connects.erase m }) c n m
            chanEnd s n (s.setG a (resultWord (epOf s c n).res 0 0 m.src.toNat))
          | none => parkOn (s.mod fun th => { th with answer := some awaited }) (.accepted n))

/-! ## Managing endpoints (R335) -/

/-- R335. EPOPEN. -/
def execEpopen (a : BitVec 7) (e : BitVec 6) (s : State) : Out :=
  issue s [a] [a] s.free? fun s =>
    let n := e.toNat
    let c := s.cur.core
    withEp s n a false fun s ep =>
    if ep.est ≠ .free then raise s (trapProtocol 2 n)
    else
      let w := s.g a
      let f := (w.extractLsb' 0 5).toNat
      let fl := flightOf s c f
      if !fl.valid then chanEnd s n (s.setG a (resultWord 6 0 0 0))
      else
        let st := passLoops fl.image 256 0
        let new : Endpoint := { Endpoint.initial with
          est := .bound, svc := w.getLsbD 8, slot := s.cur.slot, flight := f, state := st, astate := st
          lin := fl.lin, lout := fl.lout, maxin := fl.maxin, maxout := fl.maxout, hown := fl.hown, tchg := s.cyc }
        chanEnd s n ((modEp s c n fun _ => new).setG a (resultWord 0 0 0 0))

/-- R335. CLOSE. -/
def execClose (a : BitVec 7) (e : BitVec 6) (s : State) : Out :=
  issue s [a] [a] s.free? fun s =>
    let n := e.toNat
    let c := s.cur.core
    let e := epOf s c n
    let done (s : State) : State := chanEnd s n (s.setG a (resultWord 0 0 0 0))
    if decide (e.est ≠ .free) && !owns s e then raise s (trapProtocol 1 n)
    else match e.est with
    | .closed => done (modEp s c n fun e => { e with seen := true })
    | .connecting => done (closeEp s c n 1 none)
    | .accepting => done (closeEp s c n 1 none)
    | .opened => done (closeEp s c n 1 none)
    | .delegin => done (closeEp s c n 1 none)
    | _ => raise s (trapProtocol 2 n)

/-- EST as EPSTAT reads it (R185). -/
def estCode : Est → Nat
  | .free => 0
  | .bound => 1
  | .connecting => 2
  | .accepting => 3
  | .opened => 4
  | .delegated => 5
  | .delegin => 6
  | .closed => 7

/-- R184. Word i of an endpoint's map. -/
def epWord (e : Endpoint) (i : Nat) : Word :=
  match i with
  | 0 => BitVec.ofNat 8 e.res ++ e.cname ++ BitVec.ofNat 8 e.ccause ++ BitVec.ofNat 8 e.astate ++ BitVec.ofNat 8 e.state
      ++ BitVec.ofNat 5 e.flight ++ BitVec.ofBool e.seen ++ BitVec.ofBool e.mark ++ BitVec.ofBool e.svc
      ++ BitVec.ofNat 4 e.slot ++ 0#9 ++ BitVec.ofNat 3 (estCode e.est)
  | 1 => e.fwd ++ e.peer
  | 2 => e.rseq ++ e.sseq
  | 3 => BitVec.ofNat 8 e.lin ++ BitVec.ofNat 8 e.lout ++ BitVec.ofNat 7 e.maxin ++ BitVec.ofNat 7 e.maxout ++ 0#2
      ++ BitVec.ofNat 12 e.bufoff ++ BitVec.ofNat 4 e.bufn ++ BitVec.ofNat 8 e.cpend ++ BitVec.ofNat 8 e.credit
  | 4 => e.hown
  | 5 => BitVec.ofNat 64 e.tchg
  | 6 => e.anext ++ e.dcut
  | _ => 0

/-- R335. EPSTAT. A supervisor thread may name any endpoint (R334). -/
def execEpstat (a : BitVec 7) (e : BitVec 6) (s : State) : Out :=
  issue s [a] [a] s.free? fun s =>
    let n := e.toNat
    let c := s.cur.core
    let e := epOf s c n
    if decide (e.est ≠ .free) && !owns s e && !s.sup then raise s (trapProtocol 1 n)
    else
      let w := epWord e ((s.g a).toNat % 8)
      let s := if e.est = .closed then modEp s c n fun e => { e with seen := true } else s
      chanEnd s n (s.setG a w)

/-- R185, R335. EPFREE: of a DELEGATED endpoint the thread parks until FWD_END has been sent or the conversation has
closed. -/
def execEpfree (e : BitVec 6) (s : State) : Out :=
  issue s [] [] s.free? fun s =>
    let n := e.toNat
    let c := s.cur.core
    let e := epOf s c n
    if decide (e.est ≠ .free) && !owns s e then raise s (trapProtocol 1 n)
    else if e.est = .delegated ∧ !e.fwdEnd then parkOn s (.freed n)
    else chanEnd s n (sweepFlights (freeEp s c n) c.creel)

/-- CLASS of a vector-table entry (R176). -/
def vecClass (w : Word) : Nat := (w.extractLsb' 61 2).toNat

/-- R335. MSGVEC: the entry is written at the end of the cycle, so that arrivals of this cycle use the old one (R348). -/
def execMsgvec (a : BitVec 7) (t : BitVec 8) (s : State) : Out :=
  issue s [a] [] s.free? fun s =>
    let va := selfBase + ((coreOf s s.cur.core).vtbase.extractLsb' 11 9).toNat * 2048 + 8 * t.toNat
    match windowPa s s.cur va 8 with
    | .error b => badly s b
    | .ok pa =>
      if !s.sup && (decide (vecClass (s.g a) = 1) || decide (vecClass (readWord s pa) = 1)) then raise s (trapIllegal s)
      else
        let q : MemReq := { mkReq s 2 6 8 pa va 0 false false (leBytes 8 (s.g a).toNat) 0 true with tok := s.token }
        inPort s pa 8 true fun s =>
          let (s', extra) := scalarRun s.fresh pa true
          retire (now' s' (.memStore q)) false (1 + extra)
where
  /-- The event at the end of this cycle. -/
  now' (s : State) (e : Event) : State := s.at s.cyc (.event e)

end Sys2Proof.Machine
end

