-- ==== Sys2Proof/Machine/Translation.lean ====
section
/-! DEFINITION. Walks that end (R54 to R57), shootdowns (R58), and tier migration with its free-frame rings (R59 to
R61, R78, R134). -/

namespace Sys2Proof.Machine

/-! ## Walks (R56) -/

/-- A walk leaves its walker: its result goes to the creel over the mesh. -/
def leaveWalker (s : State) (w : Walk) (leaf : Word) (addr size cause : Nat) : State :=
  let gone (x : Walk) : Walk := if x.id = w.id then { x with walker := 2 ^ 20, active := false } else x
  { s with walks := s.walks.map gone }.after (walkerCycles w.thread.core w.walker) (.walkEnd w.id leaf addr size cause)

/-- R51, R56. A free walker takes the next miss that has reached it; one whose root table no walker may read ends at once. -/
def nextWalk (s : State) (walker : Nat) : Nat → State
  | 0 => s
  | fuel + 1 => match s.walks.find? fun w => decide (w.walker = walker ∧ w.there = true) with
    | none => s
    | some w =>
      if w.active then s
      else match tableCause s w.addr with
        | 0 => walkOn { s with walks := s.walks.map fun x => if x.id = w.id then { x with active := true } else x } w
        | n => nextWalk (leaveWalker s w 0 0 0 n) walker fuel

/-- The walker is done with a walk, and takes its next miss. -/
def endWalk (s : State) (w : Walk) (leaf : Word) (addr size cause : Nat) : State :=
  nextWalk (leaveWalker s w leaf addr size cause) w.walker (s.walks.length + 1)

/-- R56. A miss reaches its walker, which serves its misses in order of arrival. -/
def walkArrive (s : State) (id : Nat) : State :=
  match s.walks.find? fun w => decide (w.id = id) with
  | none => s
  | some w => nextWalk { s with walks := s.walks.erase w ++ [{ w with there := true }] } w.walker (s.walks.length + 1)

/-- The entry a walk stands at is read at its home; its reply goes back to the walker. -/
def walkRead (s : State) (id : Nat) : State :=
  match s.walks.find? fun w => decide (w.id = id) with
  | none => s
  | some w =>
    let time := match homeOf s w.addr with | some h => homeTime h s.free | none => 1
    s.drawn.after (time + entryCycles s w) (.event (.walkEntryReply id (readWord s w.addr) (if poisoned s w.addr 8 then 1 else 0)))

/-- R56. An entry read by a walker arrives: the walk goes on, ends at a leaf, or ends in a walk cause. An
uncorrectable error in it is consumed by the thread that missed (R138). -/
def execWalkEntryReply (walk : Nat) (entry : Word) (status : Nat) (s : State) : Out :=
  match s.walks.find? fun w => decide (w.id = walk) with
  | none => .next s
  | some w =>
    if status = 1 then
      let s := endWalk s w 0 0 0 0
      .next (consumeError { s with walks := s.walks.filter fun x => x.id ≠ w.id } w.thread)
    else match readEntry s entry w.level w.va with
      | .cause n => .next (endWalk s w 0 0 0 n)
      | .leaf => .next (endWalk s w entry w.addr (4 - w.level) 0)
      | .table a =>
        let w' := { w with level := w.level + 1, addr := a + 8 * walkIndex w.va (w.level + 1) }
        let s := { s with walks := s.walks.map fun x => if x.id = walk then w' else x }
        (match tableCause s w'.addr with
          | 0 => .next (walkOn s w')
          | n => .next (endWalk s w' 0 0 0 n))

/-- R55, R56, R274. A walk's result reaches the creel: the translation cache is filled and the access goes on, or the
thread takes TRANSLATION at its next issue. -/
def walkEnd (s : State) (id : Nat) (leaf : Word) (addr size cause : Nat) : State :=
  match s.walks.find? fun w => decide (w.id = id) with
  | none => s
  | some w =>
    let s := { s with walks := s.walks.filter fun x => x.id ≠ id }
    let th := threadOf s w.thread
    let waits := decide (th.wait = .redo (.walk id))
    if w.stale then (if waits then s.at s.cyc (.redo w.thread) else s)
    else if cause ≠ 0 then
      if waits then
        let va := if th.parked.isNone && decide (th.pc.toNat / 64 = w.va / 64) then th.pc.toNat else w.va
        trapLater s w.thread (trapTranslation cause va)
      else s
    else
      let vpage := w.va / pageBytes size
      let s := tlbFill s w.creel ⟨w.asid, vpage, size, leaf, addr, s.cyc, s.cyc⟩
      if waits then s.at s.cyc (.redo w.thread) else s

/-- R55. An entry of a MIG page is dropped 2^24 cycles after its walk. -/
def execTlbMigEntryExpiry (c : CreelId) (asid : BitVec 16) (vpage size : Nat) (s : State) : Out :=
  .next (modCreel s c fun k => { k with tlb := k.tlb.filter fun e =>
    !(decide (e.asid = asid ∧ e.vpage = vpage ∧ e.size = size ∧ e.walked + 2 ^ 24 ≤ s.cyc)) })

/-! ## Shootdowns (R58) -/

/-- Does a shootdown cover a page of an address space? -/
def sdCovers (sd : Shootdown) (asid : BitVec 16) (va len : Nat) : Bool :=
  decide (sd.size = 5) || (decide (asid = sd.asid) && (decide (sd.size = 4) ||
    (let page := pageBytes sd.size
     let base := sd.vpage * 65536 / page * page
     decide (va < base + page ∧ base < va + len))))

/-- The creels of a reach (R58): 0 own creel, 2 own team, 3 own die, 4 device. The own team of a supervisor thread that
belongs to none is its own creel (DESIGN CHOICE, log 79: the spec gives such a thread no team). -/
def reachOf (s : State) (t : ThreadId) (reach : Nat) : List CreelId :=
  let c := t.core
  match reach with
  | 2 => (match teamRect s (threadOf s t) with
      | some r => creelsIn s r.x r.y r.w r.h
      | none => [⟨c.x, c.y⟩])
  | 3 => creelsIn s (32 * (c.die % 4)) (32 * (c.die / 4)) 32 32
  | 4 => creelsIn s 0 0 128 64
  | _ => [⟨c.x, c.y⟩]

/-- The shootdown registers of a slot. -/
def tsdOf (s : State) (t : ThreadId) : TsdSt := s.tsd.get t TsdSt.initial

/-- R58. A write of TSD_CTL. -/
def execTsdCtlShootdown (t : ThreadId) (v : Word) (s : State) : Out :=
  let r := tsdOf s t
  let size := (v.extractLsb' 8 3).toNat
  let reach := (v.extractLsb' 0 3).toNat
  if r.busy || decide (6 ≤ size) || !(reach = 0 || reach = 2 || reach = 3 || reach = 4) then
    .next { s with tsd := s.tsd.put t { r with rej := true } }
  else
    let sd : Shootdown := ⟨t, v.extractLsb' 48 16, (r.va.extractLsb' 16 41).toNat, size⟩
    let cs := reachOf s t reach
    let s := { s with tsd := s.tsd.put t { r with expect := cs.length, count := 0, busy := true } }
    .next (cs.foldl (fun s k =>
      s.after (meshCycles t.core.x t.core.y k.x k.y) (.event (.shootdownReceive k sd))) s)

/-- The request that an agenda entry brings to its home, or whose reply it brings back. -/
def accessOf : Act → Option MemReq
  | .event (.memoryReply r) => some r.req
  | .event (.memLoad q) => some q
  | .event (.memStore q) => some q
  | .event (.memAtomic q) => some q
  | .event (.memFullEmpty q) => some q
  | .event (.memSubByteStore q) => some q
  | _ => none

/-- Is an access of a creel's cores or engines outstanding that used an entry the shootdown covers (R58 step 1)? -/
def sdHeld (s : State) (c : CreelId) (sd : Shootdown) : Bool :=
  (s.threads.any fun (t, th) => decide (t.core.creel = c) &&
    (th.posted.any (fun p => sdCovers sd th.asid p.va 8) ||
      (match th.wait, th.req with
        | .reply _, some q => sdCovers sd th.asid q.va q.len
        | .line va, _ => sdCovers sd th.asid va 64
        | _, _ => false))) ||
  -- what no thread's own record names: the lines of CBLOAD and AUTLOAD, and gate tests
  (s.agenda.any fun d => match accessOf d.act with
    | some q => (match q.who with
      | .slot t => decide (t.core.creel = c) && sdCovers sd (threadOf s t).asid q.va q.len
      | .gate k _ _ _ => decide (k = c) && sdCovers sd sd.asid q.va q.len
      | _ => false)
    | none => false) ||
  ((creelOf s c).engines.any fun (_, e) => e.work.any fun k => sdCovers sd k.asid 0 (2 ^ 57))

/-- Does a creel's shootdown stand for the control region of its die as well? -/
def besideControl (c : CreelId) : Bool := decide (c.x % 32 = 0 ∧ c.y % 32 = 0)

/-- R36. The time of a completion up the reach's tree, one parent message for each edge of the route from the issuer
(DEDUCED, log 85). -/
def treeCycles (x0 y0 x1 y1 : Nat) : Nat :=
  axisCycles x0 x1 + axisCycles y0 y1 + 2 * max 1 ((max x0 x1 - min x0 x1) + (max y0 y1 - min y0 y1))

/-- R58. A creel receives a shootdown and waits for the accesses that used a matching entry. -/
def execShootdownReceive (c : CreelId) (sd : Shootdown) (s : State) : Out :=
  let held := sdHeld s c sd || (besideControl c && sdHeld s (controlRegion c.die) sd)
  .next (s.after 1 (.event (if held then .shootdownReceive c sd else .shootdownCreelDone c sd)))

/-- The entries of a creel that a shootdown covers removed; its walks under way for a covered page are made anew. -/
def sdRemove (s : State) (k : CreelId) (sd : Shootdown) : State :=
  let stale (w : Walk) : Walk := if w.creel = k ∧ sdCovers sd w.asid w.va 1 then { w with stale := true } else w
  modCreel { s with walks := s.walks.map stale } k fun c => { c with tlb := c.tlb.filter fun e => !sdCovers sd e.asid (e.vpage * pageBytes e.size) (pageBytes e.size) }

/-- R58. The creel removes the entries, with those of the control region it stands beside, and sends a completion. -/
def execShootdownCreelDone (c : CreelId) (sd : Shootdown) (s : State) : Out :=
  let s := sdRemove s c sd
  let s := if besideControl c then sdRemove s (controlRegion c.die) sd else s
  .next (s.after (treeCycles c.x c.y sd.issuer.core.x sd.issuer.core.y) (.event (.shootdownCompletion sd.issuer)))

/-- R58. A completion is counted; with all of them in, the shootdown is over. -/
def execShootdownCompletion (t : ThreadId) (s : State) : Out :=
  let r := tsdOf s t
  let n := r.count + 1
  .next { s with tsd := s.tsd.put t { r with count := n, busy := r.busy && decide (n ≠ r.expect) } }

/-! ## Free-frame rings (R78) -/

/-- MIG_CTL of a die, reset value in place (R61). -/
def migCtl (s : State) (die : Nat) : Word := s.dieRegs.get (die, 0x10000) 0x0100404000000000#64
/-- EN of MIG_CTL. -/
def migEn (s : State) (die : Nat) : Bool := (migCtl s die).getLsbD 0
/-- MIG_RBASE of a ring. -/
def migRbase (s : State) (die ring : Nat) : Word := s.dieRegs.get (die, 0x10040 + 8 * ring) 0
/-- Entries of a ring: none while LOG2N is outside 9 to 20. -/
def ringSize (s : State) (die ring : Nat) : Nat :=
  let l := ((migRbase s die ring).extractLsb' 0 5).toNat
  if 9 ≤ l ∧ l ≤ 20 then 2 ^ l else 0
/-- The address of entry i of a ring. -/
def ringAddr (s : State) (die ring i : Nat) : Nat :=
  ((migRbase s die ring).extractLsb' 12 40).toNat * 4096 + 8 * (i % max 1 (ringSize s die ring))

/-- R78, R50. May hardware access entry i of a ring? A ring lies in HBM4; an entry that does not is never accessed, and its ring
counts as full to a frame offered and as empty to one wanted (DESIGN CHOICE, log 83). -/
def ringReach (s : State) (die ring i : Nat) : Bool := tableCause s (ringAddr s die ring i) = 0

/-- A frame appended to a ring; false when the ring is full. -/
def ringPush (s : State) (die ring frame : Nat) : State × Bool :=
  let (head, n) := s.frameRings.get (die, ring) (0, 0)
  if ringSize s die ring ≤ n ∨ ringReach s die ring (head + n) = false then (s, false)
  else
    let s := writeWord s (ringAddr s die ring (head + n)) (BitVec.ofNat 64 frame)
    ({ s with frameRings := s.frameRings.put (die, ring) (head, n + 1) }, true)

/-- A frame taken from a ring. -/
def ringPop (s : State) (die ring : Nat) : Option (State × Nat) :=
  let (head, n) := s.frameRings.get (die, ring) (0, 0)
  if n = 0 ∨ ringReach s die ring head = false then none
  else
    let f := (readWord s (ringAddr s die ring head)).toNat
    some ({ s with frameRings := s.frameRings.put (die, ring) ((head + 1) % max 1 (ringSize s die ring), n - 1) }, f)

/-- Does a frame suit a ring: its tier and die, and its alignment for the size (R78)? -/
def frameSuits (s : State) (die ring frame : Nat) : Bool :=
  decide (frame % (if ring % 2 = 1 then 2 ^ 24 else 2 ^ 16) = 0) &&
    (match homeOf s frame with
      | some (.control d cap _) => decide (d = die) && (cap == decide (2 ≤ ring))
      | _ => false)

/-- R78. A frame offered to a ring; a full ring refuses it, and that is counted. -/
def ringOffer (s : State) (die ring frame : Nat) : State :=
  let (s', ok) := ringPush s die ring frame
  if ok then s' else count s die 14

/-- R78. A frame offered through MIG_FREE. -/
def execMigFreeWrite (die ring : Nat) (v : Word) (s : State) : Out :=
  let f := (v.extractLsb' 16 36).toNat * 65536
  .next (if frameSuits s die ring f then ringOffer s die ring f else count s die 14)

/-- R78. A write of MIG_RBASE: only while migration is disabled. The ring starts empty, and a LOG2N outside 9 to 20 makes a
ring of no entries (DESIGN CHOICE, log 83: the spec says neither). -/
def execMigRbaseWrite (die ring : Nat) (v : Word) (s : State) : Out :=
  if migEn s die then .next s
  else .next { s with
    dieRegs := s.dieRegs.put (die, 0x10040 + 8 * ring) (v &&& 0x000FFFFFFFFFF01F#64)
    frameRings := s.frameRings.put (die, ring) (0, 0) }

/-! ## Migration (R59 to R61, R134) -/

/-- The 64 KiB frames of a page. -/
def pageFrames (base : Nat) (big : Bool) : List Nat := (List.range (if big then 256 else 1)).map fun i => base / 65536 + i

/-- The access count of a page (R59): the sum over its frames, which is not itself held at 0xFFFF (DESIGN CHOICE, log 80). -/
def pageCount (s : State) (base : Nat) (big : Bool) : Nat :=
  ((pageFrames base big).map fun f => s.frameCount.get f 0).sum

/-- The idle count of a page: the least of its frames'. -/
def pageIdle (s : State) (base : Nat) (big : Bool) : Nat :=
  ((pageFrames base big).map fun f => s.idleEpochs.get f 0).foldl min 0xFFFF

/-- A page that may move at an epoch's end: base, size, promotion or demotion, count, leaf address and leaf. -/
structure Candidate where
  base : Nat
  big : Bool
  up : Bool
  count : Nat
  leafAddr : Nat
  leaf : Word
  deriving DecidableEq, Repr

/-- R60. Is a page that requests have named a candidate, and which way? -/
def candidateOf (s : State) (die : Nat) (base : Nat) (info : Nat × Nat × Word) : Option Candidate :=
  let (size, leafAddr, leaf) := info
  let big := decide (size = 1)
  let n := pageCount s base big
  let idle := pageIdle s base big
  let heat := pteHeat leaf
  let ctl := migCtl s die
  let promote := (ctl.extractLsb' 48 16).toNat
  let demote := (ctl.extractLsb' 44 4).toNat
  let now := readWord s leafAddr
  if 2 ≤ size || s.moves.any (fun m => decide (m.old = base)) then none
  else if !(pteV now && pteLeaf now && pteMig now && decide (pteFrame now = base)) then none
  else match homeOf s base with
    | some (.control d true _) =>
      if d = die && (decide (promote ≤ n) || (decide (heat = 3) && decide (1 ≤ n))) then
        some ⟨base, big, true, n, leafAddr, leaf⟩ else none
    | some (.control d false _) =>
      if d = die && decide (heat ≠ 3) && ((decide (demote ≠ 0 ∧ demote ≤ idle ∧ heat ≤ 1)) || decide (1 ≤ idle ∧ heat = 0))
      then some ⟨base, big, false, n, leafAddr, leaf⟩ else none
    | _ => none

/-- Candidates in their order: decreasing count, then increasing address. -/
def insertCandidate (c : Candidate) : List Candidate → List Candidate
  | [] => [c]
  | d :: r => if d.count < c.count ∨ (d.count = c.count ∧ c.base < d.base) then c :: d :: r else d :: insertCandidate c r

/-- R60. The moves of an epoch started, at most `left` of them. -/
def startMoves (s : State) (die : Nat) : Nat → List Candidate → State
  | 0, _ => s
  | _, [] => s
  | left + 1, c :: r =>
    let ring := (if c.up then 0 else 2) + (if c.big then 1 else 0)
    match ringPop s die ring with
    | none => startMoves (count s die 13) die (left + 1) r
    | some (s, f) =>
      let m : Move := ⟨s.token, die, c.big, c.up, c.base, f, c.leafAddr, readWord s c.leafAddr, 0⟩
      startMoves ({ s with moves := s.moves ++ [m] }.fresh.drawn.after (1 + Config.delay s.free)
        (.event (.migrationLineCopy die m.id))) die left r

/-- R59, R60. An epoch ends: idle counts change, the moves of the die are chosen and started, access counts clear. -/
def execMigrationEpochEnd (die : Nat) (s : State) : Out :=
  if !migEn s die then .next s
  else
    let mine := s.frameHeat.filter fun (base, _) => match homeOf s base with
      | some (.control d _ _) => decide (d = die)
      | _ => false
    let frames := mine.flatMap fun (base, info) => pageFrames base (decide (info.1 = 1))
    let s := { s with idleEpochs := frames.foldl (fun m f =>
      m.put f (if s.frameCount.get f 0 = 0 then min 0xFFFF (m.get f 0 + 1) else 0)) s.idleEpochs }
    let cs := mine.foldl (fun acc (base, info) => match candidateOf s die base info with
      | some c => insertCandidate c acc
      | none => acc) []
    let s := startMoves s die ((migCtl s die).extractLsb' 32 12).toNat cs
    let here (f : Nat) : Bool := match homeOf s (65536 * f) with
      | some (.control d _ _) => decide (d = die)
      | _ => true
    .next ({ s with frameCount := s.frameCount.filter fun x => !here x.1 }.after (2 ^ 24)
      (.event (.migrationEpochEnd die)))

/-- Bytes of a page on the move. -/
def Move.bytes (m : Move) : Nat := if m.big then 2 ^ 24 else 2 ^ 16

/-- n bytes with their tags, full/empty bits and check states copied between DRAM addresses of one alignment. -/
def copyCells (s : State) (src dst : Nat) : Nat → State
  | 0 => s
  | n + 1 => copyCells { s with
      mem := cellSet s.mem dst (cellGet s.mem src)
      bits := if src % 8 = 0 then cellSet s.bits (dst / 8) (cellGet s.bits (src / 8)) else s.bits
      err := if src % 32 = 0 then cellSet s.err dst (cellGet s.err src) else s.err } (src + 1) (dst + 1) n

/-- R134. One 64-byte line is copied, in increasing address; after the last the move commits. -/
def execMigrationLineCopy (die move : Nat) (s : State) : Out :=
  match s.moves.find? fun m => decide (m.die = die ∧ m.id = move) with
  | none => .next s
  | some m =>
    let s := copyCells s (m.old + 64 * m.line) (m.new + 64 * m.line) 64
    let s := { s with moves := s.moves.map fun x => if x = m then { m with line := m.line + 1 } else x }
    .next (s.drawn.after (1 + Config.delay s.free) (.event
      (if 64 * (m.line + 1) < m.bytes then .migrationLineCopy die move else .migrationCommit die move)))

/-- R134. A write performed at a frame on the move whose line has been copied is forwarded to the new frame. -/
def mirror (s : State) (pa n : Nat) : State :=
  s.moves.foldl (fun s m =>
    if m.old ≤ pa && pa < m.old + m.bytes then
      let a := pa / 32 * 32
      let e := min (m.old + 64 * m.line) ((pa + n + 31) / 32 * 32)
      copyCells s a (m.new + (a - m.old)) (e - a)
    else s) s

/-- The leaf after a move: new frame, tier and version (R61). -/
def movedLeaf (m : Move) : Word :=
  let l := m.leaf
  l.extractLsb' 60 4 ++ (pteVer l + 1) ++ BitVec.ofNat 36 (m.new / 65536) ++ l.extractLsb' 11 5
    ++ (if m.up then 1#2 else 2#2) ++ l.extractLsb' 0 9

/-- The full/empty and barrier waits recorded at a page that has moved are answered RETRANSLATE (R330). -/
def moveWaiters (s : State) (m : Move) : State :=
  (s.waiters.filter fun w => decide (m.old ≤ w.pa ∧ w.pa < m.old + m.bytes)).foldl (fun s w =>
    match w.q with
    | some q => sendReply (dropWaiter s w) q 2 [] 0
    | none => s) s

/-- R61. The commit: an atomic compare-and-swap of the leaf entry; or the move is abandoned. -/
def execMigrationCommit (die move : Nat) (s : State) : Out :=
  match s.moves.find? fun m => decide (m.die = die ∧ m.id = move) with
  | none => .next s
  | some m =>
    let s := { s with moves := s.moves.erase m }
    let big := if m.big then 1 else 0
    if readWord s m.leafAddr = m.leaf then
      let leaf := movedLeaf m
      let s := performWrite s m.leafAddr (leBytes 8 leaf.toNat) false
      let vers := (pageFrames m.old m.big ++ pageFrames m.new m.big).foldl (fun v f => v.put f (pteVer leaf)) s.frameVer
      let s := { s with
        frameVer := vers
        idleEpochs := (pageFrames m.old m.big ++ pageFrames m.new m.big).foldl (fun v f => v.del f) s.idleEpochs
        frameHeat := (s.frameHeat.del m.old).put m.new (big, m.leafAddr, leaf) }
      let s := moveWaiters (count s die 11) m
      .next (s.after (2 ^ 24) (.event (.migrationFrameRelease die ((if m.up then 2 else 0) + big) m.old)))
    else
      .next (ringOffer (count s die 12) die ((if m.up then 0 else 2) + big) m.new)

/-- R61. The old frame returns to its ring, 2^24 cycles after the commit. -/
def execMigrationFrameRelease (die ring frame : Nat) (s : State) : Out :=
  .next (ringOffer s die ring frame)

end Sys2Proof.Machine
end

