-- ==== Sys2Proof/Machine/RegMap.lean ====
section
/-! DEFINITION. Registers: the register space of the dies (R72) with its power, migration, counter, scheduler, fleet,
boot, update, Ethernet, capacity and debug blocks, and the system registers (R268). A write of a register with a row of
its own in the opcode table is that event, performed at the end of the cycle (R306). -/

namespace Sys2Proof.Machine

/-! ## Small helpers -/

/-- A number placed at a bit. -/
def bitsAt (v lo : Nat) : Word := BitVec.ofNat 64 v <<< lo

/-- A flag placed at a bit. -/
def flagAt (b : Bool) (lo : Nat) : Word := if b then 1#64 <<< lo else 0

/-- A register after a write of its RW fields (R8). -/
def maskWrite (old v mask : Word) : Word := (old &&& ~~~mask) ||| (v &&& mask)

/-- An event at the end of this cycle. -/
def now (s : State) (e : Event) : State := s.at s.cyc (.event e)

/-- Events of the agenda that satisfy a test are dropped. -/
def cancel (s : State) (p : Event → Bool) : State :=
  { s with agenda := s.agenda.filter fun d => match d.act with
    | .event e => !p e
    | _ => true }

/-! ## Power block (R29) -/

/-- STATE as PWR_STAT reads it. -/
def powerCode (p : Power) : Nat := match p with
  | .off => 0
  | .standby => 1
  | .moored => 2
  | .idle => 3
  | .run => 4

/-- HOLD: the mooring holders (R18). -/
def holders (p : PowerSt) : Bool := p.pin || p.cmd || p.trip

/-- PWR_STAT. -/
def pwrStat (p : PowerSt) : Word :=
  bitsAt p.tripCount.toNat 48 ||| bitsAt p.lastResult.toNat 24 ||| flagAt p.coldFlag 18 ||| flagAt p.tripFlag 17
    ||| flagAt p.lossFlag 16 ||| flagAt p.trip 10 ||| flagAt p.cmd 9 ||| flagAt p.pin 8
    ||| flagAt (decide (p.trans ≠ .none)) 4 ||| bitsAt (powerCode p.state) 0

/-- BOOT_STAT (R27). -/
def bootStat (s : State) : Word :=
  bitsAt s.hbmFail.toNat 48 ||| bitsAt s.lpFail.toNat 40 ||| bitsAt s.dieExcl.toNat 32
    ||| bitsAt s.power.ethFail.toNat 16 ||| bitsAt s.power.donePhase 4 ||| bitsAt s.power.code 0

/-- The bits of PWR_MASK word n whose creels are there (R29). -/
def maskUsable (s : State) (n : Nat) : Word :=
  (List.range 64).foldl (fun w i => w ||| flagAt (creelThere s ⟨64 * (n % 2) + i, n / 2⟩) i) 0

/-- PWR_MASK word n as it reads: the last value written. -/
def pwrMask (s : State) (n : Nat) : Word :=
  ((s.power.stored.find n).getD (s.power.mask.get n (BitVec.allOnes 64))) &&& maskUsable s n

/-- A read of the power block; none for an unassigned offset. -/
def powerRead (s : State) (off : Nat) : Option Word :=
  if off = 0 then some 0
  else if off = 8 then some (pwrStat s.power)
  else if off = 0x10 then some (s.power.limit.setWidth 64)
  else if off = 0x18 then some (s.power.watts.setWidth 64)
  else if off = 0x20 then some s.power.moorDur
  else if off = 0x28 then some (s.power.moorCount.setWidth 64)
  else if off = 0x30 then some (bootStat s)
  else if 0x400 ≤ off ∧ off < 0x800 ∧ off % 8 = 0 then some (pwrMask s ((off - 0x400) / 8))
  else none

/-- The event of a PWR_CMD write (R13, R29). -/
def powerCommand (v : Word) : Event :=
  match (v.extractLsb' 0 8).toNat with
  | 1 => .pwrCmdStandby
  | 2 => .pwrCmdWake
  | 3 => .pwrCmdIdle
  | 4 => .pwrCmdRun
  | 5 => .pwrCmdMoor
  | 6 => .pwrCmdResume
  | _ => .pwrCmdInvalid (v.extractLsb' 0 8)

/-- A write of the power block. -/
def powerWrite (s : State) (off : Nat) (v : Word) : State :=
  if off = 0 then now s (powerCommand v)
  else if off = 8 then { s with power := { s.power with
    coldFlag := s.power.coldFlag && !v.getLsbD 18
    tripFlag := s.power.tripFlag && !v.getLsbD 17
    lossFlag := s.power.lossFlag && !v.getLsbD 16 } }
  else if off = 0x10 then now s (.pwrLimitWrite v)
  else if 0x400 ≤ off ∧ off < 0x800 ∧ off % 8 = 0 then now s (.pwrMaskWrite ((off - 0x400) / 8) v)
  else s

/-! ## Capacity block (R122, R126) -/

/-- PHASE of SLUICE_STAT. -/
def sluicePhase (c : CreelSt) : Nat := match c.sluice with
  | some u => u.phase
  | none => 0

/-- LEFT of SLUICE_STAT. -/
def sluiceLeft (c : CreelSt) : Nat := match c.sluice with
  | some u => min 0xFFFF (u.units.length + (if u.copying.isSome then 1 else 0))
  | none => 0

/-- A read of a creel's capacity block; none for an unassigned offset. A creel that is not there has no capacity
(R123). -/
def capRead (s : State) (k : CreelId) (off : Nat) : Option Word :=
  let c := creelOf s k
  let there := creelThere s k
  let core (n : Nat) := c.capCore.get n CapCore.initial
  if off = 0 then some (bitsAt c.capVer.toNat 32 ||| (if there then bitsAt c.spBytes 0 else 0))
  else if off = 8 then some c.spRet
  else if 0x10 ≤ off ∧ off < 0x48 ∧ off % 8 = 0 then
    let p := core ((off - 0x10) / 8)
    some (if there then bitsAt p.icBytes 32 ||| bitsAt p.regN 16 ||| bitsAt p.lsBytes 0 else 0)
  else if 0x48 ≤ off ∧ off < 0x80 ∧ off % 8 = 0 then some ((core ((off - 0x48) / 8)).ret.setWidth 64)
  else if off = 0x80 then some (bitsAt c.thresh.toNat 32)
  else if off = 0x88 then some (bitsAt c.mapv.toNat 56 ||| bitsAt (min 255 c.sluiceQ.length) 48
    ||| bitsAt c.lastRet.toNat 40 ||| bitsAt (sluicePhase c) 32 ||| bitsAt (sluiceLeft c) 0)
  else if 0x100 ≤ off ∧ off < 0x2D0 ∧ off % 8 = 0 then some (c.bce.get off 0)
  else none

/-- A write of a creel's capacity block. -/
def capWrite (s : State) (k : CreelId) (off : Nat) (v : Word) : State :=
  if off = 0x80 then now s (.retCtlRetire k v)
  else if 0x100 ≤ off ∧ off < 0x2D0 ∧ off % 8 = 0 then now s (.bceWrite k off v)
  else s

/-! ## Debug block (R143, R149 to R154) -/

/-- DBG_STAT: the fields of a halt read zero when the creel is not halted. -/
def dbgStat (s : State) (k : CreelId) : Word :=
  let c := creelOf s k
  flagAt c.losth 17 ||| flagAt c.rehalt 16 ||| (match c.halt with
    | some h =>
      if isHalted s k then bitsAt h.cause 12 ||| bitsAt h.which 8 ||| bitsAt (h.ring % 8) 5 ||| bitsAt h.slot 1 ||| 1 else 0
    | none => 0)

/-- Class 3 of a core's account: the RUN cycles that no other class holds (R154; DEDUCED, log 22). -/
def dbgIdle (s : State) (c : CreelSt) (off : Nat) : Word := BitVec.ofNat 64 (s.runCyc - (c.dbg.get off 0).toNat)

/-- A word of a creel's debug block gains n, saturating (R76). -/
def dbgAdd (s : State) (k : CreelId) (off n : Nat) : State :=
  modCreel s k fun c => { c with
    dbg := c.dbg.put off (BitVec.ofNat 64 (min (2 ^ 64 - 1) ((c.dbg.get off 0).toNat + n))) }

/-- Is this offset an ACCT counter; and is it a class 3? -/
def acctOffset (off : Nat) : Bool := decide (0x100 ≤ off ∧ off < 0x1A0 ∧ off % 8 = 0)
/-- An ACCT counter of class 3. -/
def acctIdle (off : Nat) : Bool := acctOffset off && decide ((off - 0x100) % 0x28 = 0x18)

/-- A read of a creel's debug block; none for an unassigned offset. -/
def dbgRead (s : State) (k : CreelId) (off : Nat) : Option Word :=
  if off = 8 then some (dbgStat s k)
  else if acctIdle off then some (dbgIdle s (creelOf s k) off)
  else if off % 8 = 0 ∧ (off < 0x98 ∨ off = 0xA0 ∨ off = 0xA8 ∨ off = 0xB0) || acctOffset off then some (dbgReg s k off)
  else none

/-- The RW bits of a plain register of the debug block. -/
def dbgMask (off : Nat) : Word :=
  if off = 0 then 7#64
  else if 0x18 ≤ off ∧ off < 0x38 then 0x01FFFFFFFFFFFFFC#64
  else if 0x38 ≤ off ∧ off < 0x58 then 0xFFFF00001F7FFFFF#64
  else if 0x58 ≤ off ∧ off < 0x68 then 0x01FFFFFFFFFFFFFF#64
  else if 0x68 ≤ off ∧ off < 0x78 then 0xFFFF3F00677FFFFF#64
  else if off = 0x80 then 0x00000000FFFFFFFF#64
  else if off = 0x88 then 0x000000FF007FFFFF#64
  else 0

/-- R107, R143. TREC_CTL or TRC_CTL after a write: LOG2N keeps its value where the written one is outside 8 to `top`. -/
def ringCtl (old v : Word) (top : Nat) : Word :=
  let l := (v.extractLsb' 1 5).toNat
  maskWrite old v (if 8 ≤ l ∧ l ≤ top then 0x000FFFFFFFFFF03F#64 else 0x000FFFFFFFFFF001#64)

/-- R152. SMP_CTL written: sampling starts afresh, or ends. -/
def writeSample (s : State) (k : CreelId) (v : Word) : State :=
  let l := (v.extractLsb' 0 5).toNat
  let w := maskWrite (dbgReg s k 0x90) v (if 8 ≤ l ∧ l ≤ 24 then 0x11F#64 else 0x100#64)
  let s := modCreel s k fun c => { c with dbg := c.dbg.put 0x90 w }
  let s := cancel s fun e => match e with
    | .sampleTick x => decide (x = k)
    | _ => false
  let p := (w.extractLsb' 0 5).toNat
  if w.getLsbD 8 && decide (8 ≤ p ∧ p ≤ 24) then s.after (2 ^ p) (.event (.sampleTick k)) else s

/-- A write of a creel's debug block (R8, R76, R143). -/
def dbgWrite (s : State) (k : CreelId) (off : Nat) (v : Word) : State :=
  let put (w : Word) : State := modCreel s k fun c => { c with dbg := c.dbg.put off w }
  if off = 8 then modCreel s k fun c => { c with losth := c.losth && !v.getLsbD 17 }
  else if off = 0x78 then put (ringCtl (dbgReg s k off) v 24)
  else if off = 0x90 then writeSample s k v
  else if off = 0xA0 ∨ off = 0xA8 ∨ off = 0xB0 then (if v = 0 then put 0 else s)
  else if acctIdle off then (if v = 0 then put (BitVec.ofNat 64 s.runCyc) else s)
  else if acctOffset off then (if v = 0 then put 0 else s)
  else if dbgMask off = 0 then s
  else put (maskWrite (dbgReg s k off) v (dbgMask off))

/-! ## Ethernet block (R44) -/

/-- ETH_CFG without LINK, its reset value in place (R44). -/
def ethCfg (s : State) (port : Nat) : Word :=
  s.dieRegs.get (port / 2, 0x80020 + 0x100 * (port % 2)) 0x324B4800#64

/-- A port's receive state. -/
def ethPort (s : State) (port : Nat) : EthPort := s.eth.get port EthPort.initial

/-- A read of a port's configuration register. -/
def ethRead (s : State) (port off : Nat) : Word :=
  if off = 0 then s.dieRegs.get (port / 2, 0x80000 + 0x100 * (port % 2)) ((Config.factoryMac port).setWidth 64)
  else if off = 0x20 then ethCfg s port ||| flagAt (ethPort s port).link 2
  else s.dieRegs.get (port / 2, 0x80000 + 0x100 * (port % 2) + off) 0

/-- R44. A machine whose port has its registers as the frames of this cycle find them: a write takes effect from the next cycle. -/
def framesSee (s : State) (port : Nat) : State :=
  match (ethPort s port).before with
  | some (w, old) => if w = s.wall then { s with dieRegs := old } else s
  | none => s

/-- R44. A register of a port written; what the port's registers held before this cycle is kept until its end. -/
def ethPut (s : State) (port off : Nat) (v : Word) : State :=
  let p := ethPort s port
  let mine (k : Nat × Nat) : Bool := decide (k.1 = port / 2 ∧ k.2 / 0x100 = 0x800 + port % 2)
  let was := match p.before with
    | some (w, old) => if w = s.wall then old else s.dieRegs.filter fun x => mine x.1
    | none => s.dieRegs.filter fun x => mine x.1
  { s with
    dieRegs := s.dieRegs.put (port / 2, 0x80000 + 0x100 * (port % 2) + off) v
    eth := s.eth.put port { p with before := some (s.wall, was) } }

/-! ## Boot unit (R411) and update unit (R418) -/

/-- The boot unit of a die. -/
def bootOf (s : State) (die : Nat) : BootSt := s.boot.get die BootSt.initial

/-- A boot unit changed. -/
def modBoot (s : State) (die : Nat) (f : BootSt → BootSt) : State :=
  { s with boot := s.boot.put die (f (bootOf s die)) }

/-- FLOOD_STAT. -/
def floodStat (b : BootSt) (die : Nat) : Word :=
  bitsAt b.imgack 48 ||| bitsAt b.ans 32 ||| bitsAt b.lastf.toNat 24 ||| bitsAt die 8 ||| flagAt b.rej 2
    ||| flagAt b.late 1 ||| flagAt b.busy 0

/-- FWU_STAT. -/
def fwuStat (f : FwuSt) : Word :=
  bitsAt f.result.toNat 56 ||| bitsAt f.updn.toNat 32 ||| flagAt f.tgt 4 ||| bitsAt f.phase 0

/-- PRE_STAT (R112). -/
def preStat (s : State) : Word :=
  bitsAt s.preReqs.toNat 32 ||| bitsAt s.preLast.toNat 24 ||| bitsAt s.preAction.toNat 16

/-- R112. The event of a PRE_REQ write. -/
def preRequest (v : Word) : Event :=
  if v.getLsbD 1 then .preReqResume v
  else match (v.extractLsb' 38 2).toNat with
  | 1 => .preReqSave v
  | 2 => .preReqDiscard v
  | 3 => .preReqDrain v
  | _ => .preReqEstimate v

/-! ## The register space of a die (R72) -/

/-- The creel whose capacity block holds a die-block offset, and the offset in the block. -/
def capBlock (die off : Nat) : CreelId × Nat :=
  let i := (off - 0x100000) / 0x400
  (⟨32 * (die % 4) + i % 32, 32 * (die / 4) + i / 32⟩, off % 0x400)

/-- The same for a debug block. -/
def dbgBlock (die off : Nat) : CreelId × Nat :=
  let i := (off - 0x200000) / 0x200
  (⟨32 * (die % 4) + i % 32, 32 * (die / 4) + i / 32⟩, off % 0x200)

/-- A read of a register of a die's block; none for an unassigned offset. -/
def dieRead (s : State) (die off : Nat) : Option Word :=
  if off % 8 ≠ 0 ∨ 8 ≤ die then none
  else if off < 0x800 then (if die = 0 then powerRead s off else none)
  else if off = 0x10000 then some (migCtl s die)
  else if 0x10040 ≤ off ∧ off < 0x10060 then some (migRbase s die ((off - 0x10040) / 8))
  else if 0x10060 ≤ off ∧ off < 0x10080 then
    some (bitsAt (s.frameRings.get (die, (off - 0x10060) / 8) (0, 0)).2 0)
  else if 0x20000 ≤ off ∧ off < 0x20800 then some (s.dieRegs.get (die, off) 0)
  else if off = 0x30000 then (if die = 0 then some 0 else none)
  else if off = 0x30008 then (if die = 0 then some (preStat s) else none)
  else if off = 0x40000 then (if die = 0 then some s.capDver else none)
  else if 0x50000 ≤ off ∧ off < 0x52000 then
    (if die = 0 then some (s.dieRegs.get (0, off) (if off % 32 = 0 then 0xFF else 0)) else none)
  else if off = 0x52000 then (if die = 0 then some ((modSelf s).setWidth 64) else none)
  else if off = 0x60000 then some 0
  else if off = 0x60008 then some (floodStat (bootOf s die) die)
  else if off = 0x60010 then some (bootOf s die).img
  else if 0x60040 ≤ off ∧ off < 0x600C0 then some ((bootOf s die).pres.getD ((off - 0x60040) / 8) 0)
  else if 0x70000 ≤ off ∧ off < 0x70028 then
    (if die ≠ 0 then none
    else if off = 0x70000 then some (fwuStat s.fwu)
    else if off = 0x70008 then some 0x0000000FBFF00000#64
    else if off = 0x70020 then some s.fwu.t0
    else some 0)
  else if 0x80000 ≤ off ∧ off < 0x80200 then
    (if off % 0x100 ≤ 0x20 then some (ethRead s (2 * die + (off - 0x80000) / 0x100) (off % 0x100)) else none)
  else if off = 0x81000 then (if die = 0 then some (s.nv.hostPort.setWidth 64) else none)
  else if 0x100000 ≤ off ∧ off < 0x200000 then capRead s (capBlock die off).1 (capBlock die off).2
  else if 0x200000 ≤ off ∧ off < 0x280000 then dbgRead s (dbgBlock die off).1 (dbgBlock die off).2
  else none

/-- A register of the die's block that is a plain word. -/
def putDie (s : State) (die off : Nat) (v : Word) : State := { s with dieRegs := s.dieRegs.put (die, off) v }

/-- R61. MIG_CTL written; the first epoch begins when EN is set. -/
def writeMigCtl (s : State) (die : Nat) (v : Word) : State :=
  let w := maskWrite (migCtl s die) v 0xFFFFFFFF00000001#64
  let due := s.agenda.any fun d => match d.act with
    | .event (.migrationEpochEnd x) => decide (x = die)
    | _ => false
  let s := putDie s die 0x10000 w
  if w.getLsbD 0 && !due then s.after (2 ^ 24) (.event (.migrationEpochEnd die)) else s

/-- A write of a register of a die's block, by a thread or by the host (R8, R72, R269). -/
def dieWrite (s : State) (die off : Nat) (v : Word) (who : Option ThreadId) : State :=
  if off % 8 ≠ 0 ∨ 8 ≤ die then s
  else if off < 0x800 then (if die = 0 then powerWrite s off v else s)
  else if off = 0x10000 then writeMigCtl s die v
  else if 0x10040 ≤ off ∧ off < 0x10060 then now s (.migRbaseWrite die ((off - 0x10040) / 8) v)
  else if 0x10060 ≤ off ∧ off < 0x10080 then now s (.migFreeWrite die ((off - 0x10060) / 8) v)
  else if 0x20000 ≤ off ∧ off < 0x20800 then now s (.errorCounterWrite die ((off - 0x20000) / 8) v)
  else if off = 0x30000 then (if die = 0 then now s (preRequest v) else s)
  else if 0x50000 ≤ off ∧ off < 0x52000 then
    (if die ≠ 0 then s
    else if off % 32 = 0 then putDie s 0 off (v &&& 0xFF)
    else if off % 32 = 8 then s
    else putDie s 0 off v)
  else if off = 0x52000 then (if die = 0 then now s (.modSelfWrite (v.extractLsb' 0 8)) else s)
  else if off = 0x60000 then
    (if !v.getLsbD 0 then s
    else match (v.extractLsb' 4 2).toNat with
    | 1 => now s (.bootDiscoveryFlood die v)
    | 2 => now s (.bootImageFlood die v)
    | _ => modBoot s die fun b => { b with rej := true })
  else if off = 0x60008 then modBoot s die fun b => { b with rej := b.rej && !v.getLsbD 2, late := b.late && !v.getLsbD 1 }
  else if off = 0x60010 then modBoot s die fun b => { b with img := v &&& 0x000FFFFF0007FFFF#64 }
  else if off = 0x70010 then
    (match who with
    | some t =>
      if die ≠ 0 then s
      else if v.getLsbD 1 then now s (.fwuSigFail t)
      else if v.getLsbD 0 then now s (.fwuSigDone t)
      else s
    | none => s)
  else if off = 0x70018 then
    (match who with
    | some t => if die = 0 then now s (.fwHbWrite t (v.extractLsb' 0 16)) else s
    | none => s)
  else if 0x80000 ≤ off ∧ off < 0x80200 then
    let port := 2 * die + (off - 0x80000) / 0x100
    (if off % 0x100 = 0 then ethPut s port 0 (v &&& 0x0000FFFFFFFFFFFF#64)
    else if off % 0x100 = 8 then ethPut s port 8 (v &&& 0x00000000FFFFFFFF#64)
    else if off % 0x100 = 0x10 ∨ off % 0x100 = 0x18 then ethPut s port (off % 0x100) v
    else if off % 0x100 = 0x20 then now s (.ethCfgWrite port v)
    else s)
  else if off = 0x81000 then
    (if die ≠ 0 then s
    else if v.getLsbD 4 then now (now s (.ethHostPortWrite (v.extractLsb' 0 4))) .ethHostPersist
    else now s (.ethHostPortWrite (v.extractLsb' 0 4)))
  else if 0x100000 ≤ off ∧ off < 0x200000 then capWrite s (capBlock die off).1 (capBlock die off).2 v
  else if 0x200000 ≤ off ∧ off < 0x280000 then dbgWrite s (dbgBlock die off).1 (dbgBlock die off).2 v
  else s

/-- Has an assigned register of a die's block any field that a write can change (status 0x02 of R69)? -/
def dieWritable (off : Nat) : Bool :=
  !(decide (off = 0x18 ∨ off = 0x20 ∨ off = 0x28 ∨ off = 0x30 ∨ off = 0x30008 ∨ off = 0x40000 ∨ off = 0x70000 ∨
      off = 0x70008 ∨ off = 0x70020) || decide (0x60040 ≤ off ∧ off < 0x600C0) ||
    (decide (0x100000 ≤ off ∧ off < 0x200000) &&
      (decide (off % 0x400 < 0x80) || decide (off % 0x400 = 0x88))) ||
    (decide (0x200000 ≤ off ∧ off < 0x280000) && decide (off % 0x200 = 0x10)))

/-! ## System registers (R268) -/

/-- The creel whose registers a core's system registers name; a lengthsman core stands at die-local creel (0, 0) (R35;
DEDUCED, log 23). -/
def regCreel (c : CoreId) : CreelId := ⟨c.x, c.y⟩

/-- R268. The class of a number: 0 unassigned, 1 every thread, 2 every thread but for reads only, 3 supervisor threads
for writes and every thread for reads, 4 supervisor threads, 5 lengthsman cores. -/
def sysClass (n : Nat) : Nat :=
  if n = 0 ∨ n = 6 ∨ n = 7 then 1
  else if 1 ≤ n ∧ n ≤ 5 then 2
  else if 0x10 ≤ n ∧ n ≤ 0x15 then 4
  else if 0x20 ≤ n ∧ n ≤ 0x24 then 4
  else if 0x30 ≤ n ∧ n ≤ 0x35 then 4
  else if 0x40 ≤ n ∧ n ≤ 0x42 then 4
  else if 0x100 ≤ n ∧ n ≤ 0x15F then 3
  else if 0x180 ≤ n ∧ n ≤ 0x1BF then 4
  else if 0x200 ≤ n ∧ n ≤ 0x2FF then 5
  else if n = 0x300 ∨ n = 0x301 ∨ n = 0x310 ∨ n = 0x311 then 5
  else 0

/-- R268. May this thread read, or write, system register n? -/
def sysOk (t : ThreadId) (sup write : Bool) (n : Nat) : Bool :=
  match sysClass n with
  | 1 => true
  | 2 => !write
  | 3 => !write || sup
  | 4 => sup
  | 5 => t.core.isLengthsman
  | _ => false

/-- TSD_STAT (R58). -/
def tsdStat (r : TsdSt) : Word :=
  bitsAt (r.expect % 65536) 32 ||| bitsAt (r.count % 65536) 16 ||| flagAt r.busy 1 ||| flagAt r.rej 0

/-- TQ_RING of a priority (R96). -/
def tqRing (s : State) (k : CreelId) (p : Nat) : Word :=
  let (wr, rd) := ringPtr s k p
  bitsAt (ringLog s k) 32 ||| bitsAt (wr % max 1 (ringLen s k)) 16 ||| bitsAt (rd % max 1 (ringLen s k)) 0

/-- R306. The value of system register n for a thread, DEV_DATA apart. -/
def sysRead (s : State) (t : ThreadId) (n : Nat) : Word :=
  let th := threadOf s t
  let c := coreOf s t.core
  let k := regCreel t.core
  if n = 0 then th.status
  else if n = 1 then th.fmt
  else if n = 2 then th.scl
  else if n = 3 then th.task
  else if n = 4 then th.team.setWidth 64
  else if n = 5 then th.level.setWidth 64
  else if n = 6 then BitVec.ofNat 64 s.cyc
  else if n = 7 then BitVec.ofNat 64 th.progress
  else if n = 0x10 then th.xpc
  else if n = 0x11 then th.xcause
  else if n = 0x12 then th.xinfo
  else if n = 0x13 then c.xvec
  else if n = 0x14 then th.xsca
  else if n = 0x15 then th.xscb
  else if n = 0x20 then c.slotSel
  else if n = 0x22 then (if t.core.isCompute then c.bargeSel.setWidth 64 else 0)
  else if n = 0x23 then c.vtbase
  else if n = 0x24 then c.chpool
  else if 0x30 ≤ n ∧ n ≤ 0x33 then tqRing s k (n - 0x30)
  else if n = 0x34 then (creelOf s k).trecCtl
  else if n = 0x35 then bitsAt ((creelOf s k).trecWr % 2 ^ 32) 32 ||| bitsAt ((creelOf s k).trecRd % 2 ^ 32) 0
  else if n = 0x40 then (tsdOf s t).va
  else if n = 0x42 then tsdStat (tsdOf s t)
  else if 0x100 ≤ n ∧ n ≤ 0x15F then (capRead s k (8 * (n - 0x100))).getD 0
  else if 0x180 ≤ n ∧ n ≤ 0x1BF then (dbgRead s k (8 * (n - 0x180))).getD 0
  else if 0x200 ≤ n ∧ n ≤ 0x2FF then (powerRead s (8 * (n - 0x200))).getD 0
  else if n = 0x301 then preStat s
  else if n = 0x310 then c.devAddr.setWidth 64
  else 0

/-- R173. The barge slot takes a FULL mailbox that it serves from now on, within 64 cycles. -/
def bargeSoon (s : State) (c : CoreId) : State :=
  let due := s.agenda.any fun d => match d.act with
    | .event (.bargeTake x) => decide (x = c)
    | _ => false
  if !due && (List.range 15).any (bargeServes s c) then s.after 4 (.event (.bargeTake c)) else s

/-- R8. A write of a system register that has no row of its own in the opcode table. -/
def plainWrite (s : State) (t : ThreadId) (n : Nat) (v : Word) : State :=
  let k := regCreel t.core
  if n = 0x10 then modThread s t fun th => { th with xpc := v &&& 0x01FFFFFFFFFFFFFE#64 }
  else if n = 0x11 then modThread s t fun th => { th with xcause := v &&& 0xFF }
  else if n = 0x12 then modThread s t fun th => { th with xinfo := v }
  else if n = 0x13 then modCore s t.core fun c => { c with xvec := v &&& 0x01FFFFFFFFFFF001#64 }
  else if n = 0x14 then modThread s t fun th => { th with xsca := v }
  else if n = 0x15 then modThread s t fun th => { th with xscb := v }
  else if n = 0x20 then modCore s t.core fun c => { c with
    slotSel := maskWrite (if v.getLsbD 31 then setBit c.slotSel 31 false else c.slotSel) v 0x171FFF0000FF000F#64 }
  else if n = 0x22 then
    (if t.core.isCompute then bargeSoon (modCore s t.core fun c => { c with bargeSel := v.extractLsb' 0 15 }) t.core else s)
  else if n = 0x23 then modCore s t.core fun c => { c with vtbase := v &&& 0x00000000000FF801#64 }
  else if n = 0x34 then modCreel s k fun c => { c with trecCtl := ringCtl c.trecCtl v 20 }
  else if n = 0x35 then modCreel s k fun c => { c with trecRd := v.toNat % 2 ^ 32 }
  else if n = 0x40 then { s with tsd := s.tsd.put t { tsdOf s t with va := v &&& 0x01FFFFFFFFFF0000#64 } }
  else if n = 0x42 then
    { s with tsd := s.tsd.put t { tsdOf s t with rej := (tsdOf s t).rej && !v.getLsbD 0 } }
  else if 0x180 ≤ n ∧ n ≤ 0x1BF then dbgWrite s k (8 * (n - 0x180)) v
  else if n = 0x310 then modCore s t.core fun c => { c with devAddr := v.extractLsb' 0 28 &&& 0xFFFFFF8#28 }
  else s

/-- R306. What a SYSWR starts at the end of its cycle, DEV_DATA apart. -/
def sysWrite (s : State) (t : ThreadId) (n : BitVec 11) (v : Word) : State :=
  let m := n.toNat
  let k := regCreel t.core
  if m = 0 then now s (.statusWrite t v)
  else if m = 0x21 then now s (.slotStart t v)
  else if m = 0x24 then now s (.chpoolWrite t.core v)
  else if m = 0x41 then now s (.tsdCtlShootdown t v)
  else if 0x100 ≤ m ∧ m ≤ 0x15F then
    -- only RET_CTL of the capacity block has effect through SYSWR (R268)
    (if m = 0x110 then now s (.retCtlRetire k v) else s)
  else if 0x200 ≤ m ∧ m ≤ 0x2FF then powerWrite s (8 * (m - 0x200)) v
  else if m = 0x300 then now s (preRequest v)
  else now s (.registerWrite t n v)

/-! ## Their events -/

/-- The RW bits of STATUS (R242). -/
def statusMask : Word := 0xFFFF000000003F07#64

/-- R242, R306. A SYSWR of STATUS; flags that a buffered beat of the same cycle set are ORed in after it (R308). -/
def execStatusWrite (t : ThreadId) (v : Word) (s : State) : Out :=
  .next (modThread s t fun th =>
    let m := if 6 ≤ (v.extractLsb' 0 3).toNat then 0xFFFF000000003F00#64 else statusMask
    let st := maskWrite th.status v m
    { th with status := if th.runsAt = s.cyc then orFlags st th.beatFlags else st })

/-- R8. A write of a register without a row of its own. -/
def execRegisterWrite (t : ThreadId) (n : BitVec 11) (v : Word) (s : State) : Out := .next (plainWrite s t n.toNat v)

/-- R201. A write of CHPOOL, ignored while an endpoint of the core holds a buffer. -/
def execChpoolWrite (core : CoreId) (v : Word) (s : State) : Out :=
  if s.eps.any fun e => decide (e.1.1 = core) && e.2.held then .next s
  else .next (modCore s core fun c => { c with chpool := v &&& 0x000FFFFF00003FFF#64 })

/-- R76. A write of an error counter: 0 clears it. -/
def execErrorCounterWrite (die n : Nat) (v : Word) (s : State) : Out :=
  .next (if v = 0 then putDie s die (0x20000 + 8 * n) 0 else s)

/-- R122. A write of a BCE register: 0 clears its four counts. -/
def execBceWrite (c : CreelId) (reg : Nat) (v : Word) (s : State) : Out :=
  .next (if v = 0 then modCreel s c fun k => { k with bce := k.bce.del reg } else s)

/-- R269. A SYSRD of DEV_DATA is performed; the thread's instruction completes. -/
def execDevDataRead (t : ThreadId) (d : BitVec 7) (s : State) : Out :=
  .next (match (threadOf s t).wait with
  | .redo .device =>
    let off := ((threadOf s t).answer.getD 0).toNat
    release (setRegOf s t d.toNat ((dieRead s t.core.die off).getD 0) false) t
  | _ => s)

/-- R269. A SYSWR of DEV_DATA is performed; the thread's instruction completes. -/
def execDevDataWrite (t : ThreadId) (v : Word) (s : State) : Out :=
  .next (match (threadOf s t).wait with
  | .redo .device =>
    let off := ((threadOf s t).answer.getD 0).toNat
    release (dieWrite s t.core.die off v (some t)) t
  | _ => s)

end Sys2Proof.Machine
end

