-- ==== Sys2Proof/Machine/Threads.lean ====
section
/-! DEFINITION. Threads that begin: register ranges (R101, R164), the starting state (R102, R157), SLOT_START (R157,
R158), handlers of service endpoints (R176, R205), and entering the rotation (R101, R163). -/

namespace Sys2Proof.Machine

/-! ## Slots and register ranges -/

/-- Is register entry i of a core free? -/
def entryFree (s : State) (c : CoreId) (i : Nat) : Bool :=
  (s.threads.all fun (t, th) => decide (t.core ≠ c ∨ i < th.base ∨ th.base + th.nregs ≤ i)) &&
    -- R130: the destinations of a compaction are spoken for
    (match (creelOf s c.creel).sluice with
    | some u => decide (u.req.core ≠ c.node) || u.places.all fun (_, _, b, n) => decide (i < b ∨ b + n ≤ i)
    | none => true)

/-- R130. Register entries of a core that live ranges take. -/
def liveRegs (s : State) (c : CoreId) : Nat := ((s.threads.filter fun (t, _) => decide (t.core = c)).map fun x => x.2.nregs).sum

/-- R101. The first range of n free entries at a multiple of 8, below the usable entries of the core (R122). -/
def freeRange (s : State) (c : CoreId) (n : Nat) : Option Nat :=
  ((List.range 256).map (8 * ·)).find? fun b =>
    decide (b + n ≤ (capOf s c).regN ∧ liveRegs s c + n ≤ (capOf s c).regN) && (List.range (n / 8)).all fun i => entryFree s c (b + 8 * i)

/-- Is a slot without a thread? Slot 15 of a compute core is the barge slot's own (R87), and slots 0 to 7 of a streamer hold
the streamer code that the firmware starts (R157), whose text is not given (DESIGN CHOICE, log 75). -/
def slotFree (s : State) (t : ThreadId) : Bool :=
  (s.threads.find t).isNone && !(t.core.isCompute && decide (t.slot = 15)) && !decide (t.core.node ≤ 2 ∧ t.slot ≤ 7)

/-! ## Starting a thread -/

/-- R102. A thread stands in its slot, every register of its range zero with S clear but for those given; it enters the
rotation 8 cycles after the decision (R101). -/
def startThread (s : State) (t : ThreadId) (th : Thread) (gs : List (Nat × Word)) : State :=
  let regs := (List.range th.nregs).foldl (fun m i => m.del (t.core, th.base + i)) s.regs
  let s := { s with regs := regs, threads := s.threads.put t { th with wait := .stopped } }
  (gs.foldl (fun s g => setRegOf s t g.1 g.2 false) s).after 8 (.event (.dispatchEnterRotation t))

/-- R101, R163. A thread that was started enters the rotation: it issues first in its next own slot. -/
def execDispatchEnterRotation (t : ThreadId) (s : State) : Out :=
  .next (modThread s t fun th =>
    if th.wait = .stopped then { th with wait := .run, ready := nextOwn s.cyc t.slot } else th)

/-! ## SLOT_START (R157, R158) -/

/-- SLOT of SLOT_SEL. -/
def selSlot (w : Word) : Nat := (w.extractLsb' 0 4).toNat
/-- REGS. -/
def selRegs (w : Word) : Nat := (w.extractLsb' 16 8).toNat
/-- TBIND. -/
def selBind (w : Word) : Bool := w.getLsbD 60

/-- The team that TLEV and TNUM name, of the launch resident on a creel, when it is resident there itself. -/
def selTeam (s : State) (k : CreelId) (w : Word) : Option (TeamKey × TeamSt) :=
  (teamsAt s k).find? fun (q, _) =>
    decide (q.level = (w.extractLsb' 56 3).toNat ∧ q.num = (w.extractLsb' 40 13).toNat)

/-- The state of a thread that SLOT_START begins: the writer's address space, or its team's (R158). -/
def slotThread (s : State) (writer : Thread) (v sel : Word) (base : Nat) (team : Option TeamKey) : Thread :=
  let th : Thread := { Thread.blank with
    pc := v.extractLsb' 0 57 &&& ~~~3#57
    status := if v.getLsbD 1 then 0x10000#64 else 0
    base := base, nregs := selRegs sel, asid := writer.asid, root := writer.root, started := true
    dstamp := s.cyc, estamp := s.cyc }
  match team with
  | none => th
  | some k =>
    let r := recordOf s k.lslot
    { th with
      asid := lnAsid r, root := lnRoot r, seed := lnSeed r
      team := BitVec.ofNat 16 k.num, level := BitVec.ofNat 8 k.level, key := some k, bound := true }

/-- R157. A write of SLOT_START: a thread starts in the slot that SLOT_SEL names, or the write is ignored with REJ. -/
def execSlotStart (t : ThreadId) (v : Word) (s : State) : Out :=
  let sel := (coreOf s t.core).slotSel
  let new : ThreadId := ⟨t.core, selSlot sel⟩
  let team := (selTeam s t.core.creel sel).map (·.1)
  let reject := modCore s t.core fun c => { c with slotSel := setBit c.slotSel 31 true }
  .next (if !slotFree s new || !regsValid (selRegs sel) || (selBind sel && team.isNone) then reject
    else match freeRange s t.core (selRegs sel) with
    | none => reject
    | some b => startThread s new (slotThread s (threadOf s t) v sel b (if selBind sel then team else none)) [])

/-! ## Handlers (R176, R205) -/

/-- The lowest free slot from 0 to 14 of a core, with a register range of n. -/
def handlerSlot (s : State) (c : CoreId) (n : Nat) : Option (ThreadId × Nat) :=
  match (List.range 15).find? fun k => slotFree s ⟨c, k⟩, freeRange s c n with
  | some k, some b => some (⟨c, k⟩, b)
  | _, _ => none

/-- R176. The state of a handler: what it takes from the thread that bound the endpoint, and from the message. -/
def handlerThread (owner : Thread) (w : Word) (n base : Nat) (m : Msg) (cyc : Nat) : Thread :=
  { Thread.blank with
    pc := (w.extractLsb' 0 55 ++ 0#2)
    status := if vecClass w = 1 then 0x10000#64 else 0
    fmt := owner.fmt, scl := owner.scl, team := owner.team, level := owner.level
    task := owner.task.extractLsb' 32 32 ++ m.seq
    asid := owner.asid, root := owner.root, seed := owner.seed, key := owner.key
    base := base, nregs := 8 * ((w.extractLsb' 55 4).toNat + 1), handler := some n
    dstamp := cyc, estamp := cyc }

/-- A service endpoint's message waits for a handler. -/
def awaitHandler (s : State) (c : CoreId) (n : Nat) : State :=
  if (coreOf s c).svcWait.contains n then s else modCore s c fun k => { k with svcWait := k.svcWait ++ [n] }

/-- The endpoint waits no longer. -/
def handlerServed (s : State) (c : CoreId) (n : Nat) : State :=
  modCore s c fun k => { k with svcWait := k.svcWait.filter (· ≠ n) }

/-- R176, R205. The next message of a service endpoint starts its handler, or its inline code; an invalid entry closes
the endpoint with cause 8. One handler of an endpoint runs at a time. -/
def execHandlerStart (core : CoreId) (ep : Nat) (s : State) : Out :=
  let e := epOf s core ep
  .next (if !e.svc || e.handler.isSome || !msgReady s core ep then handlerServed s core ep
    else
      let m := nextMsg s core ep
      let w := vecEntry s core m.mtype.toNat
      let inline := decide (0xF0 ≤ m.mtype.toNat ∧ m.mtype.toNat ≤ 0xF7)
      if !w.getLsbD 63 || decide (vecClass w = 3) || (decide (vecClass w = 2) && !inline) then
        closeEp (handlerServed s core ep) core ep 8 none
      else if vecClass w = 2 then now (handlerServed s core ep) (.inlineCodeRun core ep)
      else match handlerSlot s core (8 * ((w.extractLsb' 55 4).toNat + 1)) with
      | none => awaitHandler s core ep
      | some (t, b) =>
        let s := modEp (handlerServed s core ep) core ep fun e => { e with handler := some t }
        startThread s t (handlerThread (threadOf s ⟨core, e.slot⟩) w ep b m s.cyc)
          [(1, BitVec.ofNat 64 ep), (2, m.mtype.setWidth 64)])

end Sys2Proof.Machine
end

