-- ==== Sys2Proof/Machine/Towline.lean ====
section
/-! DEFINITION. Towline: packets, sessions, retransmission (R62 to R66); the built-in conversations of the device with
the host and with other clients (R67 to R69, R208); notices (R71). -/

namespace Sys2Proof.Machine

/-! ## Wall time (R13, R22, R65; DESIGN CHOICE, log 6): in cycles of 600 MHz -/

/-- A happening after n units of wall time. -/
def State.wallAfter (s : State) (n : Nat) (e : Event) : State :=
  { s with wallAgenda := insertDue ⟨s.wall + n, .event e⟩ s.wallAgenda }

/-- Happenings of the wall axis that satisfy a test are dropped. -/
def wallCancel (s : State) (p : Event → Bool) : State :=
  { s with wallAgenda := s.wallAgenda.filter fun d => match d.act with
    | .event e => !p e
    | _ => true }

/-- An event that happens at once, whether or not any core is clocked. -/
def soon (s : State) (e : Event) : State := { s with inputs := s.inputs ++ [e] }

/-! ## The host port (R40, R67) -/

/-- R67. The address of host endpoint n. -/
def hostAddr (s : State) (n : Nat) : BitVec 32 := epAddr s (portCore s.hostPort) n

/-- Is this the address of a host endpoint? -/
def isHost (s : State) (a : BitVec 32) : Bool :=
  decide (addrMod a = modSelf s ∧ addrNode a = 14 ∧ addrCore a = portCore s.hostPort)

/-- R77. Counter k of a port's eight. -/
def portCount (s : State) (port k : Nat) : State := count s (port / 2) (16 + 8 * (port % 2) + k)

/-- A port changed. -/
def modPort (s : State) (port : Nat) (f : EthPort → EthPort) : State :=
  { s with eth := s.eth.put port (f (ethPort s port)) }

/-! ## Packets (R63) -/

/-- A Towline packet. -/
def towPacket (kind session flags : Nat) (seq ack : BitVec 32) (payload : List Byte) : List Byte :=
  [1, BitVec.ofNat 8 kind, BitVec.ofNat 8 session, BitVec.ofNat 8 flags] ++ leBytes 4 seq.toNat ++ leBytes 4 ack.toNat
    ++ leBytes 2 payload.length ++ [0, 0] ++ payload

/-- A session. -/
def sessionOf (s : State) (k : Nat) : Session := s.sessions.get k Session.initial

/-- A session changed. -/
def modSession (s : State) (k : Nat) (f : Session → Session) : State :=
  { s with sessions := s.sessions.put k (f (sessionOf s k)) }

/-! ## Sessions with other modules (R62, R196; DESIGN CHOICE, log 88)

The spec gives sessions to the host port alone. Traffic with another module runs in sessions of its own, eight for each number
`MOD` and numbered from 8 on; they need no OPEN, and what the device itself sends goes in the first of them. -/

/-- The session with a module that a packet's SESSION byte names. -/
def moduleSession (m : BitVec 8) (n : Nat) : Nat := 8 + 8 * m.toNat + n

/-- The module of a session. -/
def sessionModule (k : Nat) : BitVec 8 := BitVec.ofNat 8 ((k - 8) / 8)

/-- Is a session open? -/
def sessionOpen (s : State) (k : Nat) : Bool := decide (8 ≤ k) || (sessionOf s k).isOpen

/-- The port of a session. -/
def sessionPort (s : State) (k : Nat) : Nat := if k < 8 then s.hostPort else (fleetPort s (sessionModule k)).toNat % 16

/-- The IP address of a module in the fleet table (R196). -/
def fleetIp (s : State) (m : BitVec 8) : BitVec 128 :=
  s.dieRegs.get (0, 0x50000 + 32 * m.toNat + 24) 0 ++ s.dieRegs.get (0, 0x50000 + 32 * m.toNat + 16) 0

/-- R42. Is a priority of a port lossless? -/
def lossless (s : State) (port prio : Nat) : Bool := (ethCfg (framesSee s port) port).getLsbD (8 + prio)

/-- An IPv4 address as an IPv6 address that maps it. -/
def mapped4 (ip : BitVec 32) : BitVec 128 := 0xFFFF#96 ++ ip

/-- R43, R44, R62. The datagram of a packet of a session, to where the session's last datagram came from, or, for what the device
itself sends to another module, to the address in the fleet table. -/
def datagramOf (s : State) (k : Nat) (data : Bool) (bs : List Byte) : Datagram :=
  let port := sessionPort s k
  let peer := (ethPort s port).peers.get k (0, 0)
  let (dst, dport) := if 8 ≤ k ∧ data = true then (fleetIp s (sessionModule k), 19471) else peer
  let ip4 := decide (dst.extractLsb' 32 96 = 0xFFFF#96)
  let own := framesSee s port
  { mac := (ethRead own port 0).toNat, vid := ((ethCfg own port).extractLsb' 36 12).toNat, pcp := 3, ip4 := ip4, df := ip4, ecn := 2
    flow := 0, dst := dst, sport := if k < 8 then 19470 else 19471, dport := dport, checksum := true, payload := bs }

/-- R44, R62. A packet of a session leaves through its port: lost while the link is down, kept while priority 3 is paused and
lossless (R42). -/
def towSend (s : State) (k : Nat) (data : Bool) (bs : List Byte) : State :=
  let port := sessionPort s k
  let d := datagramOf s k data bs
  let p := ethPort s port
  if !p.link then s
  else if p.paused.getLsbD 3 && lossless s port 3 then modPort s port fun p => { p with queued := p.queued ++ [d] }
  else s.emit (.datagram port d)

/-- A packet of a session without payload; an ACK tells of a received CE mark. -/
def towAnswer (s : State) (k kind : Nat) : State :=
  let n := sessionOf s k
  let s := towSend s k false (towPacket kind (k % 8) (if decide (kind = 2) && n.ece then 1 else 0) 0 n.recvSeq [])
  if kind = 2 then modSession s k fun n => { n with ece := false } else s

/-- A DATA packet: its message as it travels on the mesh. -/
def towData (s : State) (k : Nat) (seq : BitVec 32) (m : Msg) : State :=
  towSend s k true (towPacket 1 (k % 8) 0 seq (sessionOf s k).recvSeq (flitBytes m).flatten)

/-! ## Sending (R65) -/

/-- 50 µs. -/
def firstWait : Nat := 30000
/-- 6.4 ms. -/
def longestWait : Nat := 3840000
/-- 10 ms, toward a MOORED other side (R66). -/
def mooredWait : Nat := 6000000

/-- A message takes the session's next sequence number and is sent. -/
def sendData (s : State) (k : Nat) (m : Msg) : State :=
  let q := (sessionOf s k).sendSeq
  let s := modSession s k fun n => { n with sendSeq := n.sendSeq + 1, unacked := n.unacked ++ [⟨q, m, 0⟩] }
  (towData s k q m).wallAfter firstWait (.towlineRetransmitTimeout k q)

/-- Messages that wait for the window are sent as it admits them. -/
def pumpSession (s : State) (k : Nat) : Nat → State
  | 0 => s
  | fuel + 1 =>
    let n := sessionOf s k
    match n.waiting with
    | [] => s
    | m :: r =>
      if n.unacked.length < n.window then
        pumpSession (sendData (modSession s k fun n => { n with waiting := r }) k m) k fuel
      else s

/-- R67, R196. A message for a host endpoint, or for another module, is at its port: it goes out on its session, or is lost when
that is not open. -/
def portSend (s : State) (m : Msg) : State :=
  let k := if addrMod m.dst = modSelf s then addrEp m.dst / 8 else moduleSession (addrMod m.dst) 0
  if !sessionOpen s k then s
  else
    let s := modSession s k fun n => { n with waiting := n.waiting ++ [m] }
    pumpSession s k (sessionOf s k).waiting.length

/-- R65. A cumulative acknowledgement, and the window's change. -/
def acknowledge (s : State) (k : Nat) (ack : BitVec 32) (ece : Bool) : State :=
  let n := sessionOf s k
  let done := (ack - (n.sendSeq - BitVec.ofNat 32 n.unacked.length)).toNat
  let done := if done ≤ n.unacked.length then done else 0
  let gone := n.unacked.take done
  let s := wallCancel s fun e => match e with
    | .towlineRetransmitTimeout j q => decide (j = k) && gone.any fun u => decide (u.seq = q)
    | _ => false
  let total := n.acked + done
  let s := modSession s k fun n => { n with
    unacked := n.unacked.drop done
    acked := total % 256
    moored := n.moored && decide (done = 0)
    window := if ece then max 8 (n.window / 2) else min 256 (n.window + total / 256) }
  pumpSession s k (sessionOf s k).waiting.length

/-! ## The built-in conversations (R68, R208) -/

/-- The service that an address names: 0 management, 1 notice, 2 launch, 3 debug, 4 attestation, 5 tile read, 6 tile
write, 7 bulk memory. -/
def serviceOf (a : BitVec 32) : Option Nat :=
  let n := addrNode a
  let e := addrEp a
  if addrNis a then (if 1 ≤ e ∧ e ≤ 3 ∧ n ≤ 11 then some (4 + e) else none)
  else if n = 12 ∨ n = 13 then (if 1 ≤ e ∧ e ≤ 3 then some (4 + e) else none)
  else if a.extractLsb' 11 13 = 0 ∧ n = 8 ∧ e ≤ 1 then some e
  else if a.extractLsb' 11 13 = 0 ∧ 9 ≤ n ∧ n ≤ 11 ∧ e = 0 then some (n - 7)
  else none

/-- Does an address name a controller, a network interface or a built-in endpoint, rather than an endpoint of a core or
of the host? -/
def isServer (a : BitVec 32) : Bool :=
  addrNis a || decide (addrNode a = 12 ∨ addrNode a = 13) || (serviceOf a).isSome

/-- One conversation at a time is held with the host's services, one for each client with the others (R208). -/
def convFind (s : State) (server client : BitVec 32) : Option Conv :=
  s.convs.find? fun c => decide (c.server = server ∧ c.client = client)

/-- A conversation changed. -/
def modConv (s : State) (server client : BitVec 32) (f : Conv → Conv) : State :=
  { s with convs := s.convs.map fun c => if c.server = server ∧ c.client = client then f c else c }

/-- A conversation removed. -/
def dropConv (s : State) (server client : BitVec 32) : State :=
  { s with convs := s.convs.filter fun c => !decide (c.server = server ∧ c.client = client) }

/-- R32, R198. The plane of a server's messages: the reply plane for a controller or a network interface, the request plane for
the endpoints of lengthsman cores. -/
def serverPlane (server : BitVec 32) : Bool := addrNis server || decide (12 ≤ addrNode server)

/-- R12. Is the mesh clocked? -/
def meshClocked (s : State) : Bool := decide (s.power.state = .idle ∨ s.power.state = .run)

/-- A message of a server. The management responder, which serves while nothing else is clocked (R28), stands beside the host
port. -/
def serverSend (s : State) (server dst : BitVec 32) (ty : Byte) (seq : BitVec 32) (cret : Nat) (payload : List Byte) :
    State :=
  let m : Msg := ⟨ty, flitsOf payload.length, serverPlane server, payload.length, dst, server, seq, BitVec.ofNat 8 cret, 0, 0, payload⟩
  if meshClocked s then sendMsg s m else portSend s m

/-- The answer to a request: it carries the credit for the request it answers (R203), and the next request may come. -/
def serverReply (s : State) (server client : BitVec 32) (ty : Byte) (payload : List Byte) : State :=
  match convFind s server client with
  | none => s
  | some c => modConv (serverSend s server client ty c.sseq 1 payload) server client fun c =>
      { c with sseq := c.sseq + 1, busy := false }

/-- The answer of one of the host's five services to the one client it has. -/
def hostReply (s : State) (service : Nat) (ty : Byte) (payload : List Byte) : State :=
  match s.convs.find? fun c => decide (serviceOf c.server = some service) with
  | some c => serverReply s c.server c.client ty payload
  | none => s

/-- The image of the tile services' flights: R406 gives the tile-read flight; the tile-write flight is formed in the
same way with the types of R208 (DEDUCED, log 33). -/
def tileImage (write : Bool) : List Byte :=
  let rc (kind maxfl : Nat) (bs : List (Nat × Nat)) : List Byte :=
    let bytes := bs.flatMap fun b => [BitVec.ofNat 8 b.1, BitVec.ofNat 8 b.2]
    [BitVec.ofNat 8 kind, 0, BitVec.ofNat 8 bs.length, 0, 0, BitVec.ofNat 8 maxfl] ++ bytes
      ++ List.replicate (10 - bytes.length) 0
  [0, 0, 0, 0, 1, 0, 3, 0] ++ List.replicate 24 0 ++
    rc 3 (if write then 65 else 1) [(if write then 0xE4 else 0xE0, 1), (0xE2, 2)] ++
    rc 4 (if write then 1 else 65) [(if write then 0xE5 else 0xE1, 0), (0xE3, 0)] ++ rc 6 0 []

/-- HOWN of a service's flight, or of its dual. -/
def serviceHash (service : Nat) (dual : Bool) : Word :=
  if service = 5 then formHash (canonForm (tileImage false) dual)
  else if service = 6 then formHash (canonForm (tileImage true) dual)
  else Config.serviceHash service dual

/-- MAXIN, or MAXOUT, of a service's flight. -/
def serviceFlits (service : Nat) (out : Bool) : Nat :=
  if service = 5 then (if out then 65 else 1)
  else if service = 6 then (if out then 1 else 65)
  else Config.serviceFlits service out

/-- The 20 bytes that a service offers (R199): its look-ahead is 1 each way. -/
def serviceOffer (service : Nat) : List Byte :=
  leBytes 8 (serviceHash service false).toNat ++ leBytes 8 (serviceHash service true).toNat ++
    [1, BitVec.ofNat 8 (serviceFlits service false), 1, BitVec.ofNat 8 (serviceFlits service true)]

/-- Accept from a server, with its status. -/
def serverAccept (s : State) (m : Msg) (status : Nat) : State :=
  let offer := match serviceOf m.dst with
    | some v => serviceOffer v
    | none => List.replicate 20 0
  serverSend s m.dst m.src 0xFB 0 0 ([BitVec.ofNat 8 status, 0, 0, 0] ++ offer)

/-- R197, R217. The closed notice of a server's conversation, its name and state free where the flight's records are not
given (DESIGN CHOICE, log 32). -/
def serverNotice (s : State) (c : Conv) (cause : Nat) : State :=
  serverSend s.drawn.drawn c.server c.client 0xF9 c.sseq 0
    (noticePayload (Config.freeByte s.free) (Config.freeByte (s.free + 1)).toNat cause c.sseq c.rseq)

/-! ## Notices (R71) -/

/-- A held notice is sent when its conversation is open and the last one has been acknowledged, while the firmware runs. -/
def pumpNotices (s : State) : State :=
  match s.notices, s.convs.find? fun c => decide (serviceOf c.server = some 1) with
  | (k, d) :: r, some c =>
    if c.busy || !decide (s.power.state = .idle ∨ s.power.state = .run) then s
    else
      let s := serverReply { s with notices := r } c.server c.client 0x14 (k :: d)
      modConv s c.server c.client fun c => { c with busy := true }
  | _, _ => s

/-- R71. A notice, with 40 bytes of detail: held among 256, the oldest dropped and counted when they are full. -/
def notify (s : State) (kind : Byte) (detail : List Byte) : State :=
  let d := detail ++ List.replicate (40 - detail.length) 0
  let s := if 256 ≤ s.notices.length then count { s with notices := s.notices.drop 1 } 0 50 else s
  pumpNotices { s with notices := s.notices ++ [(kind, d)] }

/-- R199, R200, R208. A Connect reaches a server. -/
def serverConnect (s : State) (m : Msg) : State :=
  let refuse (s : State) : State := count (serverAccept s m 3) (addrDie m.dst) 78
  match serviceOf m.dst with
  | none => refuse s
  | some v =>
    let taken := if v < 5 then s.convs.any fun c => decide (c.server = m.dst) else (convFind s m.dst m.src).isSome
    if taken then refuse s
    else if decide (BitVec.ofNat 64 (fieldAt m.payload 8 8) = serviceHash v false) &&
        decide (BitVec.ofNat 64 (fieldAt m.payload 0 8) = serviceHash v true) then
      pumpNotices { serverAccept s m 0 with convs := s.convs ++ [⟨m.dst, m.src, 0, 0, false, false⟩] }
    else count (serverAccept s m 1) (addrDie m.dst) 79

/-! ## What a built-in service does with a message (R69, R144, R195) -/

/-- R83. The ERROR code that refuses an SPDM request before it is looked into: 0x41 for another version than 1.3, or than 1.0 in
GET_VERSION; 1 for another certificate slot than 0; 0 for none (SPDM 1.3 as published; PRESUMED, log 15). -/
def spdmRefusal (p : List Byte) : Nat :=
  let code := fieldAt p 1 1
  if fieldAt p 0 1 ≠ (if code = 0x84 then 0x10 else 0x13) then 0x41
  else if code = 0x83 ∧ fieldAt p 2 1 ≠ 0 ∨ code = 0xE0 ∧ fieldAt p 2 1 % 2 = 1 ∧ fieldAt p 36 1 % 16 ≠ 0 then 1
  else 0

/-- R83. The event of an SPDM request, by its code (SPDM 1.3 as published; PRESUMED, log 15); a nonce is followed by the
requester's context of eight bytes. -/
def spdmEvent (p : List Byte) : Event :=
  match fieldAt p 1 1 with
  | 0x81 => .getDigests
  | 0x82 => .getCertificate (fieldAt p 2 1) (fieldAt p 4 2) (fieldAt p 6 2)
  | 0x83 => .challenge ((p.drop 4).take 40)
  | 0x84 => .getVersion
  | 0xE0 => .getMeasurements (fieldAt p 3 1) (decide (fieldAt p 2 1 % 2 = 1))
      (if fieldAt p 2 1 % 2 = 1 then (p.drop 4).take 32 ++ (p.drop 37).take 8 else List.replicate 32 0 ++ (p.drop 4).take 8)
  | 0xE1 => .getCapabilities
  | 0xE3 => .negotiateAlgorithms
  | n => .spdmUnsupported (BitVec.ofNat 8 n)

/-- R144. The event of a debug request; none for an invalid operation, or for a reserved byte or a value that is not
zero. -/
def debugEvent (p : List Byte) : Option Event :=
  let c : CreelId := ⟨fieldAt p 1 1, fieldAt p 2 1⟩
  let t : ThreadId := ⟨⟨c.x, c.y, fieldAt p 3 1⟩, fieldAt p 4 1⟩
  let arg := fieldAt p 8 8
  if fieldAt p 5 3 ≠ 0 ∨ (fieldAt p 0 1 ≠ 5 ∧ fieldAt p 16 8 ≠ 0) then none
  else match fieldAt p 0 1 with
  | 1 => some (.dbgHalt c)
  | 2 => some (.dbgResume c)
  | 3 => some (.dbgStep t)
  | 4 => some (.dbgRegRead c arg)
  | 5 => some (.dbgRegWrite c (arg % 65536) (BitVec.ofNat 64 (fieldAt p 16 8)))
  | 6 => some (.dbgThreadRegRead t arg)
  | 7 => some (.dbgDumpTeam t arg)
  | 8 => some (.dbgDumpCreel c)
  | _ => none

/-- A response of the debug service: a status byte and a value. -/
def debugReply (s : State) (status : Nat) (v : Word) : State :=
  hostReply s 3 0x51 (leBytes 1 status ++ leBytes 8 v.toNat)

/-- The event of a message of a built-in conversation, by the service and the message's type; none when the type is not
one that the service receives. -/
def serviceEvent (v : Nat) (m : Msg) : Option Event :=
  let p := m.payload
  match v, m.mtype.toNat with
  | 0, 0x10 => some (.regRead (BitVec.ofNat 64 (fieldAt p 0 8)))
  | 0, 0x12 => some (.regWrite (BitVec.ofNat 64 (fieldAt p 0 8)) (BitVec.ofNat 64 (fieldAt p 8 8)))
  | 0, 0x18 => some (.fwWrite (p.getD 0 0) (fieldAt p 1 4) (p.drop 5))
  | 0, 0x19 => some .fwActivate
  | 1, 0x15 => some .noticeAck
  | 2, 0x20 => some (.launch p)
  | 4, 0x40 => some (spdmEvent p)
  | 5, 0xE0 => some (.treq m)
  | 5, 0xE2 => some (.tbye m)
  | 6, 0xE4 => some (.twrite m)
  | 6, 0xE2 => some (.tbye m)
  | 7, 0x30 => some (.bulkRead m.dst (fieldAt p 0 8) (fieldAt p 8 4))
  | 7, 0x32 => some (.bulkWrite m.dst (fieldAt p 0 8) (p.drop 8))
  | _, _ => none

/-- A server that holds a conversation with the sender takes a user message in its turn: the event it comes to, or the
state after a violation (R195), or after an answer that is owed at once. -/
def serverTake (s : State) (m : Msg) : Except State (Event × State) :=
  match convFind s m.dst m.src, serviceOf m.dst with
  | some c, some v =>
    let s := modConv s m.dst m.src fun c => { c with rseq := c.rseq + 1, busy := true }
    let violation : Except State (Event × State) :=
      .error (count (count (serverNotice (dropConv s m.dst m.src) c 5) (addrDie m.dst) 82) (addrDie m.dst) 81)
    -- the flight stands at a receive for a request when none is unanswered, for a NOTICE_ACK when a NOTICE is
    if c.ended || decide (c.busy ≠ decide (v = 1)) then violation
    else if (v = 5 ∨ v = 6) ∧ serviceFlits v false < m.nflit then violation
    else if v = 4 ∧ m.mtype = 0x40 ∧ spdmRefusal m.payload ≠ 0 then
      .error (hostReply s 4 0x41 [0x13, 0x7F, BitVec.ofNat 8 (spdmRefusal m.payload), 0])
    else if v = 3 ∧ m.mtype = 0x50 then
      (match debugEvent m.payload with
      | some e => .ok (e, s)
      | none => .error (debugReply s 4 0))
    else match serviceEvent v m with
    | some e => .ok (e, s)
    | none => violation
  | _, _ =>
    .error (count (serverSend s m.dst m.src 0xF9 0 0 (noticePayload 0 0 4 0 0)) (addrDie m.dst) 78)

/-- R216, R217. A closed notice ends a server's conversation. -/
def serverClosed (s : State) (m : Msg) : State :=
  match convFind s m.dst m.src with
  | some _ => count (dropConv s m.dst m.src) (addrDie m.dst) 82
  | none => s

/-! ## Sessions (R64 to R66) -/

/-- R64, R65, R216. The host endpoints of a session close: the device ends of their conversations are told, with cause 7;
the state the host endpoint stood at is its own, so its name and number are free (DESIGN CHOICE, log 32). -/
def closeHosts (s : State) (k : Nat) : State :=
  let mine (a : BitVec 32) : Bool := isHost s a && decide (addrEp a / 8 = k)
  let s := (s.convs.filter fun c => mine c.client).foldl (fun s c => count s (addrDie c.server) 82)
    { s with convs := s.convs.filter fun c => !mine c.client }
  s.eps.foldl (fun s' ((c, n), e) =>
    if decide (e.est = .opened ∨ e.est = .delegin) && mine e.peer then
      sendMsg s'.drawn.drawn ⟨0xF9, 1, false, 12, epAddr s c n, e.peer, e.rseq, 0, 0, 0,
        noticePayload (Config.freeByte s'.free) (Config.freeByte (s'.free + 1)).toNat 7 e.rseq e.sseq⟩
    else s') s

/-- R65, R216. The session with another module fails: the endpoints whose peers are there close, and the conversations of its
clients are at an end. -/
def closeModule (s : State) (m : BitVec 8) : State :=
  let cut (v : Conv) : Bool := decide (addrMod v.client = m)
  let s := (s.convs.filter cut).foldl (fun s v => count s (addrDie v.server) 82) { s with convs := s.convs.filter fun v => !cut v }
  s.eps.foldl (fun s ((c, n), e) =>
    if decide (addrMod e.peer = m) && decide (e.est = .opened ∨ e.est = .delegin ∨ e.est = .delegated) then closeEp s c n 7 none
    else s) s

/-- R65. A session fails or is reset. -/
def failSession (s : State) (k : Nat) : State :=
  let s := wallCancel s fun e => match e with
    | .towlineRetransmitTimeout j _ => decide (j = k)
    | _ => false
  let s := { s with sessions := s.sessions.put k Session.initial }
  if k < 8 then closeHosts s k else closeModule s (sessionModule k)

/-- R42. A port's share of its receive buffer for one priority: an eighth of 4 MiB (DEDUCED, log 27). -/
def portShare : Nat := 524288

/-- R14, R42. A message is held at the host port, in the receive buffer of the class that carries Towline (R62); a lossless
class past its XOFF mark is paused. -/
def holdHost (s : State) (m : Msg) : State :=
  let port := s.hostPort
  let p := ethPort s port
  let n := p.held.getD 3 0 + 16 + 64 * m.nflit
  let s := modPort { s with idleHeld := s.idleHeld ++ [m] } port fun p => { p with held := p.held.set 3 n }
  if lossless s port 3 && !p.pausing.getLsbD 3 &&
      decide (((ethCfg (framesSee s port) port).extractLsb' 16 8).toNat * portShare < 100 * n) then
    (modPort s port fun p => { p with pausing := p.pausing ||| 8 }).emit (.pause port 3 true)
  else s

/-- R14. Is a message served in IDLE: one of the management, notice, launch and attestation conversations? -/
def idleServed (v : Option Nat) : Bool := decide (v = some 0 ∨ v = some 1 ∨ v = some 2 ∨ v = some 4)

/-- A message of the host enters the device, over the mesh while it is clocked (R34, R67). A message for another module is not
forwarded (R40). In IDLE all but four conversations are held (R14). Elsewhere the management responder takes what is its own
at once; in STANDBY there is nobody to take a message of another conversation, and it is lost (DESIGN CHOICE, log 6). -/
def fromHost (s : State) (m : Msg) : State :=
  if addrMod m.dst ≠ modSelf s then s
  else if s.power.state = .idle ∧ idleServed (serviceOf m.dst) = false then holdHost s m
  else if meshClocked s then sendMsg s m
  else match serviceOf m.dst with
  | some v =>
    if v ≠ 0 then s
    else if m.mtype = 0xFA then soon s (.connectMessage m)
    else if m.mtype = 0xF9 then soon s (.closedNotice m)
    else if m.mtype = 0xFC then soon s (.creditReturn m)
    else (match serverTake s m with
      | .ok (e, s) => soon s e
      | .error s => s)
  | none => s

/-! ## Messages of other modules (R89, R196, R207) -/

/-- R89. Does this module belong to a fleet? -/
def inFleet (s : State) (f : BitVec 48) : Bool :=
  s.launches.any fun (_, l) => decide (fieldAt l.record 0x38 6 = f.toNat)

/-- R207. The memory request that a message of another module carries. -/
def remoteRequest (s : State) (m : Msg) : MemReq :=
  let p := m.payload
  ⟨.remote m.src, s.token, fieldAt p 0 1, p.getD 1 0, fieldAt p 2 2, p.getD 4 0, false, decide (fieldAt p 5 1 % 2 = 1),
    decide (fieldAt p 5 1 / 2 % 2 = 1), decide (fieldAt p 5 1 / 4 % 2 = 1), m.lfmt.getLsbD 4, m.seq.toNat, fieldAt p 8 8, 0,
    p.drop 16, 0, false⟩

/-- R34, R197. A message of another module goes on over the mesh from its port: a memory request to its home, where a malformed
one is dropped and counted, anything else to its endpoint. -/
def enterMesh (s : State) (port : Nat) (m : Msg) : State :=
  let c := portCore port
  if m.mtype = 0xFD then
    if !msgOk m then count s (port / 2) 76
    else
      let q := remoteRequest s m
      match homeWithin s q.pa with
      | some h => s.fresh.after (homeCycles c h + (m.nflit - 1)) (.event (requestEvent q))
      | none => portSend s ⟨0xFD, 1, true, 1, m.src, m.dst, m.seq, 0, 0, 0, [3]⟩
  else if addrReserved m.dst then count s (port / 2) 0
  else s.onLane (some (msgLane s m)) (msgCycles c (addrCore m.dst) 1) m.nflit (.arrive m)

/-- R40, R89. A message of another module is admitted, unless it is of a fleet that this module does not belong to; the device
forwards nothing between ports. -/
def fromModule (s : State) (k : Nat) (m : Msg) : State :=
  let port := sessionPort s k
  if addrMod m.dst ≠ modSelf s then s
  else if m.fleet = 0 ∨ inFleet s m.fleet = true ∨ m.mtype = 0xF9 ∨ m.mtype = 0xFB ∨ m.mtype = 0xFC then enterMesh s port m
  else (count s (port / 2) 89).emit (.code "nack" m.src.toNat)

/-- A message delivered in its turn on a session. -/
def fromSession (s : State) (k : Nat) (m : Msg) : State := if k < 8 then fromHost s m else fromModule s k m

/-- Messages received ahead of their turn, delivered as it comes. -/
def deliverEarly (s : State) (k : Nat) : Nat → State
  | 0 => s
  | fuel + 1 =>
    let n := sessionOf s k
    match n.early.find? fun e => decide (e.1 = n.recvSeq) with
    | none => s
    | some e =>
      deliverEarly (fromSession (modSession s k fun n => { n with
        recvSeq := n.recvSeq + 1, early := n.early.filter fun x => x.1 ≠ e.1 }) k e.2) k fuel

/-- R21, R66. Does a MOORED device turn a message away, as all but what the host addresses to the management endpoint? -/
def mooredRefuses (s : State) (k : Nat) (m : Msg) : Bool :=
  decide (s.power.state = .moored) && !(decide (k < 8 ∧ addrMod m.dst = modSelf s) && decide (serviceOf m.dst = some 0))

/-- R64 to R66, R76. A DATA packet: a duplicate, or one that lies too far ahead, is dropped whole and counted. One of another
module is taken in IDLE and RUN alone (DEDUCED, log 27). -/
def execTowlineData (session : Nat) (seq acknum : BitVec 32) (ece : Bool) (m : Msg) (s : State) : Out :=
  let n := sessionOf s session
  let ahead := (seq - n.recvSeq).toNat
  let port := sessionPort s session
  .next <|
    if mooredRefuses s session m then towAnswer s session 6
    else if 8 ≤ session ∧ meshClocked s = false then s
    else if !sessionOpen s session then towAnswer s session 5
    else if 2 ^ 31 ≤ ahead ∨ n.early.any (fun e => decide (e.1 = seq)) = true then portCount (towAnswer s session 2) port 5
    else if 256 ≤ ahead then portCount s port 6
    else
      let s := acknowledge s session acknum ece
      if ahead = 0 then
        let s := fromSession (modSession s session fun n => { n with recvSeq := n.recvSeq + 1 }) session m
        towAnswer (deliverEarly s session (n.early.length + 1)) session 2
      else towAnswer (modSession s session fun n => { n with early := n.early ++ [(seq, m)] }) session 2

/-- R65. An ACK packet. -/
def execTowlineAck (session : Nat) (acknum : BitVec 32) (ece : Bool) (s : State) : Out :=
  .next (if sessionOpen s session then acknowledge s session acknum ece else s)

/-- R64, R66. An OPEN packet. -/
def execTowlineOpen (session : Nat) (s : State) : Out :=
  .next <|
    if s.power.state = .moored then towAnswer s session 6
    else
      let s := if sessionOpen s session then failSession s session else s
      towAnswer (modSession s session fun _ => { Session.initial with isOpen := true }) session 4

/-- R65. A RESET packet. -/
def execTowlineReset (session : Nat) (s : State) : Out :=
  .next (if sessionOpen s session then failSession s session else s)

/-- R65, R66. The wait for an acknowledgement of a packet is over. -/
def execTowlineRetransmitTimeout (session : Nat) (seq : BitVec 32) (s : State) : Out :=
  let n := sessionOf s session
  .next <|
    match n.unacked.find? fun u => decide (u.seq = seq) with
    | none => s
    | some u =>
      if n.moored then
        (portCount (towData s session seq u.msg) (sessionPort s session) 7).wallAfter mooredWait (.towlineRetransmitTimeout session seq)
      else if 12 ≤ u.tries then towAnswer (failSession s session) session 5
      else
        let again (v : Unacked) : Unacked := if v.seq = seq then { v with tries := v.tries + 1 } else v
        let s := modSession s session fun n => { n with unacked := n.unacked.map again }
        (portCount (towData s session seq u.msg) (sessionPort s session) 7).wallAfter (min longestWait (firstWait * 2 ^ (u.tries + 1)))
          (.towlineRetransmitTimeout session seq)

/-- R66. The other side answers MOORED: its packets are sent again every 10 ms without limit. -/
def execTowlineMooredReceive (session : Nat) (s : State) : Out :=
  let n := sessionOf s session
  let s := wallCancel s fun e => match e with
    | .towlineRetransmitTimeout j _ => decide (j = session)
    | _ => false
  .next (n.unacked.foldl (fun s u => s.wallAfter mooredWait (.towlineRetransmitTimeout session u.seq))
    (modSession s session fun n => { n with moored := true }))

/-- R71. The host has acknowledged a notice. -/
def execNoticeAck (s : State) : Out :=
  let free (c : Conv) : Conv := if serviceOf c.server = some 1 then { c with busy := false } else c
  .next (pumpNotices { s with convs := s.convs.map free })

end Sys2Proof.Machine
end

