-- ==== Sys2Proof/Machine/Messages.lean ====
section
/-! DEFINITION. Messages at their destination's network interface: malformed ones (R197, R212), user messages (R195, R205,
R219), Connect and Accept (R199, R200), credit (R203), delegation at its three ends (R213 to R215), closed notices (R216
to R218), and inline code (R206). -/

namespace Sys2Proof.Machine

/-- FWDED of a message. -/
def msgFwded (m : Msg) : Bool := m.lfmt.getLsbD 6

/-! ## Credit (R203) -/

/-- R203, R213. Credit that arrives is added to CREDIT and wakes a send that waits for it; at a delegated endpoint it is
kept for FWD_END. -/
def addCredit (s : State) (c : CoreId) (n k : Nat) : State :=
  if k = 0 then s
  else if (epOf s c n).est = .delegated then modEp s c n fun e => { e with lateCredit := e.lateCredit + k }
  else wake (modEp s c n fun e => { e with credit := e.credit + k }) c fun w => decide (w = .credit n)

/-- R203. A credit return. -/
def execCreditReturn (m : Msg) (s : State) : Out :=
  let c := addrCore m.dst
  let n := addrEp m.dst
  .next (if isServer m.dst then s
    else match (epOf s c n).est with
    | .closed => count s c.die 84
    | .free => s
    | _ => addCredit s c n m.cret.toNat)

/-! ## Arrivals (R195, R202, R205, R219) -/

/-- R213. A message of a delegated endpoint is forwarded to the new holder, marked so; its credit stays behind for
FWD_END. -/
def forward (s : State) (c : CoreId) (n : Nat) (m : Msg) : State :=
  sendMsg s { m with
    src := epAddr s c n, dst := (epOf s c n).fwd, cret := 0, lfmt := m.lfmt ||| 0x40#8 }

/-- A message is in its slot: the receiver wakes, or a handler is to start. -/
def stored (s : State) (c : CoreId) (n : Nat) (m : Msg) : State :=
  let s := storeMsg s c n m
  if (epOf s c n).svc then now s (.handlerStart c n)
  else wake s c fun w => decide (w = .arrival n)

/-- R195. Does an arrival conform to the endpoint's arrival cursor? -/
def arrivalOk (s : State) (c : CoreId) (n : Nat) (m : Msg) : Bool :=
  let e := epOf s c n
  let r := stateRec (flightOf s c e.flight).image e.astate
  recvKind (recKind r) && ((recBranches r).any fun b => decide (b.1 = m.mtype.toNat)) && decide (m.nflit ≤ recMaxfl r)

/-- R202. A message that is dropped or forwarded leaves nothing in its slot. -/
def unstore (s : State) (c : CoreId) (n : Nat) (m : Msg) : State :=
  let e := epOf s c n
  let u := slotUnit e m.seq.toNat
  if e.held ∧ isFull s (unitPa s c n u) = true ∧ msgAt s c n u = m then
    (List.range m.nflit).foldl (fun s i => setFull s (unitPa s c n (u + i)) false) s
  else s

/-- R215. The parties of an unfinished delegation are told that its conversation closes at X: the peer, and the new holder once it
has taken. -/
def tellParties (s : State) (c : CoreId) (n cause : Nat) : State :=
  let e := epOf s c n
  if e.est = .delegated ∧ e.fwdEnd = false then
    let say (s : State) (dst : BitVec 32) : State :=
      sendMsg s (mkMsg s c n dst 0xF9 e.sseq 0 (noticePayload (recName (epRec s c n)) e.state cause e.sseq e.rseq))
    let s := say s e.peer
    if e.taken then say s e.fwd else s
  else s

/-- R195, R202. An arrival whose turn it is: checked and written to its slot, or dropped and the endpoint closed. At a
delegated endpoint it is buffered or forwarded (DEDUCED, log 35). -/
def takeTurn (s : State) (c : CoreId) (n : Nat) (m : Msg) : State :=
  let e := epOf s c n
  if arrivalOk s c n m then
    let im := (flightOf s c e.flight).image
    let s := modEp s c n fun e => { e with
      anext := e.anext + 1
      astate := (nextState im e.astate m.mtype.toNat).getD e.astate }
    if e.est = .delegated then (if e.taken then forward (unstore s c n m) c n m else storeMsg s c n m)
    else stored s c n m
  else closeEp (tellParties (count (unstore s c n m) c.die 81) c n 5) c n 5 none

/-- A notice held until the messages before it have come closes the endpoint (R215). -/
def heldNotice (s : State) (c : CoreId) (n : Nat) : State :=
  let e := epOf s c n
  match e.notice with
  | some m =>
    if decide (e.est = .opened ∨ e.est = .delegin) && decide (fieldAt m.payload 4 4 = e.anext.toNat) then
      closeEp (modEp s c n fun e => { e with notice := none }) c n 2 (some (m.payload.getD 0 0))
    else s
  | none => s

/-- Arrivals numbered above ANEXT whose turn has come. -/
def takeEarly (s : State) (c : CoreId) (n : Nat) : Nat → State
  | 0 => s
  | fuel + 1 =>
    let e := epOf s c n
    match e.early.find? fun m => decide (m.seq = e.anext) with
    | none => s
    | some m =>
      let s := takeTurn (modEp s c n fun e => { e with early := e.early.erase m }) c n m
      if (epOf s c n).est = .closed then s else takeEarly s c n fuel

/-- R219. The answer to a message that reaches an endpoint with no conversation. -/
def unopened (s : State) (m : Msg) : State :=
  let c := addrCore m.dst
  count (sendMsg s (mkMsg s c (addrEp m.dst) m.src 0xF9 0 0 (noticePayload 0 0 4 0 0))) c.die 78

/-- R195, R202, R213, R218, R219. A user, inline-code or TRANSFER message arrives. -/
def arrival (s : State) (m : Msg) : State :=
  let c := addrCore m.dst
  let n := addrEp m.dst
  let e := epOf s c n
  match e.est with
  | .closed => count s c.die 84
  | .opened | .delegin | .delegated =>
    if e.est = .delegated ∧ e.fwdEnd = true then count s c.die 84 else
    let s := addCredit s c n m.cret.toNat
    let ahead := (m.seq - e.anext).toNat
    if ahead = 0 then
      let s := takeTurn s c n m
      heldNotice (if (epOf s c n).est = .closed then s else takeEarly s c n (e.early.length + 1)) c n
    else if ahead < 2 ^ 31 then
      let s := modEp s c n fun e => { e with early := e.early ++ [m] }
      if e.held && decide ((m.seq - e.rseq).toNat < e.lin) then storeMsg s c n m else s
    else if msgFwded m && decide ((m.seq - e.rseq).toNat < 2 ^ 31) then stored s c n m
    else s
  | _ => unopened s m

/-- R195. A user or inline-code message. A message to a built-in service is taken by it (R68, R208). -/
def execUserMessageArrival (m : Msg) (s : State) : Out :=
  .next (if isServer m.dst then
      (match serverTake s m with
      | .ok (e, s) => soon s e
      | .error s => s)
    else arrival s m)

/-- R213 step 2. A TRANSFER. -/
def execDelegateTransfer (m : Msg) (s : State) : Out :=
  .next (if isServer m.dst then (match serverTake s m with | .ok (_, s) => s | .error s => s) else arrival s m)

/-! ## Connect and Accept (R199, R200) -/

/-- R200. A Connect. -/
def execConnectMessage (m : Msg) (s : State) : Out :=
  let c := addrCore m.dst
  let n := addrEp m.dst
  .next (if isServer m.dst then serverConnect s m
    else
      let held := (coreOf s c).connects
      match (epOf s c n).est with
      | .accepting => handleConnect s c n m
      | .bound =>
        if held.length < 4 then modCore s c fun k => { k with connects := k.connects ++ [m] }
        else refuse s c n
      | _ => refuse s c n)
where
  /-- Accept status 3. -/
  refuse (s : State) (c : CoreId) (n : Nat) : State :=
    count (sendMsg s (mkMsg s c n m.src 0xFB 0 0 ([3, 0, 0, 0] ++ List.replicate 20 0))) c.die 78

/-- R199 step 5, R336. A CONNECT is answered: the endpoint opens, or returns to BOUND; the thread that waits on it takes
up its instruction again. -/
def connectAnswered (s : State) (c : CoreId) (n : Nat) (peer : BitVec 32) (status credit : Nat) : State :=
  let s := if status = 0 then openEp s c n peer credit
    else modEp (setEst (releaseBuf s c n) c n .bound) c n fun e => { e with res := status }
  answerEp s c n (peer.setWidth 64 ||| 0x200000000#64)

/-- R199 step 5. An Accept. One that finds its endpoint no longer connecting is without effect. -/
def execAcceptMessage (m : Msg) (s : State) : Out :=
  let c := addrCore m.dst
  let n := addrEp m.dst
  .next (match (epOf s c n).est with
    | .connecting => connectAnswered s c n m.src (fieldAt m.payload 0 1) (fieldAt m.payload 20 1)
    | .closed => count s c.die 84
    | _ => s)

/-! ## Delegation (R213 to R215) -/

/-- A delegated endpoint's conversation is at an end here: no more is forwarded, and EPFREE need not wait (R185). -/
def conversationOver (s : State) (c : CoreId) (n : Nat) : State :=
  let s := modEp s c n fun e => { e with fwdEnd := true }
  wakeWhere (wake s c fun w => decide (w = .freed n)) c fun t w =>
    decide (t.slot = (epOf s c n).slot) && (match w with | .redo .ending => true | _ => false)

/-- R185, R213 step 5. After FWD_END its buffer is released too. -/
def forwardingOver (s : State) (c : CoreId) (n : Nat) : State := conversationOver (releaseBuf s c n) c n

/-- The messages that lie unconsumed in a delegated endpoint's buffer, forwarded in sequence order. -/
def forwardBuffered (s : State) (c : CoreId) (n : Nat) : State :=
  let e := epOf s c n
  (List.range (e.anext - e.rseq).toNat).foldl (fun s i =>
    let u := slotUnit e (e.rseq.toNat + i)
    let m := msgAt s c n u
    let s := (List.range m.nflit).foldl (fun s j => setFull s (unitPa s c n (u + j)) false) s
    forward s c n m) s

/-- R213 step 3, R215. TAKEN reaches the former holder: it redirects the peer and forwards what has come; a notice it
holds goes to the new holder in place of REDIRECT. -/
def execTaken (m : Msg) (s : State) : Out :=
  let c := addrCore m.dst
  let n := addrEp m.dst
  let e := epOf s c n
  let y := BitVec.ofNat 32 (fieldAt m.payload 4 4)
  .next (match e.est with
    | .delegated =>
      let s := modEp s c n fun e => { e with fwd := y, taken := true }
      (match e.notice with
      | some w => conversationOver (forward (forwardBuffered s c n) c n w) c n
      | none => forwardBuffered (sendMsg s (delegateMsg s c n e.peer 3 [y.toNat, e.anext.toNat])) c n)
    | .closed => count s c.die 84
    | .free | .bound => unopened s m
    | _ => s)

/-- R213 step 4. REDIRECT reaches the peer: it speaks to the new holder from now on, and tells both. -/
def execRedirect (m : Msg) (s : State) : Out :=
  let c := addrCore m.dst
  let n := addrEp m.dst
  let e := epOf s c n
  let y := BitVec.ofNat 32 (fieldAt m.payload 4 4)
  .next (if isServer m.dst then
      (match convFind s m.dst m.src with
      | some v =>
        let tell (s : State) (dst : BitVec 32) : State :=
          serverSend s m.dst dst 0xF8 0 0 (leBytes 4 4 ++ leBytes 4 v.sseq.toNat)
        tell (tell (modConv s m.dst m.src fun v => { v with client := y }) m.src) y
      | none => s)
    else match e.est with
    | .closed => count s c.die 84
    | .free | .bound => unopened s m
    | _ =>
      let s := modEp s c n fun e => { e with peer := y, dcut := BitVec.ofNat 32 (fieldAt m.payload 8 4) }
      -- the credit owed goes with the first message of this endpoint (R203)
      let s := modEp (sendMsg s { delegateMsg s c n m.src 4 [e.sseq.toNat] with cret := BitVec.ofNat 8 e.cpend }) c n fun e =>
        { e with cpend := 0 }
      sendMsg s (delegateMsg s c n y 4 [e.sseq.toNat]))

/-- R213 step 6. A delegated endpoint is OPEN at its new holder once both REDIRECTED and FWD_END have come (counter 83). -/
def delegationDone (s : State) (c : CoreId) (n : Nat) : State :=
  let e := epOf s c n
  if decide (e.est = .delegin) && e.redirected && e.fwdEnd then count (setEst s c n .opened) c.die 83 else s

/-- R213 steps 5 and 6. REDIRECTED: at the former holder the forwarding ends; at the new one sends may go. -/
def execRedirected (m : Msg) (s : State) : Out :=
  let c := addrCore m.dst
  let n := addrEp m.dst
  let s := if isServer m.dst then s else match (epOf s c n).est with
    | .delegated | .delegin => addCredit s c n m.cret.toNat
    | _ => s
  let e := epOf s c n
  .next (match e.est with
    | .delegated => forwardingOver (sendMsg s (delegateMsg s c n e.fwd 5 [min 255 e.lateCredit])) c n
    | .delegin => wake (delegationDone (modEp s c n fun e => { e with redirected := true }) c n) c fun w =>
        decide (w = .redirected n)
    | .closed => count s c.die 84
    | .free | .bound => unopened s m
    | _ => s)

/-- R213 step 6. FWD_END reaches the new holder with the credit that came late. -/
def execFwdEnd (m : Msg) (s : State) : Out :=
  let c := addrCore m.dst
  let n := addrEp m.dst
  .next (match (epOf s c n).est with
    | .delegin => delegationDone (modEp (addCredit s c n (fieldAt m.payload 4 4)) c n fun e => { e with fwdEnd := true }) c n
    | .closed => count s c.die 84
    | .free | .bound => unopened s m
    | _ => s)

/-! ## Closed notices (R215 to R218) -/

/-- R215. A notice reaches a delegated endpoint: the peer's is held until TAKEN, or follows the messages to the new
holder. A delegation failure closes the conversation at the state that X stood at, and the peer is told; any other notice
is passed on to it. X's status stays DELEGATED (R185). -/
def noticeDelegated (s : State) (c : CoreId) (n : Nat) (m : Msg) : State :=
  let e := epOf s c n
  if m.src = e.peer then
    if e.taken then conversationOver (forward s c n m) c n else modEp s c n fun e => { e with notice := some m }
  else
    let name := if fieldAt m.payload 2 1 = 9 then recName (epRec s c n) else m.payload.getD 0 0
    let s := if fieldAt m.payload 2 1 = 9 then sendNotice s c n name e.state 9
      else sendMsg s { m with src := epAddr s c n, dst := e.peer }
    conversationOver (count (modEp s c n fun e => { e with ccause := fieldAt m.payload 2 1, cname := name }) c.die 82) c n

/-- R216, R217. A closed notice closes the endpoint with cause 2 and the name it carries; at an endpoint that took a
delegation, once the messages before it have come. At a FREE or CLOSED endpoint it is dropped without count. -/
def execClosedNotice (m : Msg) (s : State) : Out :=
  let c := addrCore m.dst
  let n := addrEp m.dst
  .next (if isServer m.dst then serverClosed s m
    else match (epOf s c n).est with
    | .delegated => noticeDelegated s c n m
    | .opened => closeEp s c n 2 (some (m.payload.getD 0 0))
    | .delegin =>
      -- the peer's own notice waits for the messages that are still being forwarded
      if m.src = (epOf s c n).peer ∨ msgFwded m then heldNotice (modEp s c n fun e => { e with notice := some m }) c n
      else closeEp s c n 2 (some (m.payload.getD 0 0))
    | _ => s)

/-! ## Inline code (R206) -/

/-- The helper's registers: sixteen words. -/
abbrev Helper := List Word

/-- A register of the helper; g0 reads as zero. -/
def Helper.g (h : Helper) (n : Nat) : Word := if n = 0 then 0 else h.getD n 0

/-- A register of the helper written. -/
def Helper.put (h : Helper) (n : Nat) (v : Word) : Helper := if n = 0 then h else h.set n v

/-- R206. The value of a register-to-register instruction of the helper, by major and m; `d` is the destination's old
value. -/
def helperAlu (major m : Nat) (a b d : Word) : Option Word :=
  match major, m with
  | 0, 0 => some (a + b)
  | 0, 1 => some (a - b)
  | 0, 2 => some (a &&& b)
  | 0, 3 => some (a ||| b)
  | 0, 4 => some (a ^^^ b)
  | 0, 5 => some (a &&& ~~~b)
  | 0, 6 => some (a ||| ~~~b)
  | 0, 7 => some (a <<< (b.toNat % 64))
  | 0, 8 => some (a >>> (b.toNat % 64))
  | 0, 9 => some (a.sshiftRight (b.toNat % 64))
  | 0, 11 => some (if a.sle b then a else b)
  | 0, 12 => some (if a.sle b then b else a)
  | 0, 13 => some (if a.ule b then a else b)
  | 0, 14 => some (if a.ule b then b else a)
  | 0, 15 => some (if d ≠ 0 then a else b)
  | 1, 0 => some (a * b)
  | 2, h => some (a + (b <<< h))
  | _, _ => none

/-- R206. The value of an instruction with an immediate: ADDI, ANDI, ORI, XORI, SHLI, SHRI, SARI, MULI. -/
def helperImm (major : Nat) (w : BitVec 32) (a : Word) : Option Word :=
  let i := (w.extractLsb' 21 11).signExtend 64
  let n := (w.extractLsb' 21 6).toNat
  match major with
  | 7 => some (a + i)
  | 8 => some (a &&& i)
  | 9 => some (a ||| i)
  | 10 => some (a ^^^ i)
  | 11 => match (w.extractLsb' 27 5).toNat with
    | 0 => some (a <<< n)
    | 1 => some (a >>> n)
    | 2 => some (a.sshiftRight n)
    | _ => none
  | 14 => some (a * i)
  | _ => none

/-- R206. The physical address of a helper's access, in the self window and aligned. -/
def helperPa (s : State) (c : CoreId) (ea : Word) (n : Nat) : Option Nat :=
  if ea.toNat < selfBase ∨ 2 ^ 57 ≤ ea.toNat ∨ ea.toNat % n ≠ 0 then none else selfPa s c (ea.toNat - selfBase) n

/-- R128. A helper's access that meets a unit under copy is counted. -/
def helperMeets (s : State) (pa n : Nat) : State :=
  match homeOf s pa with
  | some h => if copying s h pa n then count s h.die 70 else s
  | none => s

/-- R206. One slot of inline code: the state and registers after it, or none where it stops the sequence. -/
def helperSlot (s : State) (c : CoreId) (h : Helper) (w : BitVec 32) : Option (State × Helper) :=
  let major := (w.extractLsb' 1 6).toNat
  let d := (w.extractLsb' 7 7).toNat
  let a := (w.extractLsb' 14 7).toNat
  let b := (w.extractLsb' 21 7).toNat
  let m := (w.extractLsb' 28 4).toNat
  let ok (ns : List Nat) : Bool := ns.all fun n => decide (n < 16)
  if !w.getLsbD 0 then none
  else if major ≤ 2 then
    if !ok [a, b, d] then none else (helperAlu major m (h.g a) (h.g b) (h.g d)).map fun v => (s, h.put d v)
  else if major = 16 then
    if !ok [d] then none else some (s, h.put d ((w.extractLsb' 14 18).signExtend 64))
  else if major = 20 ∨ major = 22 then
    let code := (w.extractLsb' 21 3).toNat
    let n := widthOf code
    let ea := h.g a + scaled (w.extractLsb' 24 8) (w.extractLsb' 21 3)
    if !ok [a, d] || !(if major = 20 then okLoadWidth code else okStoreWidth code) then none
    else (helperPa s c ea n).bind fun pa =>
      let s := helperMeets s pa n
      if major = 20 then
        let s := noteRead s pa n
        if poisoned s pa n then none else some (s, h.put d (extendBy code (leNat (readBytes s pa n))))
      else if partialPoison s pa n n then none
      else some (performWrite s pa (leBytes n (h.g d).toNat) false, h)
  else if 28 ≤ major ∧ major ≤ 30 then
    if !ok [a, b, d] || decide (m = 8 ∨ 9 < m) then none
    else (helperPa s c (h.g a) 8).bind fun pa =>
      let s := noteRead (helperMeets s pa 8) pa 8
      if poisoned s pa 8 then none
      else
        let (s, old) := atomicAt s pa m (h.g b) (h.g d)
        some (s, h.put d old)
  else if !ok [a, d] then none
  else (helperImm major w (h.g a)).map fun v => (s, h.put d v)

/-- R206. The slots in order: up to a slot of zeros or the sixth; a slot that is not allowed stops them and is counted. -/
def helperRun (s : State) (c : CoreId) (h : Helper) : List (BitVec 32) → State
  | [] => s
  | w :: r =>
    if w = 0 then s
    else match helperSlot s c h w with
    | some (s, h) => helperRun s c h r
    | none => count s c.die 77

/-- R206. The helper runs the message at the head of the endpoint's buffer; then it is consumed and credited as if by
RECV, and the next one is looked at. A message that the endpoint cannot yet receive, standing at a state that sends,
waits; one whose accesses meet a unit under copy runs behind that copy (R128). -/
def execInlineCodeRun (core : CoreId) (ep : Nat) (s : State) : Out :=
  .next (if !msgReady s core ep || !recvKind (recKind (epRec s core ep)) then s
    else
      let m := nextMsg s core ep
      let k := m.mtype.toNat - 0xF0
      let regs : Helper := (List.range 16).map fun i =>
        if 1 ≤ i ∧ i ≤ k then BitVec.ofNat 64 (fieldAt m.payload (24 + 8 * (i - 1)) 8) else 0
      let slots := (List.range 6).map fun i => BitVec.ofNat 32 (fieldAt m.payload (4 * i) 4)
      let run := helperRun s core regs slots
      let delayed (s : State) : Word := s.dieRegs.get (core.die, 0x20000 + 8 * 70) 0
      if delayed run ≠ delayed s then
        (count s core.die 70).at (copyEnd s core.creel + 1) (.event (.inlineCodeRun core ep))
      else
      let s := consume run core ep m
      if msgReady s core ep then now s (.handlerStart core ep) else s)

end Sys2Proof.Machine
end

