-- ==== Sys2Proof/Machine/Homes.lean ====
section
/-! DEFINITION. Memory requests at their homes (R207, R209, R210, R229, R316), their replies (R56, R57, R138, R225), the
cancels of waits (R317), and instruction lines that arrive (R171). -/

namespace Sys2Proof.Machine

/-! ## What comes before a request is performed -/

/-- The creel of a requester, for the fences of R139. -/
def requesterCreel : Requester → Option CreelId
  | .slot t => some t.core.creel
  | .engine c _ _ => some c
  | .gate c _ _ _ => some c
  | .fetch t _ => some t.core.creel
  | .remote _ => none

/-- Is the home a DRAM controller? -/
def isDram : Home → Bool
  | .control _ _ _ => true
  | _ => false

/-- R57. Does a request carry the version of its frame? Frames start at version 0. -/
def versionOk (s : State) (q : MemReq) (h : Home) : Bool :=
  !(q.mig && isDram h) || decide (s.frameVer.get (q.pa / 65536) 0 = q.ver)

/-- R59. An access at a physical address to a frame of a MIG page counted, saturating. -/
def countFrame (s : State) (mig : Bool) (pa : Nat) (h : Home) : State :=
  if mig && isDram h then
    let f := pa / 65536
    { s with frameCount := s.frameCount.put f (min 0xFFFF (s.frameCount.get f 0 + 1)) }
  else s

/-- A request reaches its home: it is refused where nothing is (status 3), behind a fence (status 4, the negative
acknowledgement of R139), or for its version (status 2); it is delayed on a unit under copy (R128); otherwise it is
performed. -/
def atHome (s : State) (q : MemReq) (perform : State → Home → State) : Out :=
  .next (match homeOf s q.pa with
  | none => sendReply s q 3 [] 0
  | some h =>
    if fencedAt s (homeKey h) then
      (match requesterCreel q.who with
      | some c => if fencedAt s c then s else sendReply s q 4 [] 0
      | none => sendReply s q 4 [] 0)
    else if !versionOk s q h then sendReply s q 2 [] 0
    else if copying s h q.pa q.len then
      (count s h.die 70).at (copyEnd s (homeKey h) + 1) (.event (requestEvent q))
    else
      let s := if decide (q.op = 2) && !partialPoison s q.pa q.data.length q.data.length then s
        else noteRead s q.pa (max q.len q.data.length)
      perform (countFrame s q.mig q.pa h) h)

/-! ## Device register space (R8, R72) -/

/-- The requester's slot, for the registers that heed who writes them. -/
def requesterSlot : Requester → Option ThreadId
  | .slot t => some t
  | _ => none

/-- The register of a die that holds a physical address; unassigned ones, and the space beyond the eight blocks, read zero. -/
def regWord (s : State) (die pa : Nat) : Word := (dieRead s die (pa % 2 ^ 28 / 8 * 8)).getD 0

/-- n bytes of a die's register space. -/
def regBytes (s : State) (die pa : Nat) : Nat → List Byte
  | 0 => []
  | n + 1 => BitVec.ofNat 8 ((regWord s die pa).toNat / 2 ^ (8 * (pa % 8))) :: regBytes s die (pa + 1) n

/-- A write to device register space: an aligned one of 8 bytes writes its register by the codes of R8, any other is ignored
(DESIGN CHOICE, log 77: the spec gives registers no other width). -/
def regPut (s : State) (die pa : Nat) (data : List Byte) (who : Option ThreadId) : State :=
  if pa % 8 = 0 ∧ data.length = 8 then dieWrite s die (pa % 2 ^ 28) (BitVec.ofNat 64 (leNat data)) who else s

/-- The word of memory that stands in for a register while an operation is performed on it. -/
def lendWord (s : State) (pa : Nat) (v : Word) : State := { s with mem := putBytes s.mem pa (leBytes 8 v.toNat) }

/-- An operation that reads and writes memory performed on a register: it finds the register's value in its word, and what it
writes there is written to the register when it is the whole word. The word's full/empty bit and tags are the model's
own, kept beside it (DESIGN CHOICE, log 77). -/
def onReg (s : State) (die pa : Nat) (whole : Bool) (who : Option ThreadId) (f : State → State) : State :=
  let a := pa / 8 * 8
  let s := f (lendWord s a (regWord s die pa))
  let v := readWord s a
  let s := lendWord s a 0
  if whole then dieWrite s die (a % 2 ^ 28) v who else s

/-! ## Loads and stores (R207, R424) -/

/-- R207. A load. The parts of a register that it covers are those of the whole register (R72; log 77). -/
def execMemLoad (q : MemReq) (s : State) : Out :=
  atHome s q fun s h =>
    match h with
    | .device d => sendReply s q 0 (regBytes s d q.pa q.len) 0
    | _ =>
      if poisoned s q.pa q.len then sendReply s q 1 [] 0
      else sendReply s q 0 (readBytes s q.pa q.len) ((wordBits s q.pa).extractLsb' 0 4)

/-- R230. VERS of the metadata word below a tile goes up by one. -/
def bumpVers (s : State) (tile : Nat) : State :=
  let w := readWord s (tile - 8)
  let v := w.extractLsb' 32 16 + 1
  mirror (writeWord s (tile - 8) (w.extractLsb' 48 16 ++ v ++ w.extractLsb' 0 32)) (tile - 8) 8

/-- A store performed: the tag of the first quarter is the S that a SPILL carries; an all-or-nothing store is one write
of its tile between two steps of VERS (R230). -/
def storeHere (s : State) (q : MemReq) : State :=
  let put (s : State) := mirror (performWrite s q.pa q.data (q.tags.getLsbD 0)) q.pa q.data.length
  if q.aon then bumpVers (put (bumpVers s q.pa)) q.pa else put s

/-- R424. Does a store meet an uncorrectable error in a unit it covers in part, the metadata word of an all-or-nothing tile
counted? -/
def storePoison (s : State) (q : MemReq) : Bool :=
  partialPoison s q.pa q.data.length q.data.length || (q.aon && partialPoison s (q.pa - 8) 8 8)

/-- R207. A store, acknowledged when performed. One to device register space acts as `regPut` says (log 77). -/
def execMemStore (q : MemReq) (s : State) : Out :=
  atHome s q fun s h =>
    match h with
    | .device d => sendReply (regPut s d q.pa q.data (requesterSlot q.who)) q 0 [] 0
    | _ =>
      if storePoison s q then sendReply s q 1 [] 0
      else sendReply (storeHere s q) q 0 [] 0

/-! ## Atomics (R319 to R321) -/

/-- R319 to R321. An atomic: WID is its function. One on a register reads and writes the register (R8). -/
def execMemAtomic (q : MemReq) (s : State) : Out :=
  atHome s q fun s h =>
    let m := q.wid.toNat
    let arg := BitVec.ofNat 64 (fieldAt q.data 0 8)
    let cmp := BitVec.ofNat 64 (fieldAt q.data 8 8)
    match h with
    | .device d =>
      let old := regWord s d q.pa
      let s' := onReg s d q.pa (decide (m ≠ 8) && (amoNew m old arg cmp).isSome) (requesterSlot q.who) fun s =>
        if m = 8 then s else (atomicAt s q.pa m arg cmp).1
      sendReply s' q 0 (if m = 8 then regBytes s d q.pa 4 ++ [0] else leBytes 8 old.toNat) 0
    | _ =>
    if poisoned s q.pa q.len then sendReply s q 1 [] 0
    else if m = 8 then
      let p : Pair := ⟨decodeW32 (arg.extractLsb' 0 32), q.tags.getLsbD 0⟩
      let (s, old, os, fl) := atomicFadd s q.pa p
      sendReply (mirror s q.pa 4) q 0 (leBytes 4 old ++ [fl]) (if os then 1 else 0)
    else
      let (s, old) := atomicAt s q.pa m arg cmp
      sendReply (mirror s q.pa 8) q 0 (leBytes 8 old.toNat) 0

/-! ## Ordered requests (R210) -/

/-- Is the request an ordered one of the same source to the same home with a smaller number? -/
def orderedBefore (s : State) (q x : MemReq) : Bool :=
  x.ord && decide (x.who = q.who ∧ x.seq < q.seq) && decide ((homeOf s x.pa).map homeKey = (homeOf s q.pa).map homeKey)

/-- The request of R210 that an agenda entry brings to its home, or back from it to be sent anew. -/
def requestOf : Act → Option MemReq
  | .event (.memSubByteStore q) => some q
  | .event (.memDestAdd q) => some q
  | .event (.memDestMin q) => some q
  | .event (.memDestMax q) => some q
  -- refused for its version, it is still to be applied (R57)
  | .event (.memoryReply r) => if r.status = 2 then some r.req else none
  | _ => none

/-- R210. Has a predecessor of an ordered request not been applied yet? -/
def aheadOfOrder (s : State) (q : MemReq) : Bool :=
  q.ord && ((s.agenda.any fun d => match requestOf d.act with
    | some x => orderedBefore s q x
    | none => false) ||
  (match homeOf s q.pa with
    | some h => (creelOf s (homeKey h)).ordHeld.any (orderedBefore s q)
    | none => false))

/-- R210. An ordered request is applied in its turn: one ahead of its predecessor waits in the held store of 32, or at
its source while that is full. Those that waited for it are tried again. -/
def inOrder (s : State) (q : MemReq) (h : Home) (perform : State → State) : State :=
  let k := homeKey h
  if aheadOfOrder s q then
    if (creelOf s k).ordHeld.length < 32 then modCreel s k fun c => { c with ordHeld := c.ordHeld ++ [q] }
    else s.after 1 (.event (requestEvent q))
  else
    let s := perform s
    let mine := (creelOf s k).ordHeld.filter fun x => q.ord && decide (x.who = q.who)
    let s := modCreel s k fun c => { c with ordHeld := c.ordHeld.filter fun x => !mine.contains x }
    mine.foldl (fun s x => s.at s.cyc (.event (requestEvent x))) s

/-- R229, R318. A sub-byte store. -/
def execMemSubByteStore (q : MemReq) (s : State) : Out :=
  atHome s q fun s h => inOrder s q h fun s =>
    if (match h with | .device _ => true | _ => false) then sendReply s q 0 [] 0
    else if partialPoison s q.pa 1 1 then sendReply s q 1 [] 0
    else
      let v := BitVec.ofNat 4 (fieldAt q.data 0 1)
      sendReply (mirror (performNibble s q.pa (decide (q.wid = 0x11)) v) q.pa 1) q 0 [] 0

/-! ## Destination arithmetic (R209) -/

/-- The element width in bytes of a destination-arithmetic code: the codes of R350; 16 is INT64 (DEDUCED, log 24). -/
def destWidth (code : Nat) : Nat := if code = 16 then 8 else if code = 3 ∨ code = 4 then 2 else 4

/-- The floating format of a code, with its reader and writer. -/
def destFloat (code : Nat) : Option (Fmt × (Nat → Num) × (Num → Nat)) :=
  match code with
  | 1 => some (.w32, fun v => decodeW32 (BitVec.ofNat 32 v), fun x => (encodeW32 x).toNat)
  | 2 => some (.w19, fun v => decodeW19 (BitVec.ofNat 32 v), fun x => (encodeW32 x).toNat)
  | 3 => some (.bf16, fun v => decodeBf16 (BitVec.ofNat 16 v), fun x => (encodeBf16 x).toNat)
  | 4 => some (.fp16, fun v => decodeFp16 (BitVec.ofNat 16 v), fun x => (encodeFp16 x).toNat)
  | _ => none

/-- The combination: 0 add, 1 minimum, 2 maximum, of two held values, narrowed by RoundOdd into the stored format. -/
def destPair (f : Fmt) (fn : Nat) (a b : Pair) : Pair :=
  if fn = 0 then
    let (r, fl) := addExact a.x b.x
    (narrow f r false [a, b] fl).1
  else
    let m := fminmax (decide (fn = 2)) a b
    match m.x with
    | .nan => ⟨.nan, false⟩
    | x => ⟨(roundOdd f x m.s).1.x, m.s⟩

/-- The combination of two integers of w bits. INT32 and INT64 order as signed, N32 as natural. -/
def destInt (code fn w a b : Nat) : Nat :=
  let v (x : Nat) : Int := if code = 14 then (x : Int) else signedOf w x
  match fn with
  | 0 => (a + b) % 2 ^ w
  | 1 => if v a ≤ v b then a else b
  | _ => if v a ≤ v b then b else a

/-- One element of a destination request combined with the stored one, as one step; S is ORed into the element's tag. -/
def destElem (s : State) (code fn pa v : Nat) (tag : Bool) : State :=
  let n := destWidth code
  let old := leNat (readBytes s pa n)
  match destFloat code with
  | some (f, dec, enc) =>
    let p := destPair f fn ⟨dec old, tagAt s pa⟩ ⟨dec v, tag⟩
    performWrite s pa (leBytes n (enc p.x)) (p.s || tagAt s pa)
  | none => performWrite s pa (leBytes n (destInt code fn (8 * n) old v)) false

/-- A destination request: every element in turn; the S bits of its first word's quarters travel with it. -/
def destination (fn : Nat) (q : MemReq) (s : State) : Out :=
  atHome s q fun s h => inOrder s q h fun s =>
    let code := q.wid.toNat
    let n := destWidth code
    let one (s : State) (i : Nat) : State :=
      destElem s code fn (q.pa + n * i) (fieldAt q.data (n * i) n) (decide (n * i < 8) && q.tags.getLsbD (n * i / 2))
    match h with
    | .device d =>
      sendReply ((List.range (q.data.length / n)).foldl (fun s i =>
        onReg s d (q.pa + n * i) (decide (n = 8)) (requesterSlot q.who) fun s => one s i) s) q 0 [] 0
    | _ =>
    if poisoned s q.pa q.data.length then sendReply s q 1 [] 0
    else
      let s := (List.range (q.data.length / n)).foldl one s
      sendReply (mirror s q.pa q.data.length) q 0 [] 0

/-- R209. Destination add. -/
def execMemDestAdd (q : MemReq) (s : State) : Out := destination 0 q s

/-- R209. Destination minimum. -/
def execMemDestMin (q : MemReq) (s : State) : Out := destination 1 q s

/-- R209. Destination maximum. -/
def execMemDestMax (q : MemReq) (s : State) : Out := destination 2 q s

/-! ## Full/empty operations (R315, R316, R325, R326) -/

/-- R316. The records a home's waiter store holds: 256 in a creel, 4,096 in a controller. -/
def waiterRoom (s : State) (h : Home) : Bool :=
  let held := s.waiters.filter fun w => w.q.isSome && decide ((homeOf s w.pa).map homeKey = some (homeKey h))
  decide (held.length < (if isDram h then 4096 else 256))

/-- R316. A full/empty or barrier operation: performed and answered, or recorded as a waiter; held at its source when
the waiter store is full. -/
def execMemFullEmpty (q : MemReq) (s : State) : Out :=
  atHome s q fun s h =>
    let m := q.wid.toNat
    let arg := BitVec.ofNat 64 (fieldAt q.data 0 8)
    let wait (s : State) : State :=
      if waiterRoom s h then { s with waiters := s.waiters ++ [⟨q.pa, waiterKind m, arg, some q, none⟩] }
      else { count s h.die 86 with heldWaits := s.heldWaits ++ [q] }
    match h with
    | .device d =>
      let writes := decide (m = 2 ∨ m = 3 ∨ m = 6) ||
        (decide (m = 0 ∨ m = 4) && s.waiters.any fun w => decide (w.pa = q.pa ∧ w.kind = 2))
      (match feTry (lendWord s q.pa (regWord s d q.pa)) q.pa m arg with
      | some (_, v) =>
        let act (s : State) : State := match feTry s q.pa m arg with | some (s, _) => s | none => s
        sendReply (onReg s d q.pa writes (requesterSlot q.who) act) q 0 (leBytes 8 v.toNat) 0
      | none => wait s)
    | _ =>
    if poisoned s q.pa 8 then sendReply s q 1 [] 0
    else match feTry s q.pa m arg with
    | some (s, v) => sendReply (mirror s q.pa 8) q 0 (leBytes 8 v.toNat) 0
    | none => wait s

/-- R316. A wait held at its source is sent again; it arrives anew. -/
def execWaiterStoreResend (q : MemReq) (s : State) : Out :=
  .next (match homeOf s q.pa, q.who with
  | some h, .slot t => s.onLane (requestLane s q false) (homeCycles t.core h) (requestFlits q) (.event (requestEvent q))
  | _, _ => s.after 1 (.event (requestEvent q)))

/-- R317. The cancel of a stopped waiter: its record is removed and its instruction is not performed, or it has been
served and its reply completes the instruction. -/
def execWaitCancel (q : MemReq) (s : State) : Out :=
  let mine (w : Waiter) : Bool := match w.q with
    | some x => decide (x.tok = q.tok ∧ x.who = q.who)
    | none => false
  let found := s.waiters.find? mine
  let held := s.heldWaits.any fun x => decide (x.tok = q.tok ∧ x.who = q.who)
  let s := match found with | some w => dropWaiter s w | none => s
  let s := { s with heldWaits := s.heldWaits.filter fun x => !decide (x.tok = q.tok ∧ x.who = q.who) }
  .next (if found.isSome || held then
    (match q.who with
    | .slot t => modThread s t fun th =>
        if th.req.map (·.tok) = some q.tok then { th with wait := .stopped, req := none } else th
    | _ => s)
  else s)

/-- R317. A wait of a thread that is stopped is cancelled: one of its own core at once, with its instruction not performed;
another by a cancel to the home, unless one is under way. -/
def cancelWait (s : State) (t : ThreadId) : State :=
  let th := threadOf s t
  if s.waiters.any fun w => decide (w.slot = some t) then
    let s := { s with waiters := s.waiters.filter fun w => w.slot ≠ some t }
    modThread s t fun th => { th with wait := .stopped, req := none }
  else match th.wait, th.req with
  | .reply _, some q =>
    let sent := s.agenda.any fun d => match d.act with
      | .event (.waitCancel x) => decide (x.tok = q.tok)
      | _ => false
    if q.op ≠ 8 || sent then s
    else (match homeOf s q.pa with
      | some h => s.after (homeCycles t.core h) (.event (.waitCancel q))
      | none => s)
  | _, _ => s

/-! ## Replies (R207) -/

/-- The CLOSED trap of the implicit memory endpoint (R225, R274). -/
def trapMemClosed (va : Nat) : Trap := ⟨6, BitVec.ofNat 64 (2 ^ 63 + va % 2 ^ 57)⟩

/-- R57, R225. A request is sent anew at its place in order: not before an earlier request of its requester that is on its
way to the same home, and before the later ones. -/
def sendAnew (s : State) (h : Home) (q : MemReq) (at_ : Nat) : State :=
  let mine (d : Due) : Option MemReq := match requestIn d.act with
    | some x => if x.who = q.who ∧ (homeOf s x.pa).map homeKey = some (homeKey h) then some x else none
    | none => none
  let first := s.agenda.foldl (fun m d => match mine d with
    | some x => if x.tok < q.tok then max m d.at_ else m
    | none => m) at_
  let passes (d : Due) : Bool := match mine d with
    | some x => decide (q.tok < x.tok ∧ d.at_ ≤ first)
    | none => false
  let later := s.agenda.filter passes
  let s := { s with agenda := s.agenda.filter fun d => !passes d }
  later.foldl (fun s d => s.at first d.act) (s.at first (.event (requestEvent q)))

/-- R210. Ordered requests of a slot that wait in a held store are tried again at their home. -/
def retryHeld (s : State) (who : Requester) : State :=
  s.creels.foldl (fun s (k, c) =>
    let mine := c.ordHeld.filter fun x => decide (x.who = who)
    if mine.isEmpty then s
    else mine.foldl (fun s x => s.at s.cyc (.event (requestEvent x)))
      (modCreel s k fun c => { c with ordHeld := c.ordHeld.filter fun x => x.who ≠ who })) s

/-- R210. A slot's implicit endpoint has closed: its ordered requests that wait in a held store are dropped and counted. -/
def dropHeld (s : State) (t : ThreadId) : State :=
  s.creels.foldl (fun s (k, c) =>
    let mine := c.ordHeld.filter fun x => decide (x.who = .slot t)
    if mine.isEmpty then s
    else
      let s := modCreel s k fun c => { c with ordHeld := c.ordHeld.filter fun x => x.who ≠ .slot t }
      let s := mine.foldl (fun s _ => count s k.die 84) s
      modThread s t fun th => { th with posted := th.posted.filter fun p => !mine.any fun x => decide (x.tok = p.tok) }) s

/-- What a request needs of its page (R54). -/
def requestNeed (q : MemReq) : Need :=
  match q.op with
  | 1 => needLoad
  | 3 => needAtomic
  | 8 => feNeed q.wid.toNat
  | _ => needStore

/-- R57. The translation-cache entry of an address is dropped, the page is walked again, and the request leaves anew with
its place in order; or the trap of the walk, or of what the new leaf denies, is raised. The walk's time is free (DESIGN
CHOICE, log 6). -/
def reissueRequest (s : State) (t : ThreadId) (q : MemReq) : Except Trap State :=
  let th := threadOf s t
  let k := t.core.creel
  let s := modCreel s k fun c => { c with tlb := dropPage c.tlb th.asid q.va }
  match lookUp s k th.asid th.root.toNat q.va with
  | .error n => .error (trapTranslation n q.va)
  | .ok (s, e) =>
    match throughLeaf s t th q.va (requestNeed q) e.leaf (e.pa q.va) with
    | .trap tr => .error tr
    | .remote pa h leaf =>
      let q' := { q with pa := pa, ver := pteVer leaf, mig := pteMig leaf }
      let s := modThread s t fun th => { th with req := th.req.map fun r => if r.tok = q.tok then q' else r }
      .ok (retryHeld (sendAnew s.drawn h q' (s.cyc + 1 + Config.delay s.free + homeCycles t.core h)) q.who)
    | _ => .error (trapTranslation 7 q.va)

/-- The trap that a refused request raises: unbacked, or a negative acknowledgement. -/
def refusedTrap (status va : Nat) : Trap := if status = 3 then trapTranslation 7 va else trapMemClosed va

/-- A posted write is acknowledged (R225): instructions that wait for it are taken up again; a refused or poisoned one
is met at the thread's next issue. -/
def postedReply (s : State) (t : ThreadId) (r : MemReply) : State :=
  let settle (s : State) (tr : Option Trap) : State :=
    let s := if r.status = 4 then dropHeld s t else s
    let s := modThread s t fun th => { th with
      posted := th.posted.filter fun p => p.tok ≠ r.req.tok
      trap := th.trap.or tr
      memOpen := if r.status = 4 then false else th.memOpen }
    match (threadOf s t).wait with
    | .redo .ack => s.at s.cyc (.redo t)
    | .redo .ending => s.at s.cyc (.redo t)
    | _ => s
  match r.status with
  | 0 => settle s none
  | 1 => settle s (some errorTrap)
  | 2 => (match reissueRequest s t r.req with
    | .ok s => s
    | .error tr => settle s (some tr))
  | n => settle s (some (refusedTrap n r.req.va))

/-- What a completion does with a reply that carries data. -/
def finishReply (s : State) (t : ThreadId) (k : Compl) (r : MemReply) : State :=
  match k with
  | .pair _ => complete s t k (fieldAt r.data 0 4) (r.tags.getLsbD 0) (BitVec.ofNat 8 (fieldAt r.data 4 1))
  | .bit _ => complete s t k (fieldAt r.data 0 8 % 2) false 0
  | .codebook n =>
    let s := modThread s t fun th => { th with gathered := th.gathered ++ [(r.req.va, r.data)], awaited := th.awaited - 1 }
    let th := threadOf s t
    if th.awaited = 0 ∧ th.stopping = true then
      -- R300: at a boundary the replies are awaited and discarded
      modThread s t fun th => { th with wait := .stopped, gathered := [], answer := none }
    else if th.awaited = 0 then
      let base := (th.gathered.map (·.1)).foldl min (2 ^ 57)
      complete (writeSlot s t.core n (slotImage th.gathered base)) t k 0 false 0
    else s
  | .flight d va header => flightReply s t d va header r.req.va r.data
  | _ => complete s t k (leNat r.data) (r.tags.getLsbD 0) 0

/-- A parked instruction's reply (R162): completion, or a trap at the thread's next issue, or a reissue, or an
uncorrectable error. -/
def parkedReply (s : State) (t : ThreadId) (k : Compl) (r : MemReply) : State :=
  match r.status with
  | 0 => finishReply s t k r
  | 1 => consumeError s t
  | 2 => (match reissueRequest s t r.req with
    | .ok s => s
    | .error tr => trapLater s t tr)
  | 4 => trapLater (dropHeld (modThread s t fun th => { th with memOpen := false }) t) t (trapMemClosed r.req.va)
  | _ => trapLater s t (trapTranslation 7 r.req.va)

/-- Is a reply that of the request a parked thread waits for? Of several loads the token of the first is kept. -/
def awaits (th : Thread) (q : MemReq) : Bool :=
  match th.req with
  | some x => decide (x.tok = q.tok)
  | none => decide (0 < th.awaited ∧ ((th.answer.getD 0).toNat ≤ q.tok))

/-- R196. The address that a home's replies to other modules bear: its node, endpoint 0. -/
def homeAddr (s : State) (h : Home) : BitVec 32 := epAddr s (homeNode h) 0

/-- R207. A reply reaches its requester. -/
def execMemoryReply (r : MemReply) (s : State) : Out :=
  .next (match r.req.who with
  | .slot t =>
    let th := threadOf s t
    let halt := (creelOf s t.core.creel).halt
    if (match halt with | some h => h.stepped.contains t && haltedNow s t.core && !r.req.posted | none => false) then
      -- R147: it completes the stepped instruction after the resume
      modCreel s t.core.creel fun c => { c with halt := c.halt.map fun h => { h with kept := h.kept ++ [r] } }
    else if r.req.posted then
      (if th.posted.any fun p => decide (p.tok = r.req.tok) then postedReply s t r else s)
    else (match th.wait with
      | .reply k => if awaits th r.req then parkedReply s t k r else s
      | _ => s)
  | .fetch t va => now s (.icacheLineFill t va r.req.pa r.data r.status)
  | .gate c ring unit gate => if r.status = 2 then s.at s.cyc (.gateAgain r.req) else now s (.gateTestReply c ring unit gate (decide (r.status = 0 ∧ fieldAt r.data 0 8 = 1)))
  | .engine _ _ _ => s
  | .remote a => (match homeOf s r.req.pa with
    | some h => sendMsg s ⟨0xFD, replyFlits r.data, true, 1 + r.data.length, a, homeAddr s h, 0, 0, 0, 0, BitVec.ofNat 8 r.status :: r.data⟩
    | none => s))

/-! ## Instruction lines (R171) -/

/-- R171, R323. A line arrives: it is installed, or serves the fetch that asked for it once where an IFENCE has passed or
no way is free; the thread issues in its next own slot. A refused line traps, an uncorrectable one is consumed. -/
def execIcacheLineFill (t : ThreadId) (va _pa : Nat) (bytes : List Byte) (status : Nat) (s : State) : Out :=
  let th := threadOf s t
  if th.wait ≠ .line va then .next s
  else
    let s := modThread s t fun th => { th with wait := .run, ready := nextOwn s.cyc t.slot }
    let s := if status ≠ 0 && th.region.isNone then unlockLines s t else s
    let at_ := if th.pc.toNat / 64 * 64 = va then th.pc.toNat else va
    let barred := (coreOf s t.core).noInstall.contains t.slot
    let s := modCore s t.core fun k => { k with noInstall := k.noInstall.filter fun n => n ≠ t.slot }
    .next (match status with
    | 0 =>
      let s := modThread s t fun th => { th with lent := some (va, bytes) }
      if barred then s else installLine s t.core th.asid va bytes
    | 1 => consumeError s t
    | 2 => modCreel s t.core.creel fun c => { c with tlb := dropPage c.tlb th.asid va }
    | 4 => trapLater s t (trapMemClosed at_)
    | _ => trapLater s t (trapTranslation 7 at_))

end Sys2Proof.Machine
end

