-- ==== Sys2Proof/Machine/Queue.lean ====
section
/-! DEFINITION. The task queue of a creel: its rings (R95 to R97), the window of an examination and its gate tests (R98,
R100), effective priority (R99), the choice of a slot and the dispatch (R101, R102). -/

namespace Sys2Proof.Machine

/-! ## Rings (R96, R97) -/

/-- PRIO and LEVELS of the launch resident on a creel. -/
def creelRecord (s : State) (c : CreelId) : List Byte :=
  match residentLaunch s c with
  | some l => recordOf s l
  | none => []

/-- Pad units that a packet of `len` units needs before it, when the ring has room for it (R97). -/
def ringRoom (s : State) (c : CreelId) (p len : Nat) : Option Nat :=
  let l := ringLen s c
  let (wr, rd) := ringPtr s c p
  let free := l - (wr - rd)
  let atEnd := l - wr % max 1 l
  if l = 0 then none
  else if len ≤ atEnd then (if len ≤ free then some 0 else none)
  else if atEnd + len ≤ free then some atEnd else none

/-- A unit of a ring written: its bytes in the scratchpad, and what the queue holds of it. -/
def putUnit (s : State) (c : CreelId) (p i : Nat) (bs : List Byte) : State :=
  writeBytes (modCreel s c fun k => { k with units := k.units.put (p, i) bs }) (unitAddr s c p i) bs false

/-- The first bytes of a unit written over. -/
def markUnit (s : State) (c : CreelId) (p i : Nat) (bs : List Byte) : State :=
  writeBytes (modCreel s c fun k => { k with
    units := k.units.put (p, i) (bs ++ (k.units.get (p, i) []).drop bs.length) }) (unitAddr s c p i) bs false

/-- A stamp of a ring written. -/
def putStamp (s : State) (c : CreelId) (p i stamp : Nat) : State :=
  writeWord (modCreel s c fun k => { k with stamps := k.stamps.put (p, i) stamp }) (stampAddr s c p i) (BitVec.ofNat 64 stamp)

/-- A pad unit. -/
def padUnit : List Byte := [0, 1] ++ List.replicate 62 0

/-- R97. A packet written into a ring behind the pads it needs, with its stamp. -/
def ringPut (s : State) (c : CreelId) (p pads stamp : Nat) (pkt : List Byte) : State :=
  let l := max 1 (ringLen s c)
  let (wr, rd) := ringPtr s c p
  let s := (List.range pads).foldl (fun s i => putUnit s c p ((wr + i) % l) padUnit) s
  let u := wr + pads
  let s := (List.range (pkLen pkt)).foldl (fun s i =>
    putUnit s c p ((u + i) % l) ((pkt.drop (64 * i)).take 64)) s
  let s := putStamp s c p (u % l) stamp
  let s := modCreel s c fun k => { k with stolenAt := k.stolenAt.filter fun x => x ≠ (p, u) }
  wakeQueue (setRing s c p (u + pkLen pkt) rd) c

/-- A packet of the pending store or of an image written into a ring, with its own stamp if it has one, and what is remembered
of its deadline (R99). -/
def ringPutBack (s : State) (c : CreelId) (p pads : Nat) (e : PendPkt) : State :=
  let u := (ringPtr s c p).1 + pads
  let s := ringPut s c p pads (e.stamp.getD s.cyc) e.bytes
  if e.late then modCreel s c fun k => { k with late := (p, u) :: k.late } else s

/-- R128. Does the writing of `len` units behind `pads` others meet a word under copy in the creel's scratchpad? -/
def ringMeets (s : State) (c : CreelId) (p pads len : Nat) : Bool :=
  let l := max 1 (ringLen s c)
  let wr := (ringPtr s c p).1
  ((List.range (pads + len)).any fun i => copying s (.scratch c) (unitAddr s c p ((wr + i) % l)) 64) ||
    copying s (.scratch c) (stampAddr s c p ((wr + pads) % l)) 8

/-- R128. Has a packet of `len` units to wait for a copy before it is written into a ring of a creel? -/
def ringWaits (s : State) (c : CreelId) (p len : Nat) : Bool :=
  match ringRoom s c p len with
  | some pads => ringMeets s c p pads len
  | none => false

/-- n units of a ring from running unit u. -/
def ringUnits (s : State) (c : CreelId) (p u n : Nat) : List Byte :=
  (List.range n).flatMap fun i => (creelOf s c).units.get (p, (u + i) % max 1 (ringLen s c)) (List.replicate 64 0)

/-- The stamp of the packet at running unit u. -/
def stampOf (s : State) (c : CreelId) (p u : Nat) : Nat :=
  (creelOf s c).stamps.get (p, u % max 1 (ringLen s c)) 0

/-- Units that a taken packet or pad unit covers. -/
def takenStep (pkt : List Byte) : Nat := if 1 ≤ pkLen pkt ∧ pkLen pkt ≤ 4 then pkLen pkt else 1

/-- R100. RD advances over leading taken units. -/
def advanceRd (s : State) (c : CreelId) (p : Nat) : Nat → State
  | 0 => s
  | fuel + 1 =>
    let (wr, rd) := ringPtr s c p
    if wr ≤ rd then s
    else
      let u := ringUnits s c p rd 1
      if pkKind u = 0 then advanceRd (setRing s c p wr (min wr (rd + takenStep u))) c p fuel else s

/-- R100. A packet is marked taken, what the queue keeps of it is dropped, and RD advances. -/
def takePacket (s : State) (c : CreelId) (p u : Nat) : State :=
  let s := markUnit s c p (u % max 1 (ringLen s c)) [0]
  let s := modCreel s c fun k => { k with
    gates := k.gates.filter fun g => !decide (g.ring = p ∧ g.unit = u)
    late := k.late.filter fun x => x ≠ (p, u)
    stolenAt := k.stolenAt.filter fun x => x ≠ (p, u) }
  advanceRd s c p (ringLen s c + 1)

/-- R95. A malformed packet dropped and counted: at RD the pointer passes it, elsewhere it is rewritten as taken units.
Answers the units it advances by. -/
def dropMalformed (s : State) (c : CreelId) (p u : Nat) (pkt : List Byte) : State × Nat :=
  let l := max 1 (ringLen s c)
  let len := pkLen pkt
  let toEnd := l - u % l
  let crosses := decide (1 ≤ len ∧ len ≤ 4 ∧ toEnd < len)
  let adv := if crosses then toEnd else if 1 ≤ len ∧ len ≤ 4 then len else 1
  let s := count s c.die 9
  let (wr, rd) := ringPtr s c p
  let s :=
    if u = rd then setRing s c p wr (min wr (u + adv))
    else if crosses then (List.range adv).foldl (fun s i => putUnit s c p ((u + i) % l) padUnit) s
    else markUnit s c p (u % l) [0, BitVec.ofNat 8 adv]
  (s, adv)

/-! ## The window (R99, R100) -/

/-- A packet in a window. -/
structure Waiting where
  ring : Nat
  unit : Nat
  stamp : Nat
  bytes : List Byte
  deriving DecidableEq, Repr

/-- The team a packet is for. -/
def Waiting.key (w : Waiting) (lslot : Nat) : TeamKey := ⟨lslot, pkLevel w.bytes, pkTeam w.bytes⟩

/-- R99. A packet past its deadline is counted once. -/
def noteLate (s : State) (c : CreelId) (w : Waiting) : State :=
  let d := pkDeadline w.bytes
  if d ≠ 0 ∧ w.stamp + d * 2 ^ 16 < s.cyc ∧ !(creelOf s c).late.contains (w.ring, w.unit) then
    modCreel (count s c.die 65) c fun k => { k with late := (w.ring, w.unit) :: k.late }
  else s

/-- R100. The packets of a ring from running unit u, at most n of them; malformed ones are dropped on the way. -/
def scanRing (s : State) (c : CreelId) (p : Nat) : Nat → Nat → Nat → State × List Waiting
  | 0, _, _ => (s, [])
  | fuel + 1, u, n =>
    let wr := (ringPtr s c p).1
    if wr ≤ u ∨ n = 0 then (s, [])
    else
      let head := ringUnits s c p u 1
      if pkKind head = 0 then scanRing s c p fuel (u + takenStep head) n
      else
        let l := max 1 (ringLen s c)
        if !packetOk head (lnLevels (creelRecord s c)) || decide (l < u % l + pkLen head) then
          let (s, adv) := dropMalformed s c p u head
          scanRing s c p fuel (u + adv) n
        else
          let w : Waiting := ⟨p, u, stampOf s c p u, ringUnits s c p u (pkLen head)⟩
          let (s', r) := scanRing (noteLate s c w) c p fuel (u + pkLen head) (n - 1)
          (s', w :: r)

/-- R100. The windows of the four rings. -/
def windows (s : State) (c : CreelId) : State × List Waiting :=
  [0, 1, 2, 3].foldl (fun (s, l) p =>
    let s := advanceRd s c p (ringLen s c + 1)
    let (s, r) := scanRing s c p (ringLen s c + 1) (ringPtr s c p).2 8
    (s, l ++ r)) (s, [])

/-- R99. The effective priority of a packet. -/
def effPrio (s : State) (c : CreelId) (w : Waiting) : Nat :=
  let d := pkDeadline w.bytes
  if d ≠ 0 ∧ w.stamp + d * 2 ^ 16 < s.cyc then 3
  else min 3 (lnPrio (creelRecord s c) + (s.cyc - w.stamp) / 2 ^ 16)

/-! ## Gates (R98) -/

/-- A thread as a team's queue stands for it in a gate test: a user thread of the launch's address space. -/
def gateThread (s : State) (k : TeamKey) : Thread :=
  let r := recordOf s k.lslot
  { Thread.blank with asid := lnAsid r, root := lnRoot r, key := some k }

/-- Where a gate word is: in the creel's own scratchpad, at another home, or out of the team's reach. -/
inductive GateAt where
  | own (pa : Nat)
  | far (pa : Nat) (h : Home) (leaf : Word)
  | nowhere
  deriving DecidableEq, Repr

/-- R98, R55. The gate word of a team's packet on a creel, and the state with its translation used. In the self window only the
scratchpad belongs to the creel. -/
def gateAt (s : State) (c : CreelId) (k : TeamKey) (va : Nat) : State × GateAt :=
  let t : ThreadId := ⟨⟨c.x, c.y, 3⟩, 16⟩
  let th := gateThread s k
  if 2 ^ 57 ≤ va then (s, .nowhere)
  else if selfBase ≤ va then
    (s, if va - selfBase < 0x80000 then
      (match selfPa s t.core (va - selfBase) 8 with | some pa => .own pa | none => .nowhere)
    else .nowhere)
  else match lookUp s c th.asid th.root.toNat va with
  | .error _ => (s, .nowhere)
  | .ok (s, e) => (s, match throughLeaf s t th va needLoad e.leaf (e.pa va) with
    | .remote pa h l => if h = .scratch c then .own pa else .far pa h l
    | _ => .nowhere)

/-- What is known of a gate of a packet. -/
def gateOf (s : State) (c : CreelId) (w : Waiting) (g : Nat) : GateTest :=
  ((creelOf s c).gates.find? fun x => decide (x.ring = w.ring ∧ x.unit = w.unit ∧ x.gate = g)).getD
    ⟨w.ring, w.unit, g, none, false⟩

/-- The same set. -/
def setGate (s : State) (c : CreelId) (x : GateTest) : State :=
  modCreel s c fun k => { k with
    gates := (k.gates.filter fun y => !decide (y.ring = x.ring ∧ y.unit = x.unit ∧ y.gate = x.gate)) ++ [x] }

/-- R98. The test of one gate: performed in this cycle in the own scratchpad, sent to its home otherwise unless one is
outstanding. None when the gate is out of the team's reach. -/
def testGate (s : State) (c : CreelId) (k : TeamKey) (w : Waiting) (g : Nat) : Option State :=
  let va := pkGate w.bytes g
  let x := gateOf s c w g
  if va = 0 ∨ x.sent then some s
  else match gateAt s c k va with
  | (_, .nowhere) => none
  | (s, .own pa) => some (setGate s c { x with full := some (isFull s pa) })
  | (s, .far pa h leaf) =>
    let q : MemReq := ⟨.gate c w.ring w.unit g, s.token, 8, 5, 8, pteVer leaf, pteMig leaf, true, false, false, false, 0,
      pa, va, [], 0, false⟩
    some ((setGate s.fresh c { x with sent := true }).onLane (requestLane s q false) (homeCycles ⟨c.x, c.y, 0⟩ h) 1 (.event (requestEvent q)))

/-- R98. The tests of a window's packets; a packet with a gate out of reach is dropped and counted. -/
def testGates (s : State) (c : CreelId) (lslot : Nat) : List Waiting → State × List Waiting
  | [] => (s, [])
  | w :: r =>
    match (testGate s c (w.key lslot) w 0).bind fun s => testGate s c (w.key lslot) w 1 with
    | some s =>
      let (s, l) := testGates s c lslot r
      (s, w :: l)
    | none => testGates (takePacket (count s c.die 9) c w.ring w.unit) c lslot r

/-- R57, R98. A gate test answered RETRANSLATE: its translation is dropped and walked again, and the test is made anew; a gate
that the new leaf puts out of reach is left to the next examination. -/
def gateAgain (s : State) (q : MemReq) : State :=
  match q.who with
  | .gate c ring unit gate =>
    let w : Waiting := ⟨ring, unit, 0, ringUnits s c ring unit 1⟩
    let k := w.key ((residentLaunch s c).getD 0)
    let s := modCreel s c fun x => { x with
      tlb := dropPage x.tlb (gateThread s k).asid q.va
      gates := x.gates.map fun y => if y.ring = ring ∧ y.unit = unit ∧ y.gate = gate then { y with sent := false } else y }
    if (creelOf s c).gates.any fun y => decide (y.ring = ring ∧ y.unit = unit ∧ y.gate = gate) then (testGate s c k w gate).getD s
    else s
  | _ => s

/-- R98. Does every gate of a packet show FULL by the latest reply? -/
def gatesFull (s : State) (c : CreelId) (w : Waiting) : Bool :=
  [0, 1].all fun g => decide (pkGate w.bytes g = 0) || decide ((gateOf s c w g).full = some true)

/-- R98. The reply of a gate test. -/
def execGateTestReply (c : CreelId) (ring unit gate : Nat) (full : Bool) (s : State) : Out :=
  .next (match (creelOf s c).gates.find? fun x => decide (x.ring = ring ∧ x.unit = unit ∧ x.gate = gate) with
    | some x => setGate s c { x with full := some full, sent := false }
    | none => s)

/-! ## The choice of a slot (R87, R101) -/

/-- R87. The slots of a creel that a team's tasks may use, in the order of R101. -/
def domainSlots (s : State) (c : CreelId) (k : TeamKey) : List ThreadId :=
  let d := lvDomain (recordOf s k.lslot) k.level
  let n := min 15 (teamFoot s k).slots
  let cores := if d ≤ 1 then [3] else [3, 4, 5, 6]
  cores.flatMap fun node => (List.range (if d = 0 then 1 else n)).map fun i => ⟨⟨c.x, c.y, node⟩, i⟩

/-- A register range free beside one already chosen. -/
def freeBeside (s : State) (c : CoreId) (n : Nat) (b : Nat) : Option Nat :=
  ((List.range 256).map (8 * ·)).find? fun a =>
    decide (a + n ≤ (capOf s c).regN ∧ liveRegs s c + 2 * n ≤ (capOf s c).regN ∧ (a + n ≤ b ∨ b + n ≤ a)) && (List.range (n / 8)).all fun i => entryFree s c (a + 8 * i)

/-- R101. The slot and registers for a packet: one, or two on one core for a PAIRED one. -/
def placesFor (s : State) (c : CreelId) (k : TeamKey) (pkt : List Byte) : Option (List (ThreadId × Nat)) :=
  let idle := (domainSlots s c k).filter (slotFree s)
  let n := pkRegs pkt
  if pkPaired (recordOf s k.lslot) pkt then
    let onCore (node : Nat) : Option (List (ThreadId × Nat)) :=
      match idle.filter fun t => decide (t.core.node = node) with
      | t :: u :: _ =>
        (freeRange s t.core n).bind fun b => (freeBeside s t.core n b).map fun a => [(t, b), (u, a)]
      | _ => none
    [3, 4, 5, 6].findSome? onCore
  else idle.findSome? fun t => (freeRange s t.core n).map fun b => [(t, b)]

/-- Is any compute slot of a creel idle (R98)? -/
def anyIdle (s : State) (c : CreelId) : Bool :=
  [3, 4, 5, 6].any fun n => (List.range 15).any fun i => slotFree s ⟨⟨c.x, c.y, n⟩, i⟩

/-- May packets of a team be dispatched on a creel: it is in RUN and powered, the team is placed and has not sent its done
message, no update, mooring or halt stops the queue (R14, R16, R19, R109, R113, R419)? -/
def mayDispatch (s : State) (c : CreelId) (k : TeamKey) : Bool :=
  decide (s.power.state = .run ∧ s.power.trans = .none) && maskBit s c && decide (s.fwu.phase < 2) &&
    !isHalted s c && !(doneOf s c k).sent && (match s.teams.find k with
    | some t => decide (t.phase = .placed)
    | none => false)

/-- Is packet a chosen before packet b (R100)? -/
def comesFirst (s : State) (c : CreelId) (a b : Waiting) : Bool :=
  let pa := effPrio s c a
  let pb := effPrio s c b
  decide (pb < pa ∨ (pa = pb ∧ (a.stamp < b.stamp ∨ (a.stamp = b.stamp ∧ a.ring ≤ b.ring))))

/-- Packets in the order of R100. -/
def insertWaiting (s : State) (c : CreelId) (w : Waiting) : List Waiting → List Waiting
  | [] => [w]
  | x :: r => if comesFirst s c x w then x :: insertWaiting s c w r else w :: x :: r

/-- R100. The eligible packets of a window, first choice first. -/
def eligible (s : State) (c : CreelId) (ws : List Waiting) : List Waiting :=
  (ws.filter (gatesFull s c)).foldl (fun l w => insertWaiting s c w l) []

/-! ## Dispatch (R101, R102) -/

/-- R102. The state of a dispatched thread. -/
def taskThread (s : State) (k : TeamKey) (pkt : List Byte) (stamp base : Nat) (stolen late : Bool) : Thread :=
  let r := recordOf s k.lslot
  { Thread.blank with
    pc := BitVec.ofNat 57 (pkEntry pkt)
    fmt := BitVec.ofNat 64 (pkFmt pkt), scl := BitVec.ofNat 64 (pkScl pkt)
    task := BitVec.ofNat 8 (pkLevel pkt) ++ BitVec.ofNat 16 (pkTeam pkt) ++ 0#8 ++ BitVec.ofNat 32 (pkSeq pkt)
    team := BitVec.ofNat 16 k.num, level := BitVec.ofNat 8 k.level
    base := base, nregs := pkRegs pkt, pflags := pkFlags pkt
    asid := lnAsid r, root := lnRoot r, seed := lnSeed r, key := some k
    dstamp := s.cyc, estamp := stamp, stolen := stolen, late := late, packet := pkt }

/-- R102. The registers that a packet gives. -/
def taskRegs (pkt : List Byte) : List (Nat × Word) :=
  (1, BitVec.ofNat 64 (pkArg pkt)) :: (List.range (8 * (pkLen pkt - 1))).map fun i =>
    (8 + i, BitVec.ofNat 64 (fieldAt pkt (64 + 8 * i) 8))

/-- WHERE of R107 for a task in a slot. -/
def whereOf (t : ThreadId) (stolen : Bool) (word : Nat) : Nat :=
  (if stolen then 128 else 0) + (if word / 65536 ≠ 0 then 64 else 0) + 16 * (t.core.node - 3) + t.slot

/-- R101, R102. A packet is dispatched: it is marked taken, and its thread, or its pair (R136), is started. -/
def dispatch (s : State) (c : CreelId) (k : TeamKey) (w : Waiting) (at_ : List (ThreadId × Nat)) : State :=
  let stolen := (creelOf s c).stolenAt.contains (w.ring, w.unit)
  let late := (creelOf s c).late.contains (w.ring, w.unit)
  let s := takePacket s c w.ring w.unit
  match at_ with
  | [(t, b)] =>
    traceTask (startThread s t (taskThread s k w.bytes w.stamp b stolen late) (taskRegs w.bytes)) t 4 (whereOf t stolen 0) 0
  | (t, b) :: (u, a) :: _ =>
    let lead := { taskThread s k w.bytes w.stamp b stolen late with partner := some u }
    let trail := { taskThread s k w.bytes w.stamp a stolen late with partner := some t, status := setBit 0 18 true }
    let s := startThread (startThread s t lead (taskRegs w.bytes)) u trail (taskRegs w.bytes)
    traceTask (traceTask s t 4 (whereOf t stolen 0) 0) u 4 (whereOf u stolen 0) 0
  | [] => s

/-- R100, R101. The first eligible packet that fits a slot, with its places. -/
def firstFit (s : State) (c : CreelId) (lslot : Nat) (ws : List Waiting) : Option (Waiting × List (ThreadId × Nat)) :=
  (eligible s c ws).findSome? fun w =>
    if mayDispatch s c (w.key lslot) then (placesFor s c (w.key lslot) w.bytes).map fun p => (w, p) else none

end Sys2Proof.Machine
end

