-- ==== Sys2Proof/Machine/Place.lean ====
section
/-! DEFINITION. Launches and teams in the firmware's hands: initial packets and the pending store (R93), fitting (R75),
usable tiles and the placement of a team (R90 to R92). -/

namespace Sys2Proof.Machine

/-! ## Teams (R90, R93) -/

/-- A team that waits for its first placement. -/
def TeamSt.initial : TeamSt := ⟨0, 0, 0, 0, .waiting, 0, 0, 0, 0, 0, 0, [], 0, 0, 0, false, false, [], [], 0⟩

/-- A team changed; no entry is made for one that does not exist. -/
def modTeam (s : State) (k : TeamKey) (f : TeamSt → TeamSt) : State :=
  match s.teams.find k with
  | some t => { s with teams := s.teams.put k (f t) }
  | none => s

/-- R90. Does a team number name a tile, through every level above it? -/
def hasTile (r : List Byte) : Nat → TeamKey → Bool
  | 0, _ => false
  | fuel + 1, k =>
    decide (k.level < lnLevels r) && (match parentKey r k with
      | none => decide (k.num < lvTiles r 0)
      | some p => decide (0 < lvTiles r k.level) && hasTile r fuel p)

/-- R93. A team exists once a packet is addressed to it, and with it every ancestor; its parent counts the instance. -/
def ensureTeam (s : State) : Nat → TeamKey → State
  | 0, _ => s
  | fuel + 1, k =>
    match s.teams.find k with
    | some _ => s
    | none =>
      let s := match parentKey (recordOf s k.lslot) k with
        | some p => modTeam (ensureTeam s fuel p) p fun t => { t with kidsOpen := t.kidsOpen + 1 }
        | none => s
      { s with teams := s.teams.put k TeamSt.initial }

/-- Units that a launch's packets take in its pending store (R93). -/
def pendUnits (s : State) (lslot : Nat) : Nat :=
  ((s.pending.filter fun p => decide (p.key.lslot = lslot)).map fun p => pkLen p.bytes).sum

/-- Units of a pending store. -/
def pendLimit : Nat := 16384

/-! ## Initial packets (R73, R74, R93) -/

/-- The physical address of a virtual one in a launch's address space. -/
def virtPa (s : State) (root va : Nat) : Option Nat :=
  match walkNow s va 6 0 root with
  | .ok (leaf, _, size) => some (pteFrame leaf + va % pageBytes size)
  | .error _ => none

/-- n bytes at a virtual address, n at most 64 KiB; none where a page is not mapped. -/
def readVirt (s : State) (root va n : Nat) : Option (List Byte) :=
  let m := min n (65536 - va % 65536)
  (virtPa s root va).bind fun p =>
    if m = n then some (readBytes s p n)
    else (virtPa s root (va + m)).map fun q => readBytes s p m ++ readBytes s q (n - m)

/-- R93, R95. At most n initial packets from a virtual address, and how many malformed ones were dropped; a packet that
cannot be read ends the list. -/
def readPackets (s : State) (r : List Byte) : Nat → Nat → List (List Byte) × Nat
  | 0, _ => ([], 0)
  | n + 1, va =>
    let root := (lnRoot r).toNat
    match readVirt s root va 64 with
    | none => ([], 1)
    | some u =>
      let len := pkLen u
      if !packetOk u (lnLevels r) then
        let (l, m) := readPackets s r n (va + 64 * (if 1 ≤ len ∧ len ≤ 4 then len else 1))
        (l, m + 1)
      else match readVirt s root va (64 * len) with
        | none => ([], 1)
        | some p =>
          let (l, m) := readPackets s r n (va + 64 * len)
          (p :: l, m)

/-- n items dropped and counted. -/
def countN (s : State) (die n : Nat) : Nat → State
  | 0 => s
  | k + 1 => countN (count s die n) die n k

/-- A packet as the pending store holds it. -/
def pendOf (lslot : Nat) (p : List Byte) : PendPkt := ⟨⟨lslot, pkLevel p, pkTeam p⟩, p, none, true, false⟩

/-- R93. The initial packets of every level, level 0 first, each in list order, for a launch slot; those whose team has no
tile are malformed too (DEDUCED, log 45). -/
def initialPackets (s : State) (r : List Byte) (lslot : Nat) : List PendPkt × Nat :=
  (List.range (lnLevels r)).foldl (fun (l, m) i =>
    let (ps, n) := readPackets s r (lvNpkt r i) (lvPackets r i 0)
    let all := ps.map (pendOf lslot)
    let good := all.filter fun p => hasTile r 9 p.key
    (l ++ good, m + n + (all.length - good.length))) ([], 0)

/-! ## Fitting (R75, R91, R96) -/

/-- R75, R96. Does a footprint fit a creel? -/
def fitsCreel (s : State) (f : Foot) (c : CreelId) : Bool :=
  decide (max f.sp 4608 ≤ (creelOf s c).spBytes) && [3, 4, 5, 6].all fun n =>
    let k := capOf s ⟨c.x, c.y, n⟩
    decide (f.ls ≤ k.lsBytes ∧ f.reg ≤ k.regN ∧ f.ic ≤ k.icBytes)

/-- R75, R91. Does a footprint fit a rectangle: every creel that is there; for `DOMAIN` 0 to 3 every creel is there. -/
def fitsRect (s : State) (f : Foot) (dom x y w h : Nat) : Bool :=
  let there := creelsIn s x y w h
  (if dom ≤ 3 then decide (there.length = w * h) else !there.isEmpty) && there.all (fitsCreel s f)

/-- The corner of a team's parent: the mesh's, or the parent's tile. -/
def parentCorner (s : State) (k : TeamKey) : Option (Nat × Nat) :=
  match parentKey (recordOf s k.lslot) k with
  | none => some (0, 0)
  | some p =>
    match s.teams.find p with
    | some t => if t.phase = .placed then some (t.x, t.y) else none
    | none => none

/-- Does footprint i of a level fit some tile of a rectangle at a corner (R92)? -/
def fitsSome (s : State) (r : List Byte) (lv px py i : Nat) : Bool :=
  (List.range (lvTiles r lv)).any fun j =>
    let (x, y) := tilePos r lv j
    fitsRect s (lvFoot r lv i) (lvDomain r lv) (px + x) (py + y) (lvRect r lv).1 (lvRect r lv).2

/-- R92. The footprint chosen: the level's own, or the first variant, that fits some rectangle of the parent. -/
def chooseFoot (s : State) (r : List Byte) (lv px py : Nat) : Option Nat :=
  (List.range (1 + min 3 (lvVariants r lv))).find? (fitsSome s r lv px py)

/-- R91. Is a rectangle usable for a team with footprint i? -/
def usableRect (s : State) (k : TeamKey) (i x y : Nat) : Bool :=
  let r := recordOf s k.lslot
  let (w, h) := lvRect r k.level
  let dom := lvDomain r k.level
  let there := creelsIn s x y w h
  fitsRect s (lvFoot r k.level i) dom x y w h &&
    (if dom ≤ 3 then there.all (maskBit s) else there.any (maskBit s)) &&
    s.teams.all fun (q, t) => !resident t || decide (q.lslot = k.lslot ∧ q.level ≠ k.level) || decide (q = k) ||
      decide (x + w ≤ t.x ∨ t.x + t.w ≤ x ∨ y + h ≤ t.y ∨ t.y + t.h ≤ y)

/-- R92. The tile for a team: its own if usable, otherwise the first usable one. -/
def chooseTile (s : State) (k : TeamKey) (i px py : Nat) : Option (Nat × Nat) :=
  let r := recordOf s k.lslot
  let n := lvTiles r k.level
  let at_ (j : Nat) : Nat × Nat := (px + (tilePos r k.level j).1, py + (tilePos r k.level j).2)
  ((k.num % max 1 n :: List.range n).find? fun j => decide (j < n) && usableRect s k i (at_ j).1 (at_ j).2).map at_

/-! ## Placement (R92, R93) -/

/-- The creel of a team that its packets go to: the first usable one, row-major (R93; DEDUCED, log 45). -/
def teamHead (s : State) (t : TeamSt) : Option CreelId := (creelsIn s t.x t.y t.w t.h).find? (maskBit s)

/-- Pending packets of a team enqueued in order while its ring has room. -/
def feedLoop (s : State) (c : CreelId) (p : Nat) : List PendPkt → State
  | [] => s
  | e :: r =>
    match ringRoom s c p (pkLen e.bytes) with
    | none => s
    | some pads =>
      feedLoop (ringPutBack { s with pending := s.pending.erase e } c p pads e) c p r

/-- R93. The pending packets of a placed team enter its queue. -/
def feedTeam (s : State) (k : TeamKey) : State :=
  match s.teams.find k with
  | some t =>
    if t.phase = .placed then
      match teamHead s t with
      | some c => feedLoop s c (lnPrio (recordOf s k.lslot)) (s.pending.filter fun e => decide (e.key = k))
      | none => s
    else s
  | none => s

/-- R96. The task queue of a creel that a launch comes to. -/
def freshQueue (s : State) (c : CreelId) : State :=
  if (teamsAt s c).isEmpty then modCreel s c fun k => { k with
    rings := [], units := [], stamps := [], gates := [], late := [], lateGiven := [], stolenAt := [], done := [], given := [], thief := none }
  else s

/-- Teams of a list by kind: first those to be relaunched, then those placed for the first time (R118); by level, then by
number. -/
def placeOrder (ts : List (TeamKey × TeamSt)) : List (TeamKey × TeamSt) :=
  let again := ts.filter fun (_, t) => decide (t.phase = .saved ∨ t.phase = .gone)
  let first := ts.filter fun (_, t) => decide (t.phase = .waiting)
  let sorted (l : List (TeamKey × TeamSt)) : List (TeamKey × TeamSt) :=
    l.foldl (fun acc e =>
      acc.takeWhile (fun x => decide (x.1.level < e.1.level ∨ (x.1.level = e.1.level ∧ x.1.num ≤ e.1.num))) ++ [e] ++
        acc.dropWhile (fun x => decide (x.1.level < e.1.level ∨ (x.1.level = e.1.level ∧ x.1.num ≤ e.1.num)))) []
  sorted again ++ sorted first

/-- R92, R118. Waiting teams are tried again. -/
def retryTeams (s : State) (p : TeamKey → Bool) : State :=
  (placeOrder (s.teams.filter fun (k, _) => p k)).foldl (fun s (k, t) =>
    now s (if t.phase = .waiting then .teamPlacement k else .teamRelaunch k)) s

/-- Every waiting team is tried again: a tile has become free, or the capacity or mask has changed. -/
def retryPlacements (s : State) : State := retryTeams s fun _ => true

/-- The children of a team that wait are tried. -/
def retryKids (s : State) (k : TeamKey) : State :=
  retryTeams s fun q => decide (q.lslot = k.lslot ∧ parentKey (recordOf s k.lslot) q = some k)

/-- R92. The initial packets of a team with a variant: from the variant's list. Its malformed packets are counted when a launch
first reads it. -/
def variantPackets (s : State) (k : TeamKey) (i : Nat) : State :=
  let r := recordOf s k.lslot
  let (ps, m) := readPackets s r (lvNpkt r k.level) (lvPackets r k.level i)
  let mine := (ps.map (pendOf k.lslot)).filter fun p => decide (p.key = k)
  let others := s.pending.filter fun p => !decide (p.key = k ∧ p.initial = true)
  let seen := match s.launches.find k.lslot with
    | some l => l.lists.contains (k.level, i)
    | none => true
  let s := { s with
    pending := mine ++ others
    launches := match s.launches.find k.lslot with
      | some l => if seen then s.launches else s.launches.put k.lslot { l with lists := (k.level, i) :: l.lists }
      | none => s.launches }
  if seen || decide (i = 0) then s else countN s 0 9 m

/-- A team takes its rectangle with footprint i. -/
def takeRect (s : State) (k : TeamKey) (i x y : Nat) : State :=
  let (w, h) := lvRect (recordOf s k.lslot) k.level
  let s := (creelsIn s x y w h).foldl freshQueue s
  let s := modTeam s k fun t => { t with
    x := x, y := y, w := w, h := h, phase := .placed, foot := i, capSeen := s.capDver, word := 0, marked := [], senders := [] }
  (creelsIn s x y w h).foldl (fun s c => modCreel s c fun q => { q with done := q.done.filter fun d => d.key ≠ k }) s

/-- The queues of a team's creels are examined; those that are not there take their place in the done tree (R109). -/
def wakeTeam (s : State) (k : TeamKey) : State :=
  match s.teams.find k with
  | some t => ((List.range t.h).flatMap fun j => (List.range t.w).map fun i => (⟨t.x + i, t.y + j⟩ : CreelId)).foldl
      wakeQueue s
  | none => s

/-- R92, R93. An instance of a team is placed: its packets are enqueued, its children tried. Only the instance that the
acceptance addressed has initial packets, which a variant replaces. -/
def placeTeam (s : State) (k : TeamKey) (i x y : Nat) : State :=
  let s := if i ≠ 0 ∧ (s.pending.any fun p => decide (p.key = k ∧ p.initial = true)) then variantPackets s k i else s
  let s := modTeam (takeRect s k i x y) k fun t => { t with
    placedAt := s.cyc, progress := 0, runSum := 0, runN := 0, kids := [] }
  retryKids (wakeTeam (feedTeam s k) k) k

/-- Is what the firmware does for teams and packets held by an update (R421)? -/
def updateHolds (s : State) : Bool := decide (2 ≤ s.fwu.phase)

/-- A happening held until an update is over. -/
def holdEvent (s : State) (e : Event) : State := { s with heldByUpdate := s.heldByUpdate ++ [e] }

/-- R92. The placement of a waiting team: the footprint, its tile, or a further wait. -/
def execTeamPlacement (k : TeamKey) (s : State) : Out :=
  .next (if updateHolds s then holdEvent s (.teamPlacement k)
    else if mooringHolds s then s
    else match s.teams.find k, parentCorner s k with
    | some t, some (px, py) =>
      if t.phase = .waiting then
        match (chooseFoot s (recordOf s k.lslot) k.level px py).bind fun i =>
          (chooseTile s k i px py).map fun p => (i, p) with
        | some (i, x, y) => placeTeam s k i x y
        | none => s
      else s
    | _, _ => s)

end Sys2Proof.Machine
end

