-- ==== Sys2Proof/Machine/Done.lean ====
section
/-! DEFINITION. Completion: the done tree of a team, its report, and the launch-done notice (R108 to R110). The examination
of a task queue (R98, R100) and work stealing (R104 to R106). -/

namespace Sys2Proof.Machine

/-! ## The tree (R109) -/

/-- The parent of a creel in its team's tree; none at the root. -/
def treeParent (t : TeamSt) (c : CreelId) : Option CreelId :=
  if t.x < c.x then some ⟨c.x - 1, c.y⟩ else if t.y < c.y then some ⟨c.x, c.y - 1⟩ else none

/-- How many tree children a creel has. -/
def treeKids (t : TeamSt) (c : CreelId) : Nat :=
  (if c.x + 1 < t.x + t.w then 1 else 0) + (if c.x = t.x ∧ c.y + 1 < t.y + t.h then 1 else 0)

/-- Does a ring of a creel hold a packet of a team, from running unit u on? -/
def ringHolds (s : State) (c : CreelId) (k : TeamKey) (p : Nat) : Nat → Nat → Bool
  | 0, _ => false
  | fuel + 1, u =>
    if (ringPtr s c p).1 ≤ u then false
    else
      let head := ringUnits s c p u 1
      decide (pkKind head = 1 ∧ pkLevel head = k.level ∧ pkTeam head = k.num) ||
        ringHolds s c k p fuel (u + takenStep head)

/-- R97, R106. Has every ring of a creel room for a packet of four units? -/
def stealRoom (s : State) (c : CreelId) : Bool := [0, 1, 2, 3].all fun p => (ringRoom s c p 4).isSome

/-- R109, R111. Is a steal of a team's packets to a creel outstanding: an attempt of its pass is on its way or next, and the pass has
still to try the team, so that a creel without work steals before it is done (DEDUCED, log 46)? -/
def stealAhead (s : State) (c : CreelId) (k : TeamKey) : Bool :=
  match (creelOf s c).thief with
  | none => false
  | some f => !f.sleeping && (f.busy || stealRoom s c) && (((teamsAt s c).map (·.1)).dropWhile (· ≠ f.key)).contains k

/-- R109. May a creel send its done message for a team: no packet, no task, no steal outstanding, every tree child done;
at the creel that packets go to, none pending (R93)? -/
def doneReady (s : State) (c : CreelId) (k : TeamKey) : Bool :=
  match s.teams.find k with
  | none => false
  | some t =>
    let going := decide (t.phase = .placed ∨ t.phase = .leaving 0)
    let d := doneOf s c k
    let held := [0, 1, 2, 3].any fun p => ringHolds s c k p (ringLen s c + 1) (ringPtr s c p).2
    let tasks := s.threads.any fun (i, th) => decide (i.core.creel = c ∧ th.key = some k) && !th.bound
    let steal := (creelOf s c).given.contains k || stealAhead s c k
    let pend := decide (teamHead s t = some c) && s.pending.any fun p => decide (p.key = k)
    going && inRect t c && !d.sent && decide (treeKids t c ≤ d.children) && !held && !tasks && !steal && !pend

/-- The done message of a creel for a team is sent at the end of this cycle, if it may be. -/
def doneCheck (s : State) (c : CreelId) (k : TeamKey) : State := if doneReady s c k then now s (.doneSend c k) else s

/-- R109, R111. As doneCheck, for a creel that may have a pass of steal attempts to begin first: its examination sends the
message. -/
def doneSoon (s : State) (c : CreelId) (k : TeamKey) : State :=
  if (creelOf s c).thief.isNone && creelThere s c && anyIdle s c then wakeQueue s c else doneCheck s c k

/-! ## Reports (R110) -/

/-- The words of a team's children combined in increasing number (R110). -/
def kidsWord (l : List (Nat × BitVec 32)) (w : BitVec 32) : BitVec 32 :=
  let sorted := l.foldl (fun acc e =>
    acc.takeWhile (fun x => decide (x.1 ≤ e.1)) ++ [e] ++ acc.dropWhile (fun x => decide (x.1 ≤ e.1))) []
  sorted.foldl (fun w e => joinWords w e.2) w

/-- R103, R158. The threads of a team stop and leave their slots; their endpoints close with cause 1. -/
def stopThreads (s : State) (p : ThreadId → Thread → Bool) : State :=
  (s.threads.filter fun (t, th) => p t th).foldl (fun s (t, _) => vacate (cancelWait s t) t) s

/-- A team no longer stands on its rectangle: what its creels keep of it is dropped, and flights that nothing keeps
(R335). -/
def clearTeam (s : State) (k : TeamKey) : State :=
  match s.teams.find k with
  | none => s
  | some t =>
    let cs := creelsIn s t.x t.y t.w t.h
    let s := cs.foldl (fun s c => modCreel s c fun q => { q with
      done := q.done.filter fun d => d.key ≠ k
      thief := match q.thief with
        | some f => if f.key = k then none else some f
        | none => none }) s
    cs.foldl (fun s c => maskGate (sweepFlights (sluiceWake s c) c) c) { s with teams := s.teams.del k }

/-- R71, R110. Every level-0 team of a launch is done: LATE is set if its deadline has passed, and notice 0x03 carries the
launch number, TAG and the word. -/
def launchDone (s : State) (lslot : Nat) : State :=
  match s.launches.find lslot with
  | none => s
  | some l =>
    let d := lnDeadline l.record
    let w := if d ≠ 0 ∧ l.accepted + d < s.cyc then l.word ||| 0x20000000#32 else l.word
    let s := { s with launches := s.launches.del lslot, pending := s.pending.filter fun p => p.key.lslot ≠ lslot }
    notify s 3 (leBytes 4 l.num ++ lnTag l.record ++ leBytes 4 w.toNat)

/-- R110. A team reports a word: to its parent, which counts it among its children, or to the launch. Packets that came for
it after its done message start a new instance (R93). -/
def reportTeam (s : State) : Nat → TeamKey → BitVec 32 → State
  | 0, _, _ => s
  | fuel + 1, k, w =>
    let parent := parentKey (recordOf s k.lslot) k
    let s := stopThreads s fun _ th => decide (th.key = some k)
    let s := clearTeam s k
    match parent with
    | none =>
      let s := { s with launches := match s.launches.find k.lslot with
        | some l => s.launches.put k.lslot { l with word := joinWords l.word w, zeros := l.zeros + 1 }
        | none => s.launches }
      let s := if s.teams.any fun (q, _) => decide (q.lslot = k.lslot ∧ q.level = 0) then s else launchDone s k.lslot
      retryPlacements s
    | some p =>
      let s := modTeam s p fun t => { t with kids := t.kids ++ [(k.num, w)], kidsOpen := t.kidsOpen - 1 }
      let s := retryPlacements (if s.pending.any fun e => decide (e.key = k) then ensureTeam s 9 k else s)
      match s.teams.find p with
      | some t =>
        let d := doneOf s ⟨t.x, t.y⟩ p
        if d.sent ∧ t.kidsOpen = 0 ∧ resident t then reportTeam s fuel p (kidsWord t.kids d.word) else s
      | none => s

/-- R110. A team whose root has combined its tree and whose child instances are all done reports its word. -/
def tryReport (s : State) (k : TeamKey) : State :=
  match s.teams.find k with
  | some t =>
    let d := doneOf s ⟨t.x, t.y⟩ k
    if d.sent ∧ t.kidsOpen = 0 then reportTeam s 9 k (kidsWord t.kids d.word) else s
  | none => s

/-- R109. A creel sends its done message for a team to its tree parent; the root has combined its tree. -/
def execDoneSend (c : CreelId) (k : TeamKey) (s : State) : Out :=
  .next (if !doneReady s c k then s
    else match s.teams.find k with
    | none => s
    | some t =>
      let s := modDone s c k fun d => { d with sent := true }
      match treeParent t c with
      | some p => s.after (meshCycles c.x c.y p.x p.y) (.event (.doneReceive p k (doneOf s c k).word))
      | none => tryReport s k)

/-- R109, R110. A done message is combined at the parent creel. -/
def execDoneReceive (c : CreelId) (k : TeamKey) (word : BitVec 32) (s : State) : Out :=
  .next (if (s.teams.find k).isNone then s
    else
      let s := modDone s c k fun d => { d with word := joinWords d.word word, children := d.children + 1 }
      doneSoon s c k)

/-! ## Stealing (R104 to R106) -/

/-- R105. The offsets at distance d, counterclockwise from (d, 0). -/
def ringOffsets (d : Nat) : List (Int × Int) :=
  let n := List.range d
  n.map (fun (i : Nat) => ((d : Int) - i, (i : Int))) ++ n.map (fun (i : Nat) => (-(i : Int), (d : Int) - i)) ++
    n.map (fun (i : Nat) => ((i : Int) - d, -(i : Int))) ++ n.map (fun (i : Nat) => ((i : Int), (i : Int) - d))

/-- R105. The victims of a thief for a team, in order: the other usable creels of the team's rectangle. -/
def victims (s : State) (c : CreelId) (k : TeamKey) : List CreelId :=
  match s.teams.find k with
  | none => []
  | some t => (List.range (t.w + t.h)).flatMap fun d => (ringOffsets d).filterMap fun (dx, dy) =>
      let x := (c.x : Int) + dx
      let y := (c.y : Int) + dy
      let v : CreelId := ⟨x.toNat, y.toNat⟩
      if 0 ≤ x ∧ 0 ≤ y && inRect t v && creelThere s v then some v else none

/-- R104. Is a creel a thief for a team: an idle slot the team may use, no packet of the team that is eligible and fits,
its done message not sent? -/
def wantsSteal (s : State) (c : CreelId) (ws : List Waiting) (k : TeamKey) : Bool :=
  mayDispatch s c k && (domainSlots s c k).any (slotFree s) &&
    (eligible s c ws).all fun w => decide (w.key k.lslot ≠ k) || (placesFor s c k w.bytes).isNone

/-- The next attempt of a pass: the first victim left of the first team that has one. -/
def nextVictim (s : State) (c : CreelId) : List TeamKey → Nat → Option (TeamKey × Nat × CreelId)
  | [], _ => none
  | k :: r, n =>
    match (victims s c k)[n]? with
    | some v => some (k, n, v)
    | none => nextVictim s c r 0

/-- R104, R105. A creel without work it could dispatch makes its next attempt; after a full pass it waits 256 cycles. -/
def seek (s : State) (c : CreelId) (ws : List Waiting) : State :=
  let teams := ((teamsAt s c).map (·.1)).filter (wantsSteal s c ws)
  let set (t : Option Thief) : State := modCreel s c fun q => { q with thief := t }
  let go (l : List TeamKey) (n : Nat) : State :=
    match nextVictim s c l n with
    | some (k, n, v) =>
      if stealRoom s c then
        (set (some ⟨k, n, true, false⟩)).after (meshCycles c.x c.y v.x v.y) (.event (.stealRequest v c k))
      else set (some ⟨k, n, false, false⟩)
    | none =>
      (match l.head? with
      | some k =>
        let s := cancel (set (some ⟨k, 0, false, true⟩)) fun e => match e with
          | .stealBackoffExpiry x => decide (x = c)
          | _ => false
        s.after 256 (.event (.stealBackoffExpiry c))
      | none => set none)
  match (creelOf s c).thief with
  | some f =>
    if f.busy then s
    else if teams.isEmpty then set none
    else if f.sleeping then s
    else if teams.contains f.key then go (teams.dropWhile (· ≠ f.key)) f.next
    else go teams 0
  | none => if teams.isEmpty then s else go teams 0

/-- R106. The attempt reaches the victim's queue: it gives the packet of the team that it would choose, unless an idle slot
of its own fits it, or none. A creel that the mask gates has no slot to use (R15). -/
def execStealRequest (victim thief : CreelId) (k : TeamKey) (s : State) : Out :=
  let back (s : State) (ring stamp : Nat) (pkt : List Byte) : State :=
    s.after (meshCycles victim.x victim.y thief.x thief.y) (.event (.stealReply thief victim k ring stamp pkt))
  .next (match residentLaunch s victim with
    | none => back s 0 0 []
    | some lslot =>
      let (s, ws) := windows s victim
      let (s, ws) := testGates s victim lslot ws
      let mine := (eligible s victim ws).filter fun w =>
        decide (lslot = k.lslot ∧ w.key lslot = k) && !pkStatic (recordOf s lslot) w.bytes
      match mine.head?, s.teams.find k with
      | some w, some t =>
        if t.phase ≠ .placed ∨ isHalted s victim = true ∨ (doneOf s victim k).sent then back s 0 0 []
        else if maskBit s victim && (placesFor s victim k w.bytes).isSome then back s 0 0 []
        else
          let late := (creelOf s victim).late.contains (w.ring, w.unit)
          let s := takePacket s victim w.ring w.unit
          back (modCreel s victim fun q => { q with
            given := k :: q.given, lateGiven := if late then thief :: q.lateGiven else q.lateGiven }) w.ring w.stamp w.bytes
      | _, _ => back s 0 0 [])

/-- R106. The reply of an attempt: the packet is written into the thief's ring with its stamp, or the failure counted and
the next victim comes up. A packet of a team that has left the thief's creel meanwhile goes to the pending store; one that
finds no room waits (DEDUCED, log 46). -/
def execStealReply (thief victim : CreelId) (k : TeamKey) (ring stamp : Nat) (pkt : List Byte) (s : State) : Out :=
  let mine := match (creelOf s thief).thief with
    | some f => f.busy && decide (f.key = k)
    | none => false
  let late := (creelOf s victim).lateGiven.contains thief
  let settle (s : State) (t : Option Thief) : State :=
    if mine then modCreel s thief fun q => { q with thief := t } else s
  let given (s : State) : State :=
    doneSoon (modCreel s victim fun q => { q with given := q.given.erase k, lateGiven := q.lateGiven.erase thief }) victim k
  .next (if pkt = [] then
      let s := dbgAdd (count s thief.die 10) thief 0xA8 1
      let next := match (creelOf s thief).thief with
        | some f => some { f with busy := false, next := f.next + 1 }
        | none => none
      wakeQueue (settle s next) thief
    else if (teamsAt s thief).all fun (q, _) => decide (q ≠ k) then
      let s := if (s.teams.find k).isSome then { s with pending := s.pending ++ [⟨k, pkt, some stamp, false, late⟩] } else s
      given s
    else match ringRoom s thief ring (pkLen pkt) with
    | none => s.after 16 (.event (.stealReply thief victim k ring stamp pkt))
    | some pads =>
      if ringMeets s thief ring pads (pkLen pkt) then
        (count s thief.die 70).at (copyEnd s thief + 1) (.event (.stealReply thief victim k ring stamp pkt))
      else
      let u := (ringPtr s thief ring).1 + pads
      let s := ringPutBack s thief ring pads ⟨k, pkt, some stamp, false, late⟩
      let s := modCreel (dbgAdd s thief 0xB0 1) thief fun q => { q with stolenAt := (ring, u) :: q.stolenAt }
      given (wakeQueue (settle s none) thief))

/-- R105. The wait after a full pass is over. -/
def execStealBackoffExpiry (c : CreelId) (s : State) : Out :=
  .next (match (creelOf s c).thief with
    | some f =>
      if f.sleeping then
        wakeQueue (modCreel s c fun q => { q with thief := some { f with sleeping := false, next := 0 } }) c
      else s
    | none => s)

/-! ## The examination (R98, R100, R101) -/

/-- Pending packets of the teams whose packets go to a creel enter its queue (R93). -/
def feedCreel (s : State) (c : CreelId) : State :=
  (teamsAt s c).foldl (fun s (k, t) => if teamHead s t = some c then feedTeam s k else s) s

/-- Every done message that a creel may send is sent. -/
def doneChecks (s : State) (c : CreelId) : State := (teamsAt s c).foldl (fun s (k, _) => doneCheck s c k) s

/-- The next examination: within 16 cycles while a slot is idle (R98). -/
def examineAgain (s : State) (c : CreelId) : State :=
  if creelThere s c && anyIdle s c && !(s.agenda.any fun d => match d.act with
    | .event (.queueExamination x) => decide (x = c)
    | _ => false)
  then s.after 16 (.event (.queueExamination c)) else s

/-- R98, R100. The examination of a creel's task queue: gates are tested, the first candidate that fits a slot is
dispatched and the queue examined again; without one the creel steals, and done messages are sent when no attempt is
out. A creel that is not there has only its place in the done tree (R109). -/
def execQueueExamination (c : CreelId) (s : State) : Out :=
  .next (match residentLaunch s c with
    | none => s
    | some lslot =>
      let (s, ws) := windows (feedCreel s c) c
      let (s, ws) := testGates s c lslot ws
      match firstFit s c lslot ws with
      | some (w, at_) => now (dispatch s c (w.key lslot) w at_) (.queueExamination c)
      | none =>
        examineAgain (doneChecks (seek s c ws) c) c)

end Sys2Proof.Machine
end

