-- ==== Sys2Proof/Machine/Control.lean ====
section
/-! DEFINITION. Control and system instructions: majors 43 to 46 and their compact forms (R264, R304 to R307). -/

namespace Sys2Proof.Machine

/-! ## Endings (R304, R341) -/

/-- Has an engine of the creel a command of this slot in its FIFO or in work (R342)? -/
def engineBusy (s : State) (t : ThreadId) : Bool :=
  (creelOf s t.core.creel).engines.any fun (_, e) =>
    (e.fifo ++ e.work).any fun c => decide (c.core = t.core ∧ c.slot = t.slot)

/-- The results a slot has not popped are discarded (R341). -/
def dropResults (s : State) (t : ThreadId) : State :=
  modCreel s t.core.creel fun k => { k with engines := k.engines.map fun (n, e) =>
    (n, { e with results := e.results.filter fun r => !decide (r.core = t.core ∧ r.slot = t.slot) }) }

/-- Endpoints of a slot that are delegated and whose forwarding has not ended (R185, R304). -/
def stillForwarding (s : State) (t : ThreadId) : Bool :=
  (ownedEps s t).any fun n => decide ((epOf s t.core n).est = .delegated) && !(epOf s t.core n).fwdEnd

/-- R304, R341. The endpoints of a slot freed, but for those still forwarding. -/
def freeSettled (s : State) (t : ThreadId) : State :=
  (ownedEps s t).foldl (fun s n =>
    let e := epOf s t.core n
    if decide (e.est = .delegated) && !e.fwdEnd then s else freeEp s t.core n) s

/-- R304, R341. The ending of the current thread: its posted writes and engine commands are awaited, its endpoints
freed, a delegated one after its FWD_END; then `last` is done. -/
def ending (s : State) (last : State → State) : State :=
  let t := s.cur
  if !s.th.posted.isEmpty || engineBusy s t then parkOn s .ending
  else
    let s := freeSettled (dropResults s t) t
    if stillForwarding s t then parkOn s .ending else last s

/-! ## Major 43 (R304, R305, R307) -/

/-- R304. NOP. -/
def execNop (s : State) : Out := issue s [] [] true fun s => retire s false 1

/-- R264. c.nop. -/
def execCNop (s : State) : Out := issue s [] [] true fun s => retire s true 1

/-- The thread parks for one rotation (R304). -/
def rest (s : State) (cp : Bool) : State :=
  (retire s cp 1).mod fun th => { th with wait := .rest, ready := th.ready + 16 }

/-- R304. YIELD. -/
def execYield (s : State) : Out := issue s [] [] s.free? fun s => rest s false

/-- R264. c.yield. -/
def execCYield (s : State) : Out := issue s [] [] s.free? fun s => rest s true

/-- R304. HALT: a task's slot is held; a thread started by SLOT_START ends. -/
def execHalt (s : State) : Out :=
  issue s [] [] true fun s =>
    if s.th.started then ending s fun s => leave s s.cur
    else (retire s false 1).mod fun th => { th with wait := .halted }

/-- R276. XRET. -/
def execXret (s : State) : Out := issue s [] [] (s.sup && stXm s.th.status) trapReturn

/-- R305. BKPT: with BKH it halts the creel and, after the resume, completes, as it does at once where the creel is halted and
its trigger is ignored (R145); otherwise BREAK. -/
def execBkpt (s : State) : Out :=
  issue s [] [] true fun s =>
    let bkh := (dbgReg s s.cur.core.creel 0).getLsbD 1
    if s.th.answer.isSome || (bkh && isHalted s s.cur.core.creel) then retire s false 1
    else if bkh then
      haltIssue (s.mod fun th => { th with answer := some 4 }) 4 0
    else raise s ⟨9, (slotAddr s.th.pc).setWidth 64⟩

/-- R304. Is there a queue entry for the current slot, or a FULL mailbox of its core? -/
def wfeReady (s : State) : Bool :=
  (oldestEntry s s.cur.core s.cur.slot).isSome || (coreOf s s.cur.core).mbox.any fun m => m.2.full

/-- R304. WFE. -/
def execWfe (s : State) : Out :=
  issue s [] [] s.sup fun s =>
    if s.again || wfeReady s then retire s false 1
    else (parkOn s (.event s.cyc)).after (2 ^ 16) (.event (.wfeTimeout s.cur s.cyc))

/-- R304. A WFE parked for 2^16 cycles completes. -/
def execWfeTimeout (t : ThreadId) (since : Nat) (s : State) : Out :=
  .next (if (threadOf s t).wait = .redo (.event since) then s.at s.cyc (.redo t) else s)

/-- R307. PERFRD. -/
def execPerfrd (a d : BitVec 7) (s : State) : Out :=
  issue s [a] [d] true fun s =>
    let n := (s.g a).toNat % 256
    let v : Nat := if n = 0 then s.cyc else if n ≤ 5 then s.th.perf.getD (n - 1) 0 else 0
    retire (s.setG d (BitVec.ofNat 64 v)) false 1

/-! ## TRAP, SYSRD, SYSWR (R305, R306) -/

/-- R305. TRAP: xpc names the next instruction. -/
def execTrap (i : BitVec 11) (s : State) : Out :=
  issue s [] [] true fun s => takeTrap s s.cur (pcAfter s.th.pc false) ⟨10, i.setWidth 64⟩

/-- R269. The thread parks until its access through DEV_DATA is performed, a cycle later. -/
def deviceAccess (s : State) (e : Event) : State :=
  let off := (coreOf s s.cur.core).devAddr
  ((parkOn s .device).mod fun th => { th with answer := some (off.setWidth 64), next := pcAfter th.pc false }).after 1
    (.event e)

/-- R306. SYSRD. -/
def execSysrd (n : BitVec 11) (d : BitVec 7) (s : State) : Out :=
  issue s [] [d] (sysOk s.cur s.sup false n.toNat) fun s =>
    if n = 0x311 then deviceAccess s (.devDataRead s.cur d)
    else retire (s.setG d (sysRead s s.cur n.toNat)) false 1

/-- R306. SYSWR. -/
def execSyswr (n : BitVec 11) (a : BitVec 7) (s : State) : Out :=
  issue s [a] [] (sysOk s.cur s.sup true n.toNat) fun s =>
    if n = 0x311 then deviceAccess s (.devDataWrite s.cur (s.g a))
    else sysWrite (retire s false 1) s.cur n (s.g a)

/-! ## Codes without an instruction (R265) -/

/-- R265. A slot or parcel of an unassigned pattern: ILLEGAL. -/
def execIllegalEncoding (slot : BitVec 32) (high : Bool) (s : State) : Out :=
  match s.threads.find s.cur with
  | none => .fault .noThread
  | some _ => .next (raise { s with word := slot, high := high } (trapIllegal { s with word := slot, high := high }))

end Sys2Proof.Machine
end

