-- ==== Sys2Proof/Machine/Float.lean ====
section
/-! DEFINITION. Scalar floating point, conversion, sticky bits and codebook codes: majors 32 and 33 but for CBLOAD
(R294 to R299), c.fadd (R264), and the packed instructions of majors 34 to 38 (R301 to R303). -/

namespace Sys2Proof.Machine

/-! ## Shapes -/

/-- A held result written into g(d), with its flags (R284, R294). -/
def putHeld (s : State) (d : BitVec 7) (cp : Bool) (r : Pair × Flags) : State :=
  retire ((s.setH d r.1).flags r.2) cp 1

/-- A floating instruction of two sources. -/
def ff2 (s : State) (b a d : BitVec 7) (beats : Nat) (f : Pair → Pair → Pair × Flags) : Out :=
  issue s [a, b] [d] true fun s => lastBeat s beats fun s => putHeld s d false (f (s.h a) (s.h b))

/-- A floating instruction of one source. -/
def ff1 (s : State) (a d : BitVec 7) (beats : Nat) (f : Pair → Pair × Flags) : Out :=
  issue s [a] [d] true fun s => lastBeat s beats fun s => putHeld s d false (f (s.h a))

/-- A pair whose NaN is canonical with S clear (R236). -/
def canon (p : Pair) : Pair := match p.x with | .nan => ⟨.nan, false⟩ | _ => p

/-! ## Major 32 (R294, R295) -/

/-- R294. FADD. -/
def execFadd (b a d : BitVec 7) (s : State) : Out := ff2 s b a d 1 fadd
/-- R294. FSUB. -/
def execFsub (b a d : BitVec 7) (s : State) : Out := ff2 s b a d 1 fsub
/-- R294. FMUL. -/
def execFmul (b a d : BitVec 7) (s : State) : Out := ff2 s b a d 1 fmul
/-- R294, R285. FDIV: four beats. -/
def execFdiv (b a d : BitVec 7) (s : State) : Out := ff2 s b a d 4 fdiv
/-- R294, R285. FSQRT: four beats. -/
def execFsqrt (a d : BitVec 7) (s : State) : Out := ff1 s a d 4 fsqrt
/-- R294, R248. FMIN. -/
def execFmin (b a d : BitVec 7) (s : State) : Out := ff2 s b a d 1 fun x y => (canon (fminmax false x y), 0)
/-- R294, R248. FMAX. -/
def execFmax (b a d : BitVec 7) (s : State) : Out := ff2 s b a d 1 fun x y => (canon (fminmax true x y), 0)
/-- R294. FABS: the sign bit cleared, S kept; a NaN becomes canonical with no flag. -/
def execFabs (a d : BitVec 7) (s : State) : Out := ff1 s a d 1 fun x => (canon ⟨x.x.withSign false, x.s⟩, 0)
/-- R294. FNEG. -/
def execFneg (a d : BitVec 7) (s : State) : Out := ff1 s a d 1 fun x => (canon x.neg, 0)

/-- The one bit FCMP writes (R295). -/
def cmpWord : Cmp → Word
  | .lt => 1
  | .eq => 2
  | .gt => 4
  | .unordered => 8
  | .inexact => 16

/-- R295. FCMP. -/
def execFcmp (b a d : BitVec 7) (s : State) : Out :=
  issue s [a, b] [d] true fun s => retire (s.setG d (cmpWord (cmpPair (s.h a) (s.h b)))) false 1

/-- The class mask of a W32 encoding with S (R295). -/
def classWord (w : BitVec 32) (b : Bool) : Word :=
  let neg := w.msb
  let ex := (w.extractLsb' 23 8).toNat
  let fr := (w.extractLsb' 0 23).toNat
  let k : Nat :=
    if ex = 255 then (if fr ≠ 0 then 8 else if neg then 0 else 7)
    else if ex ≠ 0 then (if neg then 1 else 6)
    else if fr ≠ 0 then (if neg then 2 else 5)
    else (if neg then 3 else 4)
  (1#64 <<< k) ||| (if b then 0x200#64 else 0)

/-- R295. FCLASS. -/
def execFclass (a d : BitVec 7) (s : State) : Out :=
  issue s [a] [d] true fun s => retire (s.setG d (classWord ((s.g a).extractLsb' 0 32) (s.gS a))) false 1

/-- R294. FFMA: ga * gb + gd, formed exactly with one RoundOdd. -/
def execFfma (b a d : BitVec 7) (s : State) : Out :=
  issue s [a, b, d] [d] true fun s => putHeld s d false (ffma (s.h a) (s.h b) (s.h d))

/-- R264. c.fadd: FADD gd, gd, ga. -/
def execCFadd (a d : BitVec 5) (s : State) : Out :=
  issue s [r5 d, r5 a] [r5 d] true fun s => putHeld s (r5 d) true (fadd (s.h (r5 d)) (s.h (r5 a)))

/-! ## Major 33 (R296 to R299) -/

/-- The integer a register holds for a type code 4 to 6 of FCVT (R296). -/
def cvtInt (code : Nat) (w : Word) : Int :=
  if code = 4 then (w.extractLsb' 0 32).toInt else if code = 5 then w.toInt else ((w.extractLsb' 0 32).toNat : Int)

/-- The exact value a register holds for a type code 0 to 3 of FCVT, with its S (R296). -/
def cvtFloat (code : Nat) (e : RegEntry) : Pair :=
  match code with
  | 0 => heldOf e
  | 1 => ⟨decodeW19 (e.d.extractLsb' 0 32), e.s⟩
  | 2 => ⟨decodeBf16 (e.d.extractLsb' 0 16), false⟩
  | _ => ⟨decodeFp16 (e.d.extractLsb' 0 16), false⟩

/-- The range of an integer type code of FCVT (R296). -/
def cvtRange (code : Nat) : Int × Int :=
  if code = 4 then (-(2 ^ 31), 2 ^ 31 - 1) else if code = 5 then (-(2 ^ 63), 2 ^ 63 - 1) else (0, 2 ^ 32 - 1)

/-- An integer as its destination register image: sign-extended, or zero-extended for N32 (R296). -/
def cvtIntImage (code : Nat) (i : Int) : Word :=
  if code = 6 then (BitVec.ofInt 32 i).setWidth 64 else BitVec.ofInt 64 i

/-- R296, R245, R259. The register image, S, flags, and whether a final rounding was made, of FCVT. -/
def fcvt (keep : Bool) (dst src mode t8 : Nat) (e : RegEntry) : Word × Bool × Flags × Bool :=
  let v : Pair := if src ≤ 3 then cvtFloat src e else ⟨.ofInt (cvtInt src e.d), false⟩
  let q := if src = 1 then 11 else 24
  let nan := decide (v.x = .nan)
  match dst with
  | 0 =>
    if src ≤ 3 then
      let b := v.s && !nan
      (heldBits v.x, b, flagIf (b && decide (src = 1)) flagPREC, false)
    else
      let (r, fl) := roundOdd .w32 v.x false
      (heldBits r.x, r.s, fl, false)
  | 1 =>
    let (r, fl) := roundOdd .w19 v.x false
    let b := (r.s || v.s) && !nan
    if keep then (heldBits r.x, b, fl ||| flagIf b flagPREC, false)
    else if !r.s then (heldBits r.x, b, flagIf (b && decide (src = 1)) flagPREC, false)
    else
      let (x, fl) := finalRound .w19 mode q t8 v
      (heldBits x, false, fl, true)
  | 2 => let (x, fl) := finalRound .bf16 mode q t8 v; ((encodeBf16 x).setWidth 64, false, fl, true)
  | 3 => let (x, fl) := finalRound .fp16 mode q t8 v; ((encodeFp16 x).setWidth 64, false, fl, true)
  | _ =>
    let (lo, hi) := cvtRange dst
    if src ≤ 3 then
      let (i, fl) := floatToInt lo hi mode t8 v
      (cvtIntImage dst i, false, fl, true)
    else
      let (i, fl) := saturate lo hi (cvtInt src e.d)
      (cvtIntImage dst i, false, fl, false)

/-- R296. FCVT. -/
def execFcvt (k : BitVec 1) (y x : BitVec 3) (a d : BitVec 7) (s : State) : Out :=
  issue s [a] [d] (okFcvt k y x) fun s =>
    let (w, b, fl, used) := fcvt (decide (k = 1#1)) y.toNat x.toNat s.rm (s.srd 0) (regOf s s.cur a.toNat)
    let s' := (s.setGS d w b).flags fl
    retire (if used then s'.usedSrd s.rm else s') false 1

/-- R297. FRND. -/
def execFrnd (o : BitVec 3) (a d : BitVec 7) (s : State) : Out :=
  issue s [a] [d] (okFrnd o) fun s =>
    let mode := if o = 0 then s.rm else o.toNat - 1
    let (x, fl) := s.final .w32 mode 24 (s.h a)
    retire ((((s.setGS d (heldBits x) false).flags fl).usedSrd mode)) false 1

/-- R298. SGET. -/
def execSget (a d : BitVec 7) (s : State) : Out :=
  issue s [a] [d] true fun s => retire (s.setG d (if s.gS a then 1 else 0)) false 1

/-- R298. SSET: S of ga OR (gb is not 0). -/
def execSset (b a d : BitVec 7) (s : State) : Out :=
  issue s [a, b] [d] true fun s => retire (s.setGS d (s.g a) (s.gS a || decide (s.g b ≠ 0))) false 1

/-- R298. SCLR. -/
def execSclr (a d : BitVec 7) (s : State) : Out :=
  issue s [a] [d] true fun s => retire (s.setGS d (s.g a) false) false 1

/-- The code width QENC and QDEC select (R299). -/
def codeBits (w : BitVec 1) : Nat := if w = 0#1 then 8 else 4

/-- R299, R250. QENC. -/
def execQenc (w : BitVec 1) (a d : BitVec 7) (s : State) : Out :=
  let n := codeBits w
  issue s [a] [d] (selectorOk (fmtSelector s.th.fmt n) n) fun s =>
    let (c, fl) := encodeCb (slotOf s s.cur.core (fmtSelector s.th.fmt n)) n s.rm (s.srd 0) (s.h a)
    retire (((s.setG d (BitVec.ofNat 64 c)).flags fl).usedSrd s.rm) false 1

/-- R299, R251. QDEC. -/
def execQdec (w : BitVec 1) (a d : BitVec 7) (s : State) : Out :=
  let n := codeBits w
  issue s [a] [d] (selectorOk (fmtSelector s.th.fmt n) n) fun s =>
    let x := decodeCb (slotOf s s.cur.core (fmtSelector s.th.fmt n)) n ((s.g a).toNat % 2 ^ n)
    retire (s.setGS d (heldBits x) false) false 1

/-! ## Packed lanes (R301 to R303) -/

/-- The type of a packed instruction's lanes. -/
inductive LaneType where
  | w32 | bf16 | fp16 | i8 | i32
  deriving DecidableEq, Repr

/-- Bits of a lane. -/
def LaneType.bits : LaneType → Nat
  | .w32 => 32 | .bf16 => 16 | .fp16 => 16 | .i8 => 8 | .i32 => 32

/-- Number of lanes. -/
def LaneType.count (t : LaneType) : Nat := 64 / t.bits

/-- Are the lanes integers? -/
def LaneType.isInt : LaneType → Bool
  | .i8 => true | .i32 => true | _ => false

/-- The format of floating lanes. -/
def LaneType.fmt : LaneType → Fmt
  | .bf16 => .bf16 | .fp16 => .fp16 | _ => .w32

/-- The exact value of a floating lane. -/
def LaneType.decode (t : LaneType) (v : Nat) : Num :=
  match t with
  | .bf16 => decodeBf16 (BitVec.ofNat 16 v)
  | .fp16 => decodeFp16 (BitVec.ofNat 16 v)
  | _ => decodeW32 (BitVec.ofNat 32 v)

/-- The bits of a floating lane. -/
def LaneType.encode (t : LaneType) (x : Num) : Nat :=
  match t with
  | .bf16 => (encodeBf16 x).toNat
  | .fp16 => (encodeFp16 x).toNat
  | _ => (encodeW32 x).toNat

/-- The lanes of a register. -/
def lanesOf (t : LaneType) (d : Word) : List Nat := (List.range t.count).map (lane d t.bits)

/-- The integers of integer lanes. -/
def intsOf (t : LaneType) (d : Word) : List Int := (lanesOf t d).map (signedOf t.bits)

/-- Lanes and flags gathered. -/
def gather (t : LaneType) (ls : List (Nat × Flags)) : Word × Flags :=
  (ofLanes t.bits (ls.map Prod.fst), ls.foldl (fun f l => f ||| l.2) 0)

/-- R301. An exact lane result written as FinalRound into the lane format, with the operation's own flags. -/
def laneRound (s : State) (t : LaneType) (i : Nat) (r : Num × Flags) : Nat × Flags :=
  let (x, fl) := finalRound t.fmt s.rm 24 (s.srd i) ⟨r.1, false⟩
  (t.encode x, r.2 ||| fl)

/-- R302. A packed arithmetic instruction of lanes a, b and d: exact floating operation, or integer operation modulo
the lane width. -/
def packed (s : State) (t : LaneType) (b a d : BitVec 7) (useD : Bool) (f : Num → Num → Num → Num × Flags)
    (g : Int → Int → Int → Int) : Out :=
  issue s (if useD then [a, b, d] else [a, b]) [d] true fun s =>
    let w := t.bits
    let at_ (r : BitVec 7) (i : Nat) : Nat := lane (s.g r) w i
    let res := (List.range t.count).map fun i =>
      if t.isInt then
        ((BitVec.ofInt w (g (signedOf w (at_ a i)) (signedOf w (at_ b i)) (signedOf w (at_ d i)))).toNat, (0 : Flags))
      else laneRound s t i (f (t.decode (at_ a i)) (t.decode (at_ b i)) (t.decode (at_ d i)))
    let (v, fl) := gather t res
    let s' := (s.setG d v).flags fl
    retire (if t.isInt then s' else s'.usedSrd s.rm) false 1

/-- R302, R248. PMIN and PMAX: no flag, and no rounding, since a lane's value is in the lane format. -/
def packedMinMax (s : State) (t : LaneType) (b a d : BitVec 7) (mx : Bool) : Out :=
  issue s [a, b] [d] true fun s =>
    let w := t.bits
    let res := (List.range t.count).map fun i =>
      let x := lane (s.g a) w i
      let y := lane (s.g b) w i
      if t.isInt then (if (signedOf w x ≤ signedOf w y) != mx then x else y)
      else t.encode (fminmax mx ⟨t.decode x, false⟩ ⟨t.decode y, false⟩).x
    retire (s.setG d (ofLanes w res)) false 1

/-- R302. PDOT. -/
def packedDot (s : State) (t : LaneType) (b a d : BitVec 7) : Out :=
  issue s [a, b, d] [d] true fun s =>
    match t with
    | .i8 =>
      let p := ((intsOf t (s.g a)).zipWith (· * ·) (intsOf t (s.g b))).foldl (· + ·) 0
      retire (s.setG d (((s.g d).extractLsb' 0 32 + BitVec.ofInt 32 p).signExtend 64)) false 1
    | .i32 =>
      let p := ((intsOf t (s.g a)).zipWith (· * ·) (intsOf t (s.g b))).foldl (· + ·) 0
      retire (s.setG d (s.g d + BitVec.ofInt 64 p)) false 1
    | _ =>
      let ps := (List.range t.count).map fun i =>
        mulPair ⟨t.decode (lane (s.g a) t.bits i), false⟩ ⟨t.decode (lane (s.g b) t.bits i), false⟩
      let (r, fl) := tree (if t.count = 2 then 1 else 2) (ps.map Prod.fst)
      let (v, fl') := fadd (s.h d) r
      putHeld s d false (v, ps.foldl (fun f p => f ||| p.2) (fl ||| fl'))

/-- R302. PSHUF: lane gb[4i+3:4i] of ga, or zero. -/
def packedShuffle (s : State) (t : LaneType) (b a d : BitVec 7) : Out :=
  issue s [a, b] [d] true fun s =>
    let res := (List.range t.count).map fun i =>
      let k := lane (s.g b) 4 i
      if k < t.count then lane (s.g a) t.bits k else 0
    retire (s.setG d (ofLanes t.bits res)) false 1

/-- R303. One lane converted from type t to type u, as element i. -/
def laneConvert (s : State) (t u : LaneType) (i v : Nat) : Nat × Flags :=
  let hi : Int := 2 ^ (u.bits - 1) - 1
  if t.isInt then
    let n := signedOf t.bits v
    if u.isInt then
      let (r, fl) := saturate (-hi - 1) hi n
      ((BitVec.ofInt u.bits r).toNat, fl)
    else laneRound s u i (.ofInt n, 0)
  else if u.isInt then
    let (r, fl) := floatToInt (-hi - 1) hi s.rm (s.srd i) ⟨t.decode v, false⟩
    ((BitVec.ofInt u.bits r).toNat, fl)
  else laneRound s u i (t.decode v, 0)

/-- R303. PCVT from type t to type u, group g. -/
def packedConvert (s : State) (t u : LaneType) (g : BitVec 2) (a d : BitVec 7) : Out :=
  issue s [a] [d] (okGroup t.count u.count g) fun s =>
    let base := if t.count ≤ u.count then 0 else g.toNat * u.count
    let res := (List.range (min t.count u.count)).map fun i => laneConvert s t u i (lane (s.g a) t.bits (base + i))
    let (v, fl) := gather u res
    let s' := (s.setG d v).flags fl
    retire (if t.isInt && u.isInt then s' else s'.usedSrd s.rm) false 1

/-- The exact sum of two lanes. -/
def pAdd (a b _ : Num) : Num × Flags := addExact a b
/-- The exact difference of two lanes. -/
def pSub (a b _ : Num) : Num × Flags := addExact a (Pair.neg ⟨b, false⟩).x
/-- The exact product of two lanes. -/
def pMul (a b _ : Num) : Num × Flags := mulExact a b
/-- The exact a * b + d of three lanes. -/
def pFma (a b d : Num) : Num × Flags :=
  let (p, f) := mulExact a b
  let (r, f') := addExact p d
  (r, f ||| f')

/-! ### Lanes of type W32 -/

/-- R302. PADD. -/
def execPaddW32 (b a d : BitVec 7) (s : State) : Out := packed s .w32 b a d false pAdd (fun a b _ => a + b)
/-- R302. PSUB. -/
def execPsubW32 (b a d : BitVec 7) (s : State) : Out := packed s .w32 b a d false pSub (fun a b _ => a - b)
/-- R302. PMUL. -/
def execPmulW32 (b a d : BitVec 7) (s : State) : Out := packed s .w32 b a d false pMul (fun a b _ => a * b)
/-- R302. PFMA. -/
def execPfmaW32 (b a d : BitVec 7) (s : State) : Out := packed s .w32 b a d true pFma (fun a b d => a * b + d)
/-- R302. PMIN. -/
def execPminW32 (b a d : BitVec 7) (s : State) : Out := packedMinMax s .w32 b a d false
/-- R302. PMAX. -/
def execPmaxW32 (b a d : BitVec 7) (s : State) : Out := packedMinMax s .w32 b a d true
/-- R302. PDOT. -/
def execPdotW32 (b a d : BitVec 7) (s : State) : Out := packedDot s .w32 b a d
/-- R302. PSHUF. -/
def execPshufW32 (b a d : BitVec 7) (s : State) : Out := packedShuffle s .w32 b a d
/-- R303. PCVT to Bf16. -/
def execPcvtBf16W32 (g : BitVec 2) (a d : BitVec 7) (s : State) : Out := packedConvert s .w32 .bf16 g a d
/-- R303. PCVT to Fp16. -/
def execPcvtFp16W32 (g : BitVec 2) (a d : BitVec 7) (s : State) : Out := packedConvert s .w32 .fp16 g a d
/-- R303. PCVT to I8. -/
def execPcvtI8W32 (g : BitVec 2) (a d : BitVec 7) (s : State) : Out := packedConvert s .w32 .i8 g a d
/-- R303. PCVT to I32. -/
def execPcvtI32W32 (g : BitVec 2) (a d : BitVec 7) (s : State) : Out := packedConvert s .w32 .i32 g a d

/-! ### Lanes of type Bf16 -/

/-- R302. PADD. -/
def execPaddBf16 (b a d : BitVec 7) (s : State) : Out := packed s .bf16 b a d false pAdd (fun a b _ => a + b)
/-- R302. PSUB. -/
def execPsubBf16 (b a d : BitVec 7) (s : State) : Out := packed s .bf16 b a d false pSub (fun a b _ => a - b)
/-- R302. PMUL. -/
def execPmulBf16 (b a d : BitVec 7) (s : State) : Out := packed s .bf16 b a d false pMul (fun a b _ => a * b)
/-- R302. PFMA. -/
def execPfmaBf16 (b a d : BitVec 7) (s : State) : Out := packed s .bf16 b a d true pFma (fun a b d => a * b + d)
/-- R302. PMIN. -/
def execPminBf16 (b a d : BitVec 7) (s : State) : Out := packedMinMax s .bf16 b a d false
/-- R302. PMAX. -/
def execPmaxBf16 (b a d : BitVec 7) (s : State) : Out := packedMinMax s .bf16 b a d true
/-- R302. PDOT. -/
def execPdotBf16 (b a d : BitVec 7) (s : State) : Out := packedDot s .bf16 b a d
/-- R302. PSHUF. -/
def execPshufBf16 (b a d : BitVec 7) (s : State) : Out := packedShuffle s .bf16 b a d
/-- R303. PCVT to W32. -/
def execPcvtW32Bf16 (g : BitVec 2) (a d : BitVec 7) (s : State) : Out := packedConvert s .bf16 .w32 g a d
/-- R303. PCVT to Fp16. -/
def execPcvtFp16Bf16 (g : BitVec 2) (a d : BitVec 7) (s : State) : Out := packedConvert s .bf16 .fp16 g a d
/-- R303. PCVT to I8. -/
def execPcvtI8Bf16 (g : BitVec 2) (a d : BitVec 7) (s : State) : Out := packedConvert s .bf16 .i8 g a d
/-- R303. PCVT to I32. -/
def execPcvtI32Bf16 (g : BitVec 2) (a d : BitVec 7) (s : State) : Out := packedConvert s .bf16 .i32 g a d

/-! ### Lanes of type Fp16 -/

/-- R302. PADD. -/
def execPaddFp16 (b a d : BitVec 7) (s : State) : Out := packed s .fp16 b a d false pAdd (fun a b _ => a + b)
/-- R302. PSUB. -/
def execPsubFp16 (b a d : BitVec 7) (s : State) : Out := packed s .fp16 b a d false pSub (fun a b _ => a - b)
/-- R302. PMUL. -/
def execPmulFp16 (b a d : BitVec 7) (s : State) : Out := packed s .fp16 b a d false pMul (fun a b _ => a * b)
/-- R302. PFMA. -/
def execPfmaFp16 (b a d : BitVec 7) (s : State) : Out := packed s .fp16 b a d true pFma (fun a b d => a * b + d)
/-- R302. PMIN. -/
def execPminFp16 (b a d : BitVec 7) (s : State) : Out := packedMinMax s .fp16 b a d false
/-- R302. PMAX. -/
def execPmaxFp16 (b a d : BitVec 7) (s : State) : Out := packedMinMax s .fp16 b a d true
/-- R302. PDOT. -/
def execPdotFp16 (b a d : BitVec 7) (s : State) : Out := packedDot s .fp16 b a d
/-- R302. PSHUF. -/
def execPshufFp16 (b a d : BitVec 7) (s : State) : Out := packedShuffle s .fp16 b a d
/-- R303. PCVT to W32. -/
def execPcvtW32Fp16 (g : BitVec 2) (a d : BitVec 7) (s : State) : Out := packedConvert s .fp16 .w32 g a d
/-- R303. PCVT to Bf16. -/
def execPcvtBf16Fp16 (g : BitVec 2) (a d : BitVec 7) (s : State) : Out := packedConvert s .fp16 .bf16 g a d
/-- R303. PCVT to I8. -/
def execPcvtI8Fp16 (g : BitVec 2) (a d : BitVec 7) (s : State) : Out := packedConvert s .fp16 .i8 g a d
/-- R303. PCVT to I32. -/
def execPcvtI32Fp16 (g : BitVec 2) (a d : BitVec 7) (s : State) : Out := packedConvert s .fp16 .i32 g a d

/-! ### Lanes of type I8 -/

/-- R302. PADD. -/
def execPaddI8 (b a d : BitVec 7) (s : State) : Out := packed s .i8 b a d false pAdd (fun a b _ => a + b)
/-- R302. PSUB. -/
def execPsubI8 (b a d : BitVec 7) (s : State) : Out := packed s .i8 b a d false pSub (fun a b _ => a - b)
/-- R302. PMUL. -/
def execPmulI8 (b a d : BitVec 7) (s : State) : Out := packed s .i8 b a d false pMul (fun a b _ => a * b)
/-- R302. PFMA. -/
def execPfmaI8 (b a d : BitVec 7) (s : State) : Out := packed s .i8 b a d true pFma (fun a b d => a * b + d)
/-- R302. PMIN. -/
def execPminI8 (b a d : BitVec 7) (s : State) : Out := packedMinMax s .i8 b a d false
/-- R302. PMAX. -/
def execPmaxI8 (b a d : BitVec 7) (s : State) : Out := packedMinMax s .i8 b a d true
/-- R302. PDOT. -/
def execPdotI8 (b a d : BitVec 7) (s : State) : Out := packedDot s .i8 b a d
/-- R302. PSHUF. -/
def execPshufI8 (b a d : BitVec 7) (s : State) : Out := packedShuffle s .i8 b a d
/-- R303. PCVT to W32. -/
def execPcvtW32I8 (g : BitVec 2) (a d : BitVec 7) (s : State) : Out := packedConvert s .i8 .w32 g a d
/-- R303. PCVT to Bf16. -/
def execPcvtBf16I8 (g : BitVec 2) (a d : BitVec 7) (s : State) : Out := packedConvert s .i8 .bf16 g a d
/-- R303. PCVT to Fp16. -/
def execPcvtFp16I8 (g : BitVec 2) (a d : BitVec 7) (s : State) : Out := packedConvert s .i8 .fp16 g a d
/-- R303. PCVT to I32. -/
def execPcvtI32I8 (g : BitVec 2) (a d : BitVec 7) (s : State) : Out := packedConvert s .i8 .i32 g a d

/-! ### Lanes of type I32 -/

/-- R302. PADD. -/
def execPaddI32 (b a d : BitVec 7) (s : State) : Out := packed s .i32 b a d false pAdd (fun a b _ => a + b)
/-- R302. PSUB. -/
def execPsubI32 (b a d : BitVec 7) (s : State) : Out := packed s .i32 b a d false pSub (fun a b _ => a - b)
/-- R302. PMUL. -/
def execPmulI32 (b a d : BitVec 7) (s : State) : Out := packed s .i32 b a d false pMul (fun a b _ => a * b)
/-- R302. PFMA. -/
def execPfmaI32 (b a d : BitVec 7) (s : State) : Out := packed s .i32 b a d true pFma (fun a b d => a * b + d)
/-- R302. PMIN. -/
def execPminI32 (b a d : BitVec 7) (s : State) : Out := packedMinMax s .i32 b a d false
/-- R302. PMAX. -/
def execPmaxI32 (b a d : BitVec 7) (s : State) : Out := packedMinMax s .i32 b a d true
/-- R302. PDOT. -/
def execPdotI32 (b a d : BitVec 7) (s : State) : Out := packedDot s .i32 b a d
/-- R302. PSHUF. -/
def execPshufI32 (b a d : BitVec 7) (s : State) : Out := packedShuffle s .i32 b a d
/-- R303. PCVT to W32. -/
def execPcvtW32I32 (g : BitVec 2) (a d : BitVec 7) (s : State) : Out := packedConvert s .i32 .w32 g a d
/-- R303. PCVT to Bf16. -/
def execPcvtBf16I32 (g : BitVec 2) (a d : BitVec 7) (s : State) : Out := packedConvert s .i32 .bf16 g a d
/-- R303. PCVT to Fp16. -/
def execPcvtFp16I32 (g : BitVec 2) (a d : BitVec 7) (s : State) : Out := packedConvert s .i32 .fp16 g a d
/-- R303. PCVT to I8. -/
def execPcvtI8I32 (g : BitVec 2) (a d : BitVec 7) (s : State) : Out := packedConvert s .i32 .i8 g a d

end Sys2Proof.Machine
end

