-- ==== Sys2Proof/Machine/Vector.lean ====
section
/-! DEFINITION. The V-form instructions, majors 52 to 57 (R360 to R370): their checks at issue, a beat of a walk, rows of
major 54, channel streams as operands, and one meaning for each instruction. -/

namespace Sys2Proof.Machine

/-! ## Destination types (R360) -/

/-- R360. Does an et field admit a destination element type, under the selectors of FMT? -/
def destOk (fmt : Word) (et ty : Nat) : Bool :=
  match et with
  | 0 => decide (ty = 1)
  | 1 => decide (ty = 2)
  | 2 => decide (ty = 3)
  | 3 => decide (ty = 4)
  | 4 => decide (ty = 9 ∨ ty = 14)
  | 5 => decide (ty = 8 ∨ ty = 13 ∨ ty = 12)
  | 6 => decide ((ty = 5 ∧ fmtSelector fmt 8 = 4) ∨ (ty = 6 ∧ fmtSelector fmt 8 = 5) ∨ (ty = 10 ∧ fmtSelector fmt 8 ≤ 3))
  | _ => decide ((ty = 7 ∧ fmtSelector fmt 4 = 6) ∨ (ty = 11 ∧ fmtSelector fmt 4 ≤ 3))

/-- R360. E, the elements a beat covers. -/
def beatElems (et ty : Nat) : Nat :=
  match et with
  | 0 => 16
  | 1 => 32
  | 2 => 32
  | 3 => 32
  | 4 => 16
  | 5 => if ty = 12 then 128 else 64
  | 6 => 64
  | _ => 128

/-! ## Operands -/

/-- How a stream supplies the elements of a beat: one for each destination element; the one element at its position
(VFILL); by the destination's position divided by a block size (R364); or one for each with its coordinate taken from
an earlier operand (VGATH). -/
inductive VSrc where
  | seq (z : Nat)
  | fill (z : Nat)
  | scale (z : Nat) (blk : Nat)
  | by (z : Nat) (col : Nat)
  deriving DecidableEq, Repr

/-- The stream register of an operand. -/
def VSrc.reg : VSrc → Nat
  | .seq z => z
  | .fill z => z
  | .scale z _ => z
  | .by z _ => z

/-- A V-form operation: et, rc, the destination, the operands, and the operand that gives the destination's coordinate
(VSCAT). -/
structure VOp where
  et : Nat
  rc : Nat
  d : Nat
  srcs : List VSrc
  dcol : Option Nat
  deriving DecidableEq, Repr

/-- R360. The checks at issue: every stream bound, the destination admitted, each source of its class, no channel stream
inside a static region, and no keep toward one (R370). -/
def vOk (s : State) (op : VOp) (classes : List (Nat → Bool)) : Bool :=
  let fmt := s.th.fmt
  let zd := s.z op.d
  let zs := op.srcs.map fun x => s.z x.reg
  decide (zd.zm ≠ 0) && destOk fmt op.et zd.shape.et &&
    (zs.zip classes).all (fun (z, c) => decide (z.zm ≠ 0) && c z.shape.et && etSelector fmt z.shape.et) &&
    (s.free? || (zd :: zs).all fun z => decide (z.zm ≠ 2)) && !(decide (zd.zm = 2) && decide (op.rc = 3))

/-! ## Beats and their place in the instruction -/

/-- Is this the first beat of its instruction? -/
def firstBeat (s : State) : Bool := if s.buffered then decide (s.th.rep.beat = 0) else !s.th.going

/-- The start of a walk: the mode and SRDC of its issue are kept (R242, R260), and nothing is gathered. -/
def openWalk (s : State) : State :=
  if firstBeat s then s.mod fun th => { th with
    vflags := 0, vsrd := false, vphase := 0, vrow := [], vrm := rmOf th.status, vsrdc := stSrdc th.status }
  else s

/-- R361. What a walk has gathered enters STATUS: its flags and, at its last beat, the advance of SRDC. -/
def closeWalk (s : State) (last : Bool) : State :=
  s.mod fun th =>
    let st := orFlags th.status th.vflags
    { th with
      status := if last && th.vsrd then bumpSrdc st else st
      vflags := 0, vsrd := false, vphase := 0, vrow := [] }

/-- A beat that is not performed: the flags of those performed stand (R361, R362). -/
def stopWalk (s : State) (b : Bad) : State := badly (closeWalk s false) b

/-- The buffer's next instruction after the last beat of the current one (R182, R347). -/
def RepBuf.next (r : RepBuf) : RepBuf :=
  if r.quit then { r with running := false, quit := false, left := 0, beat := 0, idx := 0 }
  else if r.idx + 1 < r.body.length then { r with idx := r.idx + 1, beat := 0 }
  else if r.left ≤ 1 then { r with running := false, left := 0, iter := r.iter + 1, idx := 0, beat := 0 }
  else { r with left := r.left - 1, iter := (r.iter + 1) % 2 ^ 32, idx := 0, beat := 0 }

/-- A buffered instruction waits in its place for the next own slot. -/
def repHold (s : State) : State :=
  s.mod fun th => { th with rep := { th.rep with due := nextOwn s.cyc s.cur.slot } }

/-- R128, R129. Does a beat meet a unit under copy? -/
def beatCopies (s : State) (gs : List Got) : Bool :=
  gs.any fun g => match g.place with
    | some (_, a) => (match homeOf s (a / 2) with | some h => copying s h (a / 2) 1 | none => false)
    | none => false

/-- R161, R167, R169. The further owner slots that a beat with these runs (R359) and places costs. -/
def beatCost (s : State) (runs : List (Nat × Bool)) (gs : List Got) : Nat :=
  runCost runs + portCost s runs + (if beatCopies s gs then 1 else 0)

/-- R161, R167. A beat that costs further owner slots is performed in the last of them; a buffered one in the first, its runs
behind it charged in time alone (DESIGN CHOICE, log 86). `body` is given the slots that are then still to be charged. -/
def inBeat (s : State) (runs : List (Nat × Bool)) (gs : List Got) (body : State → Nat → State) : State :=
  let cost := beatCost s runs gs
  let copies := beatCopies s gs
  if s.buffered then body (if copies then count s s.cur.core.die 70 else s) cost
  else if s.th.delay ≠ 0 ∨ cost = 0 then body s 0
  else (if copies then count s s.cur.core.die 70 else s).mod fun th => perfAdd { th with
    wait := .run, ready := nextOwn s.cyc s.cur.slot + 16 * (cost - 1), delay := if copies then 2 else 1 } 3 cost

/-- A beat is done, with its runs (R359): the next beat or the next instruction follows, `cost` owner slots late. -/
def endBeat (s : State) (last : Bool) (runs : List (Nat × Bool)) (cost : Nat) : State :=
  let fl := s.th.vflags
  let s := if last then closeWalk s true else s
  if s.buffered then
    s.mod fun th => { th with
      runsAt := s.cyc, runs := runs, beatFlags := if last then fl else 0
      rep := { (if last then th.rep.next else { th.rep with beat := th.rep.beat + 1 }) with
        due := nextOwn s.cyc s.cur.slot + 16 * cost } }
  else if last then retire s false (1 + cost) else nextBeat s cost

/-! ## Channel streams (R370) -/

/-- The walk position that the coordinates of an override name in a message. -/
def channelPos (h : Shape) (p : Nat) (k : Option Int) : Nat :=
  match k with
  | none => p
  | some v =>
    let i := (digits h.ext p).set h.idim (v % max 1 (h.ext.getD h.idim 1)).toNat
    i.getD 0 0 + h.ext.getD 0 1 * (i.getD 1 0 + h.ext.getD 1 1 * (i.getD 2 0 + h.ext.getD 2 1 * i.getD 3 0))

/-- The link format of a channel stream: of the message to be read, or of the entry of the state to send at. -/
def channelFmt (s : State) (z : ZReg) (write : Bool) : Nat :=
  let lf := if write then fieldAt (entryOf s s.cur.core z.zep) 3 1 else (nextMsg s s.cur.core z.zep).lfmt.toNat % 16
  if lf = 0 then z.shape.et else lf

/-- The place of an element: of a memory stream as R357 gives; of a message to be read, in its buffer; of one to be sent,
its position. -/
def vReach (s : State) (z : ZReg) (write : Bool) (p : Nat) (k : Option Int) : Except Bad Got :=
  if z.zm = 2 then
    let q := channelPos z.shape p k
    if write then .ok ⟨some (0, q), none⟩
    else
      let c := s.cur.core
      let a := 2 * (unitPa s c z.zep (nextUnit s c z.zep) + 24) + q * (etBits (channelFmt s z false) / 4)
      .ok ⟨some (a, a), none⟩
  else reach s s.cur z write p k

/-- The width by which a stream's runs are formed. -/
def vBits (s : State) (z : ZReg) (write : Bool) : Nat :=
  if z.zm = 2 then etBits (channelFmt s z write) else etBits z.shape.et

/-- R370. The element at a place: of a message, decoded into the stream's type with S clear. -/
def vElem (s : State) (z : ZReg) (g : Got) : Except Bad Elem :=
  if z.zm = 2 then
    let m := nextMsg s s.cur.core z.zep
    if m.lfmt.getLsbD 5 then .error (.poison 0 0)
    else do
      let e ← elemAt s (channelFmt s z false) g
      pure (e.map fun (v, _) => (linkIn s s.cur z.shape.et (m.lfmt.toNat % 16) v, false))
  else elemAt s z.shape.et g

/-- The runs of an operand's beat; what is sent lies in no buffer of this core. -/
def vRuns (s : State) (z : ZReg) (write : Bool) (gs : List Got) : List (Nat × Bool) :=
  if z.zm = 2 && write then [] else streamRuns s s.cur (vBits s z write) write gs

/-- R370. Does a channel stream fit the shape entry of its state? -/
def channelFits (z : ZReg) (entry : List Byte) : Bool :=
  decide (z.zpos = 0 ∧ z.shape.et = fieldAt entry 1 1 ∧ z.shape.rank = fieldAt entry 2 1) &&
    (List.range 4).all fun d => decide (z.shape.ext.getD d 0 = fieldAt entry (4 + 2 * d) 2)

/-- What the checks of a channel stream at issue come to. -/
inductive ChanCheck where
  | fine
  /-- A closed endpoint whose closure has been seen: the instruction completes without effect. -/
  | gone
  | trap (t : Trap)
  deriving DecidableEq, Repr

/-- R370, R334. The checks of a channel stream at issue; `whole` says that its message is used whole. -/
def channelCheck (s : State) (z : ZReg) (write whole : Bool) : ChanCheck :=
  let c := s.cur.core
  let n := z.zep
  let e := epOf s c n
  if decide (e.est ≠ .free) && decide (e.slot ≠ s.cur.slot) then .trap (trapProtocol 1 n)
  else if decide (e.est = .closed) && !(!write && msgReady s c n) then
    if e.seen then .gone else .trap ⟨6, BitVec.ofNat 64 (n + 256 * e.cname.toNat)⟩
  else
    let entry := entryOf s c n
    match stateCheck e (epRec s c n) (if write then 1 else 2) (some z.ztype.toNat) 0 true (whole && channelFits z entry) false with
    | 0 => .fine
    | cause => .trap (trapProtocol cause n)

/-- A V-form waits for a channel: its thread parks, or its buffer holds it. -/
def vPark (s : State) (k : Cond) : State := if s.buffered then repHold s else parkOn s k

/-- What an instruction named a channel stream must wait for, if anything (R203, R225, R339). -/
def channelWait (s : State) (z : ZReg) (write : Bool) : Option Cond :=
  let c := s.cur.core
  let e := epOf s c z.zep
  if write then
    if releaseWaits s then some .ack
    else if decide (e.est = .delegin) && !e.redirected then some (.redirected z.zep)
    else if e.credit = 0 then some (.credit z.zep)
    else none
  else if acquireWaits s then some .ack
  else if msgReady s c z.zep then none
  else some (.arrival z.zep)

/-- R370. Checks and parks of the channel streams of an instruction before its first beat: each with whether it is written
and used whole. -/
def withChannels (s : State) (zs : List (ZReg × Bool × Bool)) (body : State → State) : State :=
  let mine := zs.filter fun x => decide (x.1.zm = 2)
  if mine.isEmpty || !firstBeat s then body s
  else
    let results := mine.map fun (z, write, whole) => channelCheck s z write whole
    match results.find? (fun r => decide (r ≠ ChanCheck.fine)) with
    | some (.trap t) => raise s t
    | some _ => if s.buffered then s.mod fun th => { th with rep := { th.rep.next with due := nextOwn s.cyc s.cur.slot } }
      else retire s false 1
    | none =>
      match (mine.map fun (z, write, _) => channelWait s z write).find? Option.isSome with
      | some (some k) => vPark s k
      | _ => body (s.mod fun th => { th with finishing := !s.buffered })

/-- R370. At the last beat the messages read are consumed and the message formed is sent. -/
def endChannels (s : State) (d : ZReg) (srcs : List ZReg) : State :=
  let c := s.cur.core
  let s := (srcs.filter fun z => decide (z.zm = 2)).foldl (fun s z => consume s c z.zep (nextMsg s c z.zep)) s
  if d.zm ≠ 2 then s
  else
    let f := channelFmt s d true
    let lf := fieldAt (entryOf s c d.zep) 3 1
    let vals := (List.range d.shape.total).map fun p => match s.th.vrow.find? fun x => x.1 = 2 ^ 41 + p with
      | some (_, bs) => leNat bs
      | none => 0
    sendOn s c d.zep d.ztype (BitVec.ofNat 8 lf) (fleetId s s.th (epOf s c d.zep).peer) (packBits (etBits f) vals)

/-- R361, R370. The element formed for a destination: for a channel in the message's link format. -/
def vForm (s : State) (d : ZReg) (rc p : Nat) (v : VVal) : Formed :=
  if d.zm = 2 then
    let et := d.shape.et
    let f := channelFmt s d true
    let held (x : Pair) (q : Nat) (fl : Flags) : Formed :=
      let (n, fl') := roundInto s s.cur.core s.th.fmt f (walkMode s.th rc) (walkDraw s.th p) q x
      ⟨n, false, fl ||| fl', true⟩
    match v with
    | .raw n b =>
      if f = et && !b then ⟨n, false, 0, false⟩
      else held (elemPair s s.cur et (some (n, b))) (etQ et) 0
    | .held x q fl => held x q fl
    | .int i fl rounded =>
      if etInteger et then formElem s s.cur et rc p (.int i fl rounded)
      else
        let (r, fl') := roundOdd .w32 (.ofInt i) false
        held r 24 (fl ||| fl')
  else formElem s s.cur d.shape.et rc p v

/-- An element put at its place, or kept for the message. -/
def vPut (s : State) (d : ZReg) (g : Got) (e : Formed) : State :=
  if d.zm = 2 then
    match g.place with
    | some (_, p) => s.mod fun th => { th with vrow := th.vrow ++ [(2 ^ 41 + p, leBytes 4 e.bits)] }
    | none => s
  else putElem s d.shape.et g e

/-! ## Tags of tiles (R179, R362) -/

/-- R362. The metadata word of a stream that expects a tag: whether the stream is to be marked. -/
def tagCheck (s : State) (n : Nat) : Except Bad Bool := do
  let z := s.z n
  if z.zm ≠ 1 || z.shape.tagx = 0 || z.ztag then return false
  let pa ← windowPa s s.cur (z.zbase.toNat - 8) 8
  if poisoned s pa 8 then throw (.poison pa 8)
  let found := (readWord s pa).extractLsb' 0 32
  if found = z.shape.tagx then return true
  throw (.trap ⟨7, BitVec.ofNat 64 (n + found.toNat * 2 ^ 32)⟩)

/-- The tag checks of the streams a beat reads: those to be marked. -/
def tagChecks (s : State) (ns : List Nat) : Except Bad (List Nat) := do
  let marks ← ns.mapM fun n => do
    let b ← tagCheck s n
    pure (n, b)
  pure ((marks.filter fun m => m.2).map fun m => m.1)

/-- Streams marked as checked. -/
def markTags (s : State) (ns : List Nat) : State := ns.foldl (fun s n => s.modZ n fun z => { z with ztag := true }) s

/-! ## A beat of majors 52, 53, 55, 56 and 57 -/

/-- The positions that an operand reads for n destination elements from position p on. -/
def srcPositions (s : State) (x : VSrc) (cols : List (ZReg × List Elem)) (p n : Nat) : List (Nat × Option Int) :=
  let z := s.z x.reg
  match x with
  | .seq _ => nextPositions z 0 n
  | .fill _ => List.replicate n (z.zpos, none)
  | .scale _ blk => (List.range n).map fun j => ((p + j) / max 1 blk, none)
  | .by _ col =>
    let (zk, ks) := cols.getD col (z, [])
    ((nextPositions z 0 n).zip ks).map fun (q, e) => (q.1, some (elemInt zk.shape.et e))

/-- The operands of a beat, in order: their elements, places and runs. -/
def readCols (s : State) (p n : Nat) : List VSrc → List (ZReg × List Elem) →
    Except Bad (List (ZReg × List Elem) × List Got × List (Nat × Bool))
  | [], cols => .ok (cols, [], [])
  | x :: r, cols => do
    let z := s.z x.reg
    let gs ← (srcPositions s x cols p n).mapM fun (q, k) => vReach s z false q k
    let es ← gs.mapM (vElem s z)
    let (cols, more, runs) ← readCols s p n r (cols ++ [(z, es)])
    pure (cols, (if z.zm = 2 then [] else gs) ++ more, vRuns s z false gs ++ runs)

/-- An operand advanced past a beat of n elements: by what it supplied, once a stream (R360). -/
def advanceSrc (before : State) (s : State) (x : VSrc) (n : Nat) (last : Bool) : State :=
  let z := before.z x.reg
  let k := match x with
    | .seq _ => n
    | .by _ _ => n
    | .fill _ => if last then 1 else 0
    | .scale _ _ => 0
  if k = 0 then s else s.modZ x.reg fun y => { y with zpos := (z.zpos + k) % max 1 z.shape.total }

/-- The destination's places for n elements from its position on. -/
def destPlaces (s : State) (op : VOp) (n : Nat) (cols : List (ZReg × List Elem)) : Except Bad (List Got) :=
  let z := s.z op.d
  let ks : List (Option Int) := match op.dcol with
    | none => List.replicate n none
    | some c =>
      let (zk, es) := cols.getD c (z, [])
      es.map fun e => some (elemInt zk.shape.et e)
  ((nextPositions z 0 n).zip ks).mapM fun (q, k) => vReach s z true q.1 k

/-- Element j of an operand of a beat, as a held value. -/
def colPair (s : State) (cols : List (ZReg × List Elem)) (i j : Nat) : Pair :=
  let (z, es) := cols.getD i (ZReg.unbound, [])
  elemPair s s.cur z.shape.et (es.getD j none)

/-- Element j of an operand of a beat, as an integer. -/
def colInt (cols : List (ZReg × List Elem)) (i j : Nat) : Int :=
  let (z, es) := cols.getD i (ZReg.unbound, [])
  elemInt z.shape.et (es.getD j none)

/-- Element j of an operand as it stands: bits and S. -/
def colRaw (cols : List (ZReg × List Elem)) (i j : Nat) : VVal :=
  match (cols.getD i (ZReg.unbound, [])).2.getD j none with
  | some (v, b) => .raw v b
  | none => .raw 0 false

/-- The precision that carried values of these operands count with (R245). -/
def colQ (cols : List (ZReg × List Elem)) (is : List Nat) : Nat :=
  is.foldl (fun q i => min q (etQ (cols.getD i (ZReg.unbound, [])).1.shape.et)) 24

/-- The elements formed and written, with their flags and use of SRD. -/
def writeElems (s : State) (op : VOp) (vals : List (Got × Nat × VVal)) : State :=
  let d := s.z op.d
  let formed := (vals.filter fun x => x.1.place.isSome).map fun (g, p, v) => (g, vForm s d op.rc p v)
  let s' := formed.foldl (fun s x => vPut s d x.1 x.2) s
  s'.mod fun th => { th with
    vflags := formed.foldl (fun f x => f ||| x.2.fl) th.vflags
    vsrd := th.vsrd || formed.any fun x => x.2.rounded && (decide (walkMode th op.rc = 5) || decide (th.vrm = 5 ∧ etInteger d.shape.et)) }

/-- R360 to R362. A beat of a walk: every operand is read, the elements are formed, written and the positions advance. -/
def walkBeat (s : State) (op : VOp) (form : State → List (ZReg × List Elem) → Nat → VVal) : State :=
  let s := openWalk s
  let d := s.z op.d
  let left := d.shape.total - d.zpos
  let n := min (beatElems op.et d.shape.et) left
  match (do
    let (cols, gs, runs) ← readCols s d.zpos n op.srcs []
    let places ← destPlaces s op n cols
    if let some (pa, n) := (if d.zm = 2 then none else putsPoison s d.shape.et places) then throw (Bad.poison pa n)
    let marks ← tagChecks s (op.srcs.map VSrc.reg)
    pure (cols, gs, runs, places, marks)) with
  | .error b => stopWalk s b
  | .ok (cols, gs, runs, places, marks) =>
    let runs := runs ++ vRuns s d true places
    inBeat s runs (gs ++ (if d.zm = 2 then [] else places)) fun s cost =>
    let last := decide (n = left)
    let vals := (places.zip (List.range n)).map fun (g, j) => (g, d.zpos + j, form s cols j)
    let s' := markTags (writeElems s op vals) marks
    let s' := op.srcs.foldl (fun t x => advanceSrc s t x n last) s'
    let s' := s'.modZ op.d fun z => { z with zpos := (d.zpos + n) % max 1 d.shape.total }
    let s' := if last then endChannels s' d (op.srcs.map fun x => s.z x.reg) else s'
    endBeat s' last runs cost

/-- The elements an operand supplies to a whole instruction of N destination elements. -/
def supplied (x : VSrc) (n : Nat) : Nat :=
  match x with
  | .seq _ => n
  | .by _ _ => n
  | .fill _ => 1
  | .scale _ blk => (n + max 1 blk - 1) / max 1 blk

/-- The channel streams of an operation, with whether each message is used whole. -/
def vChannels (s : State) (op : VOp) : List (ZReg × Bool × Bool) :=
  let d := s.z op.d
  let n := d.shape.total - d.zpos
  op.srcs.map (fun x =>
    let z := s.z x.reg
    (z, false, decide (z.zpos = 0 ∧ supplied x n = z.shape.total))) ++ [(d, true, decide (d.zpos = 0))]

/-- R360. A V-form of majors 52, 53, 55, 56 or 57: its checks, then a beat. -/
def vInstr (s : State) (op : VOp) (ok : Bool) (classes : List (Nat → Bool))
    (form : State → List (ZReg × List Elem) → Nat → VVal) : Out :=
  issue s [] [] ok fun s =>
    if !vOk s op classes then raise s (trapIllegal s)
    else afterRun s fun s => withChannels s (vChannels s op) fun s => walkBeat s op form

/-! ## Major 52: elementwise arithmetic (R363, R364) -/

/-- Does an et field name an integer destination? -/
def intEt (t : BitVec 3) : Bool := etInt t

/-- The class an et field demands of its sources. -/
def classOf (t : BitVec 3) : Nat → Bool := if intEt t then etInteger else etFloating

/-- A held result with q 24. -/
def held24 (r : Pair × Flags) : VVal := .held r.1 24 r.2

/-- An instruction of one class in all its operands: a floating function of held values, or an integer one of exact
values. -/
def elementwise (s : State) (r : BitVec 2) (t : BitVec 3) (ok : Bool) (srcs : List (BitVec 3)) (d : BitVec 3)
    (ff : List Pair → List Nat → VVal) (fi : List Int → Int) : Out :=
  let op : VOp := ⟨t.toNat, r.toNat, d.toNat, srcs.map fun z => .seq z.toNat, none⟩
  vInstr s op ok (srcs.map fun _ => classOf t) fun s cols j =>
    let is := List.range srcs.length
    if intEt t then .int (fi (is.map fun i => colInt cols i j)) 0 false
    else ff (is.map fun i => colPair s cols i j) (is.map fun i => colQ cols [i])

/-- Operand i of a list of held values. -/
def px (l : List Pair) (i : Nat) : Pair := l.getD i .zero
/-- Operand i of a list of integers. -/
def ix (l : List Int) (i : Nat) : Int := l.getD i 0

/-- R363. VADD. -/
def execVadd (r : BitVec 2) (t b a d : BitVec 3) (s : State) : Out :=
  elementwise s r t (okRound r t) [a, b] d (fun l _ => held24 (fadd (px l 0) (px l 1))) fun l => ix l 0 + ix l 1

/-- R363. VSUB. -/
def execVsub (r : BitVec 2) (t b a d : BitVec 3) (s : State) : Out :=
  elementwise s r t (okRound r t) [a, b] d (fun l _ => held24 (fsub (px l 0) (px l 1))) fun l => ix l 0 - ix l 1

/-- R363. VMUL. -/
def execVmul (r : BitVec 2) (t b a d : BitVec 3) (s : State) : Out :=
  elementwise s r t (okRound r t) [a, b] d (fun l _ => held24 (fmul (px l 0) (px l 1))) fun l => ix l 0 * ix l 1

/-- R363. VFMA. -/
def execVfma (r : BitVec 2) (t c b a d : BitVec 3) (s : State) : Out :=
  elementwise s r t (okRound r t) [a, b, c] d (fun l _ => held24 (ffma (px l 0) (px l 1) (px l 2)))
    fun l => ix l 0 * ix l 1 + ix l 2

/-- R245, R248. One of the operands carried to the write, with the precision of the stream it was read from; of equal
operands the narrower. -/
def carried (l : List Pair) (qs : List Nat) (r : Pair) : VVal :=
  .held (canon r) (((l.zip qs).filter fun x => decide (x.1 = r)).foldl (fun q x => min q x.2) 24) 0

/-- R363, R248. VMIN. -/
def execVmin (r : BitVec 2) (t b a d : BitVec 3) (s : State) : Out :=
  elementwise s r t (okRound r t) [a, b] d (fun l q => carried l q (fminmax false (px l 0) (px l 1)))
    fun l => min (ix l 0) (ix l 1)

/-- R363, R248. VMAX. -/
def execVmax (r : BitVec 2) (t b a d : BitVec 3) (s : State) : Out :=
  elementwise s r t (okRound r t) [a, b] d (fun l q => carried l q (fminmax true (px l 0) (px l 1)))
    fun l => max (ix l 0) (ix l 1)

/-- R363. VABS. -/
def execVabs (r : BitVec 2) (t a d : BitVec 3) (s : State) : Out :=
  elementwise s r t (okRound r t) [a] d (fun l q => .held (canon ⟨(px l 0).x.withSign false, (px l 0).s⟩) (q.getD 0 24) 0)
    fun l => ((ix l 0).natAbs : Int)

/-- R363. VNEG. -/
def execVneg (r : BitVec 2) (t a d : BitVec 3) (s : State) : Out :=
  elementwise s r t (okRound r t) [a] d (fun l q => .held (canon (px l 0).neg) (q.getD 0 24) 0) fun l => -(ix l 0)

/-- R363. VCLAMP. -/
def execVclamp (r : BitVec 2) (t c b a d : BitVec 3) (s : State) : Out :=
  elementwise s r t (okRound r t) [a, b, c] d
    (fun l q => carried l q (fminmax false (fminmax true (px l 0) (px l 1)) (px l 2)))
    fun l => min (max (ix l 0) (ix l 1)) (ix l 2)

/-- The class of a copy: the source type is the destination's. -/
def sameEt (s : State) (d : BitVec 3) : Nat → Bool := fun ty => decide (ty = (s.z d.toNat).shape.et)

/-- R363. VCPY. -/
def execVcpy (t a d : BitVec 3) (s : State) : Out :=
  vInstr s ⟨t.toNat, 0, d.toNat, [.seq a.toNat], none⟩ true [sameEt s d] fun _ cols j => colRaw cols 0 j

/-- R363. VFILL. -/
def execVfill (t a d : BitVec 3) (s : State) : Out :=
  vInstr s ⟨t.toNat, 0, d.toNat, [.fill a.toNat], none⟩ true [sameEt s d] fun _ cols j => colRaw cols 0 j

/-- R364. The block size of a zc field. -/
def blkOf (c : BitVec 3) : Nat := if c = 0 then 8 else if c = 1 then 16 else if c = 2 then 32 else 1

/-- R364. VSCL: zb may be E8M0, FP8, BF16 or W32. -/
def execVscl (r : BitVec 2) (t c b a d : BitVec 3) (s : State) : Out :=
  vInstr s ⟨t.toNat, r.toNat, d.toNat, [.seq a.toNat, .scale b.toNat (blkOf c)], none⟩ (okRound r t && !etInt t && okBlk c)
    [etFloating, fun ty => decide (ty = 15 ∨ ty = 5 ∨ ty = 6 ∨ ty = 3 ∨ ty = 1)]
    fun s cols j => held24 (fmul (colPair s cols 0 j) (colPair s cols 1 j))

/-! ## Major 53: special functions (R365) -/

/-- A special function of one stream, narrowed to precision q. -/
def special (s : State) (r : BitVec 2) (t a d : BitVec 3) (q : Nat) (f : Pair → Pair × Flags) : Out :=
  vInstr s ⟨t.toNat, r.toNat, d.toNat, [.seq a.toNat], none⟩ (okRound r t && !etInt t) [etFloating] fun s cols j =>
    let v := f (colPair s cols 0 j)
    .held v.1 q v.2

/-- R365. VEXP2. -/
def execVexp2 (r : BitVec 2) (t a d : BitVec 3) (s : State) : Out := special s r t a d 11 fexp2
/-- R365. VLOG2. -/
def execVlog2 (r : BitVec 2) (t a d : BitVec 3) (s : State) : Out := special s r t a d 11 flog2
/-- R365. VRCP. -/
def execVrcp (r : BitVec 2) (t a d : BitVec 3) (s : State) : Out := special s r t a d 24 frcp
/-- R365. VRSQ. -/
def execVrsq (r : BitVec 2) (t a d : BitVec 3) (s : State) : Out := special s r t a d 24 frsq
/-- R365. VSQRT. -/
def execVsqrt (r : BitVec 2) (t a d : BitVec 3) (s : State) : Out := special s r t a d 24 fsqrt
/-- R365. VTANH. -/
def execVtanh (r : BitVec 2) (t a d : BitVec 3) (s : State) : Out := special s r t a d 11 ftanh
/-- R365. VSIGM. -/
def execVsigm (r : BitVec 2) (t a d : BitVec 3) (s : State) : Out := special s r t a d 11 fsigm

/-! ## Major 55: compare, select and logic (R367) -/

/-- The relations of VCMP, by vfn: of a floating comparison. -/
def relFloat (v : Nat) (c : Cmp) : Bool :=
  match v with
  | 0 => decide (c = .eq)
  | 1 => decide (c ≠ .eq)
  | 2 => decide (c = .lt)
  | 3 => decide (c = .lt ∨ c = .eq)
  | 4 => decide (c = .gt)
  | _ => decide (c = .gt ∨ c = .eq)

/-- The same of two integers. -/
def relInt (v : Nat) (a b : Int) : Bool :=
  match v with
  | 0 => decide (a = b)
  | 1 => decide (a ≠ b)
  | 2 => decide (a < b)
  | 3 => decide (a ≤ b)
  | 4 => decide (b < a)
  | _ => decide (b ≤ a)

/-- R367. VCMP: both sources floating, or both integer. -/
def compareStreams (s : State) (v : Nat) (r : BitVec 2) (t b a d : BitVec 3) : Out :=
  let fl := etFloating (s.z a.toNat).shape.et
  let cls : Nat → Bool := if fl then etFloating else etInteger
  vInstr s ⟨t.toNat, r.toNat, d.toNat, [.seq a.toNat, .seq b.toNat], none⟩ (okRound r t && etInt t) [cls, cls] fun s cols j =>
    let hit := if fl then relFloat v (cmpPair (colPair s cols 0 j) (colPair s cols 1 j))
      else relInt v (colInt cols 0 j) (colInt cols 1 j)
    .int (if hit then 1 else 0) 0 false

/-- R367. VCMP.eq. -/
def execVcmpEq (r : BitVec 2) (t b a d : BitVec 3) (s : State) : Out := compareStreams s 0 r t b a d
/-- R367. VCMP.ne. -/
def execVcmpNe (r : BitVec 2) (t b a d : BitVec 3) (s : State) : Out := compareStreams s 1 r t b a d
/-- R367. VCMP.lt. -/
def execVcmpLt (r : BitVec 2) (t b a d : BitVec 3) (s : State) : Out := compareStreams s 2 r t b a d
/-- R367. VCMP.le. -/
def execVcmpLe (r : BitVec 2) (t b a d : BitVec 3) (s : State) : Out := compareStreams s 3 r t b a d
/-- R367. VCMP.gt. -/
def execVcmpGt (r : BitVec 2) (t b a d : BitVec 3) (s : State) : Out := compareStreams s 4 r t b a d
/-- R367. VCMP.ge. -/
def execVcmpGe (r : BitVec 2) (t b a d : BitVec 3) (s : State) : Out := compareStreams s 5 r t b a d

/-- R367. VSEL: a where c is not 0, else b; zc is an integer stream. -/
def execVsel (r : BitVec 2) (t c b a d : BitVec 3) (s : State) : Out :=
  vInstr s ⟨t.toNat, r.toNat, d.toNat, [.seq a.toNat, .seq b.toNat, .seq c.toNat], none⟩ (okRound r t)
    [classOf t, classOf t, etInteger] fun s cols j =>
      let i := if colInt cols 2 j ≠ 0 then 0 else 1
      if intEt t then .int (colInt cols i j) 0 false else .held (colPair s cols i j) (colQ cols [i]) 0

/-- R367. A bitwise or shift function of two integers taken modulo the destination's width; `w` the width, `sg` whether
the destination type is signed. -/
def logicStreams (s : State) (r : BitVec 2) (t b a d : BitVec 3) (f : Nat → Bool → Nat → Nat → Int) : Out :=
  vInstr s ⟨t.toNat, r.toNat, d.toNat, [.seq a.toNat, .seq b.toNat], none⟩ (okRound r t && etInt t) [etInteger, etInteger]
    fun s cols j =>
      let ty := (s.z d.toNat).shape.et
      let w := etBits ty
      let m (i : Int) : Nat := (i % 2 ^ w).toNat
      .int (f w (decide (ty = 8 ∨ ty = 9 ∨ ty = 12)) (m (colInt cols 0 j)) (m (colInt cols 1 j))) 0 false

/-- R367. VAND. -/
def execVand (r : BitVec 2) (t b a d : BitVec 3) (s : State) : Out :=
  logicStreams s r t b a d fun _ _ x y => ((x &&& y : Nat) : Int)
/-- R367. VOR. -/
def execVor (r : BitVec 2) (t b a d : BitVec 3) (s : State) : Out :=
  logicStreams s r t b a d fun _ _ x y => ((x ||| y : Nat) : Int)
/-- R367. VXOR. -/
def execVxor (r : BitVec 2) (t b a d : BitVec 3) (s : State) : Out :=
  logicStreams s r t b a d fun _ _ x y => ((x ^^^ y : Nat) : Int)
/-- R367. VSHL. -/
def execVshl (r : BitVec 2) (t b a d : BitVec 3) (s : State) : Out :=
  logicStreams s r t b a d fun w _ x y => ((x * 2 ^ (y % w) : Nat) : Int)
/-- R367. VSHR: arithmetic for types 8, 9 and 12. -/
def execVshr (r : BitVec 2) (t b a d : BitVec 3) (s : State) : Out :=
  logicStreams s r t b a d fun w sg x y => (if sg then signedOf w x else (x : Int)) / ((2 ^ (y % w) : Nat) : Int)

/-! ## Major 56: gather, scatter, shuffle and index (R368) -/

/-- R368. VGATH: za has IDXV clear. -/
def execVgath (t b a d : BitVec 3) (s : State) : Out :=
  vInstr s ⟨t.toNat, 0, d.toNat, [.seq b.toNat, .by a.toNat 0], none⟩ true
    [etInteger, fun ty => sameEt s d ty && !(s.z a.toNat).shape.idxv] fun _ cols j => colRaw cols 1 j

/-- R368. VSCAT: zd has IDXV clear. -/
def execVscat (t b a d : BitVec 3) (s : State) : Out :=
  vInstr s ⟨t.toNat, 0, d.toNat, [.seq b.toNat, .seq a.toNat], some 0⟩ true
    [etInteger, fun ty => sameEt s d ty && !(s.z d.toNat).shape.idxv] fun _ cols j => colRaw cols 1 j

/-- R368. VSHUF: destination element j of a beat is window element k, or zero when k lies beyond the window. -/
def execVshuf (t b a d : BitVec 3) (s : State) : Out :=
  vInstr s ⟨t.toNat, 0, d.toNat, [.seq b.toNat, .seq a.toNat], none⟩ true [etInteger, sameEt s d] fun _ cols j =>
    let k := colInt cols 0 j
    if 0 ≤ k then colRaw cols 1 k.toNat else .raw 0 false

/-- R368. VIOTA. -/
def execViota (r : BitVec 2) (t d : BitVec 3) (s : State) : Out :=
  vInstr s ⟨t.toNat, r.toNat, d.toNat, [], none⟩ (okRound r t) [] fun s _ j =>
    let z := s.z d.toNat
    let p := z.zpos + j
    if z.shape.distv then
      (match walkCoords s s.cur z p none with
      | .ok (c, _) => .int (((globalCoords s s.cur z c).map (globalIndex z)).getD 0) 0 false
      | .error _ => .int 0 0 false)
    else .int p 0 false

/-! ## Major 57: conversion and coding (R369) -/

/-- R369, R259. VCVT: any source type but 15. -/
def execVcvt (r : BitVec 2) (t a d : BitVec 3) (s : State) : Out :=
  vInstr s ⟨t.toNat, r.toNat, d.toNat, [.seq a.toNat], none⟩ (okRound r t) [fun ty => etFloating ty || etInteger ty]
    fun s cols j =>
      let src := (s.z a.toNat).shape.et
      let z := s.z d.toNat
      let (lo, hi) := etRange z.shape.et
      if etFloating src then
        if intEt t then
          let (i, fl) := floatToInt lo hi s.th.vrm (walkDraw s.th (z.zpos + j)) (colPair s cols 0 j)
          .int i fl true
        else .held (colPair s cols 0 j) (etQ src) 0
      else if intEt t then
        let (i, fl) := saturate lo hi (colInt cols 0 j)
        .int i fl false
      else .int (colInt cols 0 j) 0 false

/-- The value 2^k as a pair. -/
def powerOf (k : Int) : Pair := ⟨.fin false 1 k, false⟩

/-- R364, R369. The factor an E8M0 scale gives: 2^(e - 127) for decoding, 2^(127 - e) for encoding, NaN for code 255. -/
def e8m0Factor (cols : List (ZReg × List Elem)) (j : Nat) (encode : Bool) : Pair :=
  match (cols.getD 1 (ZReg.unbound, [])).2.getD j none with
  | some (e, _) => if e = 255 then ⟨.nan, false⟩ else powerOf (if encode then 127 - (e : Int) else (e : Int) - 127)
  | none => .zero

/-- R369. VQENC. -/
def execVqenc (r : BitVec 2) (t c b a d : BitVec 3) (s : State) : Out :=
  vInstr s ⟨t.toNat, r.toNat, d.toNat, [.seq a.toNat, .scale b.toNat (blkOf c)], none⟩
    (okRound r t && okBlk c && decide (t = 6#3 ∨ t = 7#3)) [etFloating, fun ty => decide (ty = 15)] fun s cols j =>
      held24 (fmul (colPair s cols 0 j) (e8m0Factor cols j true))

/-- R369. VQDEC: za of type 5, 6, 7, 10 or 11. -/
def execVqdec (r : BitVec 2) (t c b a d : BitVec 3) (s : State) : Out :=
  vInstr s ⟨t.toNat, r.toNat, d.toNat, [.seq a.toNat, .scale b.toNat (blkOf c)], none⟩
    (okRound r t && okBlk c && decide (t.toNat ≤ 3))
    [fun ty => decide (ty = 5 ∨ ty = 6 ∨ ty = 7 ∨ ty = 10 ∨ ty = 11), fun ty => decide (ty = 15)] fun s cols j =>
      held24 (fmul (colPair s cols 0 j) (e8m0Factor cols j false))

/-! ## Major 54: rows (R366) -/

/-- An element of the row in progress as kept: four bytes, then 0 plain, 1 with S, 2 nothing there. -/
def keepElem (e : Elem) : List Byte :=
  match e with
  | some (v, b) => leBytes 4 v ++ [if b then 1 else 0]
  | none => leBytes 4 0 ++ [2]

/-- An element kept. -/
def keptElem (bs : List Byte) : Elem :=
  let k := fieldAt bs 4 1
  if k = 2 then none else some (fieldAt bs 0 4, decide (k = 1))

/-- The elements kept of the row in progress: of za (0) or zb (1). -/
def keptRow (th : Thread) (which : Nat) : List Elem :=
  (th.vrow.filter fun x => decide (x.1 < 2 ^ 40 ∧ x.1 % 2 = which)).map fun x => keptElem x.2

/-- The flags and the use of SRD of the row in progress (VSCAN). -/
def keptFlags (th : Thread) : Flags × Bool :=
  match th.vrow.find? fun x => x.1 = 2 ^ 40 with
  | some (_, bs) => (BitVec.ofNat 8 (fieldAt bs 0 1), decide (fieldAt bs 1 1 = 1))
  | none => (0, false)

/-- What the walk keeps of an unfinished row. -/
def keepRow (th : Thread) (as bs : List Elem) (fl : Flags × Bool) : Thread :=
  { th with
    vphase := as.length
    vrow := (th.vrow.filter fun x => decide (2 ^ 41 ≤ x.1)) ++
      ((as.zip (List.range as.length)).map fun (e, j) => (2 * j, keepElem e)) ++
      ((bs.zip (List.range bs.length)).map fun (e, j) => (2 * j + 1, keepElem e)) ++
      [(2 ^ 40, [fl.1, if fl.2 then 1 else 0])] }

/-- The streams of a row instruction in order: za, and zb of VDOT. -/
def rowSrcs (op : VOp) : List Nat := op.srcs.map VSrc.reg

/-- R366. A beat of VRSUM, VRMAX, VRMIN, VDOT or VCOUNT: E source elements; every row that becomes whole gives its
destination element, and the positions advance past it. `form` gives the value of a row. -/
def rowBeat (s : State) (op : VOp) (form : State → List Elem → List Elem → VVal) : State :=
  let s := openWalk s
  let d := s.z op.d
  let ns := rowSrcs op
  let za := s.z (ns.getD 0 0)
  let len := max 1 (za.shape.ext.getD 0 1)
  let ph := s.th.vphase
  let left := (d.shape.total - d.zpos) * len - ph
  let n := min (beatElems op.et d.shape.et) left
  match (do
    let parts ← ns.mapM fun i => do
      let z := s.z i
      let gs ← (nextPositions z ph n).mapM fun (q, k) => vReach s z false q k
      let es ← gs.mapM (vElem s z)
      pure (gs, es, vRuns s z false gs)
    let rows := (ph + n) / len
    let places ← (nextPositions d 0 rows).mapM fun (q, k) => vReach s d true q k
    if let some (pa, n) := (if d.zm = 2 then none else putsPoison s d.shape.et places) then throw (Bad.poison pa n)
    let marks ← tagChecks s ns
    pure (parts, places, marks)) with
  | .error b => stopWalk s b
  | .ok (parts, places, marks) =>
    let runs := (parts.flatMap fun p => p.2.2) ++ vRuns s d true places
    inBeat s runs ((parts.flatMap fun p => p.1) ++ (if d.zm = 2 then [] else places)) fun s cost =>
    let as := keptRow s.th 0 ++ (parts.map fun p => p.2.1).getD 0 []
    let bs := keptRow s.th 1 ++ (parts.map fun p => p.2.1).getD 1 []
    let rows := places.length
    let last := decide (n = left)
    let row (l : List Elem) (i : Nat) : List Elem := (l.drop (i * len)).take len
    let vals := (places.zip (List.range rows)).map fun (g, i) => (g, d.zpos + i, form s (row as i) (row bs i))
    let s' := markTags (writeElems s op vals) marks
    let s' := ns.foldl (fun t i =>
      let z := s.z i
      t.modZ i fun y => { y with zpos := (z.zpos + rows * len) % max 1 z.shape.total }) s'
    let s' := s'.modZ op.d fun z => { z with zpos := (d.zpos + rows) % max 1 d.shape.total }
    let s' := s'.mod fun th => keepRow th (as.drop (rows * len)) (bs.drop (rows * len)) (0, false)
    let s' := if last then endChannels s' d (ns.map s.z) else s'
    endBeat s' last runs cost

/-- R366. A beat of VSCAN: every source element gives its destination element at once; positions, flags and the use of SRD
stand at the start of the row in progress until the row, or the walk, ends. -/
def scanBeat (s : State) (op : VOp) (form : State → List Elem → VVal) : State :=
  let s := openWalk s
  let d := s.z op.d
  let i := (rowSrcs op).getD 0 0
  let z := s.z i
  let len := max 1 (z.shape.ext.getD 0 1)
  let ph := s.th.vphase
  let left := d.shape.total - d.zpos - ph
  let n := min (beatElems op.et d.shape.et) left
  match (do
    let gs ← (nextPositions z ph n).mapM fun (q, k) => vReach s z false q k
    let es ← gs.mapM (vElem s z)
    let places ← (nextPositions d ph n).mapM fun (q, k) => vReach s d true q k
    if let some (pa, n) := (if d.zm = 2 then none else putsPoison s d.shape.et places) then throw (Bad.poison pa n)
    let marks ← tagChecks s [i]
    pure (gs, es, places, marks)) with
  | .error b => stopWalk s b
  | .ok (gs, es, places, marks) =>
    let runs := vRuns s z false gs ++ vRuns s d true places
    inBeat s runs (gs ++ (if d.zm = 2 then [] else places)) fun s cost =>
    let all := keptRow s.th 0 ++ es
    let last := decide (n = left)
    let total := all.length
    -- whole rows, and at the end of the walk what is left of one
    let done := if last then total else total / len * len
    let prior (j : Nat) : List Elem := (all.drop ((ph + j) / len * len)).take ((ph + j) % len + 1)
    let formed := ((places.zip (List.range n)).filter fun x => x.1.place.isSome).map fun (g, j) =>
      (g, ph + j, vForm s d op.rc (d.zpos + ph + j) (form s (prior j)))
    let gather (l : List (Got × Nat × Formed)) (x : Flags × Bool) : Flags × Bool :=
      (l.foldl (fun f e => f ||| e.2.2.fl) x.1, x.2 || l.any fun e => e.2.2.rounded && decide (walkMode s.th op.rc = 5))
    let closed := gather (formed.filter fun e => e.2.1 < done) (keptFlags s.th)
    let opened := gather (formed.filter fun e => done ≤ e.2.1) (if done = 0 then keptFlags s.th else (0, false))
    let s' := markTags (formed.foldl (fun s x => vPut s d x.1 x.2.2) s) marks
    let s' := if done = 0 then s' else s'.mod fun th => { th with
      vflags := th.vflags ||| closed.1, vsrd := th.vsrd || closed.2 }
    let s' := s'.modZ i fun y => { y with zpos := (z.zpos + done) % max 1 z.shape.total }
    let s' := s'.modZ op.d fun y => { y with zpos := (d.zpos + done) % max 1 d.shape.total }
    let s' := s'.mod fun th => keepRow th (all.drop done) [] opened
    let s' := if last then endChannels s' d [z] else s'
    endBeat s' last runs cost

/-- The channel streams of a row instruction; a source is used whole when the instruction's elements are its T. -/
def rowChannels (s : State) (op : VOp) (scan : Bool) : List (ZReg × Bool × Bool) :=
  let d := s.z op.d
  let len := (s.z ((rowSrcs op).getD 0 0)).shape.ext.getD 0 1
  let n := (d.shape.total - d.zpos) * (if scan then 1 else len)
  (rowSrcs op).map (fun i => (s.z i, false, decide ((s.z i).zpos = 0 ∧ n = (s.z i).shape.total))) ++
    [(d, true, decide (d.zpos = 0))]

/-- R366. A row instruction: its checks, then a beat. -/
def rowInstr (s : State) (r : BitVec 2) (t : BitVec 3) (srcs : List (BitVec 3)) (d : BitVec 3) (ok : Bool)
    (cls : Nat → Bool) (form : State → List Elem → List Elem → VVal) : Out :=
  let op : VOp := ⟨t.toNat, r.toNat, d.toNat, srcs.map fun z => .seq z.toNat, none⟩
  issue s [] [] ok fun s =>
    if !vOk s op (srcs.map fun _ => cls) then raise s (trapIllegal s)
    else afterRun s fun s => withChannels s (rowChannels s op false) fun s => rowBeat s op form

/-- The held values of a row of a stream. -/
def rowPairs (s : State) (n : BitVec 3) (l : List Elem) : List Pair :=
  l.map fun e => elemPair s s.cur (s.z n.toNat).shape.et e

/-- The exact values of a row of an integer stream. -/
def rowInts (s : State) (n : BitVec 3) (l : List Elem) : List Int := l.map fun e => elemInt (s.z n.toNat).shape.et e

/-- R366, R255. VRSUM. -/
def execVrsum (r : BitVec 2) (t a d : BitVec 3) (s : State) : Out :=
  rowInstr s r t [a] d (okRound r t) (classOf t) fun s l _ =>
    if intEt t then .int (rowInts s a l).sum 0 false else held24 (sumRow (rowPairs s a l))

/-- A fold of FMIN or FMAX, or of the integer order, over a row. -/
def rowFold (s : State) (mx : Bool) (t a : BitVec 3) (l : List Elem) : VVal :=
  if intEt t then
    match rowInts s a l with
    | [] => .int 0 0 false
    | x :: r => .int (r.foldl (fun m y => if mx then max m y else min m y) x) 0 false
  else match rowPairs s a l with
    | [] => .held .zero 24 0
    | x :: r => .held (canon (r.foldl (fminmax mx) x)) (etQ (s.z a.toNat).shape.et) 0

/-- R366, R248. VRMAX. -/
def execVrmax (r : BitVec 2) (t a d : BitVec 3) (s : State) : Out :=
  rowInstr s r t [a] d (okRound r t) (classOf t) fun s l _ => rowFold s true t a l

/-- R366, R248. VRMIN. -/
def execVrmin (r : BitVec 2) (t a d : BitVec 3) (s : State) : Out :=
  rowInstr s r t [a] d (okRound r t) (classOf t) fun s l _ => rowFold s false t a l

/-- The sum of products of two rows of held values, summed as R255 gives with no prior value. -/
def dotPairs (as bs : List Pair) : Pair × Flags :=
  let ps := (as.zip bs).map fun (x, y) => mulPair x y
  let (v, fl) := sumRow (ps.map fun p => p.1)
  (v, ps.foldl (fun f p => f ||| p.2) fl)

/-- R366. VDOT. -/
def execVdot (r : BitVec 2) (t b a d : BitVec 3) (s : State) : Out :=
  rowInstr s r t [a, b] d (okRound r t) (classOf t) fun s la lb =>
    if intEt t then .int (((rowInts s a la).zip (rowInts s b lb)).map fun (x, y) => x * y).sum 0 false
    else held24 (dotPairs (rowPairs s a la) (rowPairs s b lb))

/-- Is an element's value other than zero? A zero with S set, and a NaN, count (R366). -/
def nonzero (s : State) (n : BitVec 3) (e : Elem) : Bool :=
  let et := (s.z n.toNat).shape.et
  if etInteger et then decide (elemInt et e ≠ 0)
  else
    let p := elemPair s s.cur et e
    p.s || !p.x.isZero

/-- R366. VCOUNT. -/
def execVcount (r : BitVec 2) (t a d : BitVec 3) (s : State) : Out :=
  rowInstr s r t [a] d (okRound r t && etInt t) (fun ty => etFloating ty || etInteger ty) fun s l _ =>
    .int ((l.filter (nonzero s a)).length : Nat) 0 false

/-- R366. VSCAN. -/
def execVscan (r : BitVec 2) (t a d : BitVec 3) (s : State) : Out :=
  let op : VOp := ⟨t.toNat, r.toNat, d.toNat, [.seq a.toNat], none⟩
  issue s [] [] (okRound r t) fun s =>
    if !vOk s op [classOf t] then raise s (trapIllegal s)
    else afterRun s fun s => withChannels s (rowChannels s op true) fun s => scanBeat s op fun s l =>
      if intEt t then .int (rowInts s a l).sum 0 false else held24 (sumRow (rowPairs s a l))

end Sys2Proof.Machine
end

