-- ==== Sys2Proof/Machine/Matrix.lean ====
section
/-! DEFINITION. Matrix instructions, majors 60 to 62 (R372 to R391): the descriptor, the accumulators, the matrix unit with
its queue, its beats and its commits, grids of cores with their operand blocks and swap messages, and the epilogue. -/

namespace Sys2Proof.Machine

/-! ## The descriptor (R374) -/

/-- MDIM. -/
def mdM (d : List Byte) : Nat := fieldAt d 0 1
/-- NDIM. -/
def mdN (d : List Byte) : Nat := fieldAt d 1 1
/-- KDIM. -/
def mdK (d : List Byte) : Nat := fieldAt d 2 2
/-- SFMT. -/
def mdSfmt (d : List Byte) : Nat := fieldAt d 4 1
/-- BLK. -/
def mdBlk (d : List Byte) : Nat := fieldAt d 5 1
/-- The A-scale stream of ZS. -/
def mdZsa (d : List Byte) : Nat := fieldAt d 6 1 % 8
/-- The B-scale stream of ZS. -/
def mdZsb (d : List Byte) : Nat := fieldAt d 6 1 / 16 % 8
/-- TSF. -/
def mdTsf (d : List Byte) : Nat := fieldAt d 7 1
/-- EACT. -/
def mdAct (d : List Byte) : Nat := fieldAt d 0x10 1
/-- GW. -/
def mdGw (d : List Byte) : Nat := fieldAt d 0x11 1 % 8 + 1
/-- GH. -/
def mdGh (d : List Byte) : Nat := fieldAt d 0x11 1 / 16 % 8 + 1
/-- GX. -/
def mdGx (d : List Byte) : Nat := fieldAt d 0x12 1
/-- GY. -/
def mdGy (d : List Byte) : Nat := fieldAt d 0x13 1
/-- ESEQ. -/
def mdEseq (d : List Byte) : Nat := fieldAt d 0x14 4

/-- The width of a tensor-scale format: TSA and TSB hold zero above it. -/
def tsfWidth (f : Nat) : Nat := if f = 1 then 32 else if f = 3 then 16 else if f = 0 then 0 else 8

/-- R374, R375. Is a descriptor valid? -/
def mdOk (d : List Byte) : Bool :=
  let f := mdSfmt d
  let t := mdTsf d
  decide (1 ≤ mdM d ∧ mdM d ≤ 64 ∧ 1 ≤ mdN d ∧ mdN d ≤ 64 ∧ 1 ≤ mdK d ∧ mdK d ≤ 8192) &&
    decide (f = 0 ∨ f = 5 ∨ f = 6 ∨ f = 15) &&
    (if f = 0 then decide (mdBlk d = 0 ∧ fieldAt d 6 1 = 0) else decide (mdBlk d = 8 ∨ mdBlk d = 16 ∨ mdBlk d = 32)) &&
    decide (fieldAt d 6 1 / 8 % 2 = 0 ∧ fieldAt d 6 1 / 128 = 0) &&
    decide (t = 0 ∨ t = 1 ∨ t = 3 ∨ t = 5 ∨ t = 6 ∨ t = 15) &&
    decide (fieldAt d 8 4 < 2 ^ tsfWidth t ∧ fieldAt d 0xC 4 < 2 ^ tsfWidth t) && decide (mdAct d ≤ 4) &&
    decide (fieldAt d 0x11 1 / 8 % 2 = 0 ∧ fieldAt d 0x11 1 / 128 = 0) && decide (fieldAt d 0x18 8 = 0)

/-! ## Accumulators (R372) -/

/-- An element of +0 with S clear. -/
def melemZero : MElem := ⟨0, false⟩

/-- R372. The place of element (i, j) of a tile named by accumulator a. -/
def accIndex (a i j : Nat) : Nat := 1024 * ((a + 2 * (i / 32) + j / 32) % 4) + 32 * (i % 32) + j % 32

/-- An accumulator element. -/
def accOf (s : State) (c : CoreId) (k : Nat) : MElem := (coreOf s c).acc.get k melemZero

/-- The held value of an element. -/
def melemPair (e : MElem) : Pair := ⟨decodeW32 e.bits, e.s⟩

/-- The element of a held value. -/
def melemOf (p : Pair) : MElem := ⟨encodeW32 p.x, match p.x with | .nan => false | _ => p.s⟩

/-- The exact integer of an element of the integer class. -/
def melemInt (e : MElem) : Int := e.bits.toInt

/-! ## Classes (R376) -/

/-- R376. Does an operand class admit an element type? -/
def classAdmits (cls et : Nat) : Bool :=
  match cls with
  | 0 => decide (et = 1)
  | 1 => decide (et = 2)
  | 2 => decide (et = 3)
  | 3 => decide (et = 4)
  | 4 => decide (et = 9 ∨ et = 14)
  | 5 => decide (et = 8 ∨ et = 12 ∨ et = 13)
  | 6 => decide (et = 5 ∨ et = 6 ∨ et = 10)
  | _ => decide (et = 7 ∨ et = 11)

/-- R376. R, the multiply-accumulates of a cycle. -/
def classRate (cls : Nat) : Nat :=
  match cls with
  | 0 => 128
  | 1 => 512
  | 2 => 512
  | 3 => 512
  | 5 => 1024
  | 6 => 1024
  | _ => 2048

/-- Is the class the integer one? -/
def classInt (cls : Nat) : Bool := decide (cls = 4 ∨ cls = 5)

/-! ## Issue (R377, R378, R380) -/

/-- R380. Is another slot of the core inside a static region? -/
def otherRegion (s : State) (t : ThreadId) : Bool :=
  s.threads.any fun (u, th) => decide (u.core = t.core ∧ u.slot ≠ t.slot) && stSrg th.status

/-- R377, R380, R182. An M-form: on a compute core only; it waits for its thread's repetition run, and for the static region
of another slot. -/
def mForm (s : State) (rd wr : List (BitVec 7)) (ok : Bool) (body : State → State) : Out :=
  issue s rd wr (ok && s.cur.core.isCompute) fun s =>
    afterRun s fun s => if otherRegion s s.cur then vPark s .region else body s

/-- The matrix unit of a core accepts its next instruction in the coming cycle when it is idle (R378). -/
def wakeUnit (s : State) (c : CoreId) : State :=
  let st := coreOf s c
  let due := s.agenda.any fun d => match d.act with
    | .event (.matrixAccept x) => decide (x = c)
    | _ => false
  if st.mrun.isSome || st.mqueue.isEmpty || due then s else s.after 1 (.event (.matrixAccept c))

/-- R378. The instruction in hand goes to the matrix unit, and its thread, or its buffer, waits. -/
def toUnit (s : State) : State :=
  let s := modCore s s.cur.core fun k => { k with mqueue := k.mqueue ++ [⟨s.cur.slot, s.word, s.cyc, s.buffered⟩] }
  let s := if s.buffered then s.mod fun th => { th with rep := { th.rep with wait := true } }
    else s.mod fun th => { th with wait := .redo .matrix, parked := none, next := pcAfter th.pc false }
  wakeUnit s s.cur.core

/-- A memory stream that an M-form reads: bound by ZBIND, of the class, with a legal selector. -/
def mStream (s : State) (z cls : Nat) : Bool :=
  let zr := s.z z
  decide (zr.zm = 1) && classAdmits cls zr.shape.et && etSelector s.th.fmt zr.shape.et

/-- The scale streams of a descriptor, when it has any. -/
def mScales (s : State) (z : Nat) : Bool :=
  let d := s.th.mdesc
  mdSfmt d = 0 || (decide ((s.z z).zm = 1) && decide ((s.z z).shape.et = mdSfmt d))

/-- R377. After its checks an instruction's streams have their tags checked, and it goes to the unit. -/
def tagged (s : State) (ns : List Nat) : State :=
  match tagChecks s ns with
  | .error b => badly s b
  | .ok marks => toUnit (markTags s marks)

/-- R377. Is the block-scale format legal with the class? -/
def sfmtOk (s : State) (cls : Nat) : Bool := mdSfmt s.th.mdesc = 0 || decide (cls = 6 ∨ cls = 7)

/-- The streams of the descriptor's scales. -/
def scaleRegs (s : State) : List Nat :=
  let d := s.th.mdesc
  if mdSfmt d = 0 then [] else [mdZsa d, mdZsb d]

/-- R381. MMA. -/
def execMma (c : BitVec 3) (_z : BitVec 1) (b a q : BitVec 3) (s : State) : Out :=
  mForm s [] [] (okAcc q && okMulClass c) fun s =>
    let ok := s.th.mvalid && mStream s a.toNat c.toNat && mStream s b.toNat c.toNat && sfmtOk s c.toNat &&
      (scaleRegs s).all (mScales s)
    if ok then tagged s ([a.toNat, b.toNat] ++ scaleRegs s) else raise s (trapIllegal s)

/-- R381. MMAG: zx is an index stream of type 9 or 14. -/
def execMmag (c : BitVec 3) (_z : BitVec 1) (x b a q : BitVec 3) (s : State) : Out :=
  mForm s [] [] (okAcc q && okMulClass c) fun s =>
    let ok := s.th.mvalid && mStream s a.toNat c.toNat && mStream s b.toNat c.toNat && mStream s x.toNat 4 &&
      sfmtOk s c.toNat && (scaleRegs s).all (mScales s)
    if ok then tagged s ([a.toNat, b.toNat, x.toNat] ++ scaleRegs s) else raise s (trapIllegal s)

/-- R387. MLOAD. -/
def execMload (c a q : BitVec 3) (s : State) : Out :=
  mForm s [] [] (okAcc q) fun s =>
    if s.th.mvalid && mStream s a.toNat c.toNat then tagged s [a.toNat] else raise s (trapIllegal s)

/-- R387. MLDT. -/
def execMldt (c a q : BitVec 3) (s : State) : Out :=
  mForm s [] [] (okAcc q) fun s =>
    if s.th.mvalid && mStream s a.toNat c.toNat then tagged s [a.toNat] else raise s (trapIllegal s)

/-- R388. MCLR. -/
def execMclr (_n : BitVec 2) (q : BitVec 3) (s : State) : Out := mForm s [] [] (okAcc q) toUnit

/-- R375. MSET: g(a) holds a self-window offset in its low 20 bits. -/
def execMset (a : BitVec 3) (s : State) : Out :=
  mForm s [a.setWidth 7] [] true fun s =>
    let off := (s.g (a.setWidth 7)).toNat % 2 ^ 20
    let va := selfBase + off
    match watched s s.cur va 32 false with
    | .error b => badly s b
    | .ok _ =>
      if off % 32 ≠ 0 then raise s (trapAlign va)
      else match windowPa s s.cur va 32 with
      | .error b => badly s b
      | .ok pa => selfRead s pa 32 fun s =>
        let d := readBytes s pa 32
        if !mdOk d then raise s (trapIllegal s)
        else
          let load (s : State) : State := s.mod fun th => { th with mdesc := d, mvalid := true }
          if s.buffered then endBeat (openWalk (load s)) true [(portOf s s.cur.core pa, false)] (portCost s [(portOf s s.cur.core pa, false)])
          else inPort s pa 32 false fun s => doneSelf (load s) false pa false

/-- Region g of a core holds an element that satisfies a test. -/
def regionHas (s : State) (c : CoreId) (g : Nat) (p : MElem → Bool) : Bool :=
  (coreOf s c).acc.any fun (k, e) => decide (k / 1024 = g) && p e

/-- R389. The word MSTAT writes. -/
def mstatWord (s : State) : Word :=
  let th := s.th
  let c := s.cur.core
  let nan (g : Nat) := regionHas s c g fun e => decide (decodeW32 e.bits = .nan)
  let stk (g : Nat) := regionHas s c g fun e => e.s
  BitVec.ofNat 16 (min 0xFFFF th.lastd) ++ th.mseq.extractLsb' 0 8 ++ 0#8
    ++ BitVec.ofNat 8 (if th.mvalid then mdN th.mdesc else 0) ++ BitVec.ofNat 8 (if th.mvalid then mdM th.mdesc else 0)
    ++ 0#6 ++ BitVec.ofBool th.tmis ++ BitVec.ofBool th.mvalid
    ++ BitVec.ofBool (nan 3) ++ BitVec.ofBool (nan 2) ++ BitVec.ofBool (nan 1) ++ BitVec.ofBool (nan 0)
    ++ BitVec.ofBool (stk 3) ++ BitVec.ofBool (stk 2) ++ BitVec.ofBool (stk 1) ++ BitVec.ofBool (stk 0)

/-- R389. MSTAT. -/
def execMstat (a : BitVec 3) (s : State) : Out :=
  mForm s [] [a.setWidth 7] true fun s =>
    let s := s.setG (a.setWidth 7) (mstatWord s)
    if s.buffered then endBeat (openWalk s) true [] 0 else retire s false 1

/-! ## Grids (R383) -/

/-- The column and row of a core in the core grid of a team's tile. -/
def gridPlace (r : TeamSt) (c : CoreId) : Nat × Nat :=
  (2 * (c.x - r.x) + (c.node - 3) % 2, 2 * (c.y - r.y) + (c.node - 3) / 2)

/-- The core at a column and row of that grid. -/
def gridCore (r : TeamSt) (col row : Nat) : CoreId := ⟨r.x + col / 2, r.y + row / 2, 3 + col % 2 + 2 * (row % 2)⟩

/-- R383. The grid position of the issuing core, when its thread has a team, the grid lies in it and the core in the
grid. -/
def gridPos (s : State) (t : ThreadId) : Option (TeamSt × Nat × Nat) :=
  let th := threadOf s t
  let d := th.mdesc
  match teamRect s th with
  | none => none
  | some r =>
    let (col, row) := gridPlace r t.core
    if mdGx d + mdGw d ≤ 2 * r.w && mdGy d + mdGh d ≤ 2 * r.h && mdGx d ≤ col && col < mdGx d + mdGw d &&
        mdGy d ≤ row && row < mdGy d + mdGh d && decide (r.x ≤ t.core.x ∧ r.y ≤ t.core.y) then
      some (r, col - mdGx d, row - mdGy d)
    else none

/-- The core of a grid position. -/
def gridAt (r : TeamSt) (d : List Byte) (gx gy : Nat) : CoreId := gridCore r (mdGx d + gx) (mdGy d + gy)

/-- R384. The streams a core of a grid reads. -/
def teamStreams (s : State) (gx gy a b : Nat) : List (Nat × Bool) :=
  let d := s.th.mdesc
  (if gx = 0 then [(a, false)] ++ (if mdSfmt d = 0 then [] else [(mdZsa d, true)]) else []) ++
    (if gy = 0 then [(b, false)] ++ (if mdSfmt d = 0 then [] else [(mdZsb d, true)]) else [])

/-- R384. MTEAM; not inside a static region (R178). -/
def execMteam (c : BitVec 3) (_z : BitVec 1) (b a q : BitVec 3) (s : State) : Out :=
  mForm s [] [] (okAcc q && okMulClass c && s.free?) fun s =>
    if !s.th.mvalid then raise s (trapIllegal s)
    else match gridPos s s.cur with
    | none => raise s (trapIllegal s)
    | some (_, gx, gy) =>
      let zs := teamStreams s gx gy a.toNat b.toNat
      let ok := sfmtOk s c.toNat && zs.all fun (z, sc) => if sc then mScales s z else mStream s z c.toNat
      if ok then tagged s (zs.map (·.1)) else raise s (trapIllegal s)

/-- R386. MSWAP; not inside a static region (R178). -/
def execMswap (b a : BitVec 3) (s : State) : Out :=
  mForm s [] [] s.free? fun s =>
    let za := s.z a.toNat
    let zb := s.z b.toNat
    let d := s.th.mdesc
    if !s.th.mvalid || (gridPos s s.cur).isNone || mdGw d ≠ mdGh d ||
        decide (za.zm ≠ 1 ∨ zb.zm ≠ 1 ∨ za.zpos ≠ 0 ∨ zb.zpos ≠ 0 ∨ za.shape.et ≠ zb.shape.et ∨
          za.shape.total ≠ zb.shape.total ∨ 16384 * 8 < za.shape.total * etBits za.shape.et) then
      raise s (trapIllegal s)
    else tagged s [a.toNat]

/-! ## Operands (R381, R382) -/

/-- The walk position ZPOS + p of a stream, modulo its T. -/
def wrapPos (z : ZReg) (p : Int) : Nat := (((z.zpos : Int) + p) % (max 1 z.shape.total : Nat)).toNat

/-- Elements of an operand at walk positions, with the places read. -/
def operand (s : State) (t : ThreadId) (z : ZReg) (ps : List Int) : Except Bad (List Elem × List Got) := do
  let gs ← ps.mapM fun p => reach s t z false (wrapPos z p) none
  let es ← gs.mapM (elemAt s z.shape.et)
  pure (es, gs)

/-- The latch's form of an element: held, or an integer of the integer class. -/
def latch (s : State) (t : ThreadId) (cls et : Nat) (e : Elem) : MElem :=
  if classInt cls then ⟨BitVec.ofInt 32 (elemInt et e), false⟩ else melemOf (elemPair s t et e)

/-- R128. The cycles for which a fetch waits on a unit under copy, as runs that use no port. -/
def copyWaits (s : State) (gs : List Got) : List (Nat × Bool) :=
  let met (a : Nat) : Option Home := (homeOf s (a / 2)).bind fun h => if copying s h (a / 2) 1 then some h else none
  match gs.findSome? fun g => ((g.place.map fun p => p.2).bind met).or (g.idx.bind met) with
  | some h => List.replicate (copyEnd s (homeKey h) + 1 - s.cyc) (9, false)
  | none => []

/-- R128. A fetch that waited for a copy is counted. -/
def countWaits (s : State) (c : CoreId) (runs : List (Nat × Bool)) : State :=
  if runs.any fun r => decide (r.1 = 9) then count s c.die 70 else s

/-- R378. The runs of a fetch of the unit: its places in the order of the walk. -/
def fetchRuns (s : State) (t : ThreadId) (z : ZReg) (gs : List Got) : List (Nat × Bool) :=
  streamRuns s t (etBits z.shape.et) false gs ++ copyWaits s gs

/-- An operand in the latch, and its runs; `order` are its positions as they increase (R378). -/
def fetchOp (s : State) (t : ThreadId) (cls n : Nat) (ps order : List Int) : Except Bad (List MElem × List (Nat × Bool)) := do
  let z := (threadOf s t).z.getD n ZReg.unbound
  let (es, gs) ← operand s t z ps
  let walk ← if order = ps then pure gs else order.mapM fun p => reach s t z false (wrapPos z p) none
  pure (es.map (latch s t cls z.shape.et), fetchRuns s t z walk)

/-- Positions 0 to n - 1. -/
def upTo (n : Nat) : List Int := (List.range n).map fun (k : Nat) => Int.ofNat k

/-- The rows of MMAG, from its index stream. -/
def gatherRows (s : State) (t : ThreadId) (n m : Nat) : Except Bad (List Int × List (Nat × Bool)) := do
  let z := (threadOf s t).z.getD n ZReg.unbound
  let (es, gs) ← operand s t z (upTo m)
  pure (es.map (elemInt z.shape.et), fetchRuns s t z gs)

/-- Rows of K positions each. -/
def rowPositions (rows : List Int) (k : Nat) : List Int := rows.flatMap fun r => (upTo k).map fun j => r * k + j

/-- A row put among rows in increasing order, each once. -/
def rowInto (r : Int) : List Int → List Int
  | [] => [r]
  | x :: l => if r < x then r :: x :: l else if r = x then x :: l else x :: rowInto r l

/-- R378. The rows gathered, as their reads stand in increasing position order of the walk; reads that coincide stand
together. -/
def rowOrder (rows : List Int) : List Int := rows.foldl (fun l r => rowInto r l) []

/-! ## The sum of products (R255) -/

/-- One group of 32 terms: its blocks scaled, and their tree. -/
def groupTerm (blk : Nat) (as bs : List Pair) (scaled : Bool) (sa sb : List Pair) : Pair × Flags :=
  let terms := (List.range (32 / blk)).map fun j =>
    let xs := (as.drop (blk * j)).take blk
    let ys := (bs.drop (blk * j)).take blk
    if xs.isEmpty then (Pair.zero, (0 : Flags))
    else
      let ps := (xs.zip ys).map fun (x, y) => mulPair x y
      let (t, f) := tree (Nat.log2 blk) (padTo blk (ps.map fun p => p.1))
      let f := ps.foldl (fun f p => f ||| p.2) f
      if scaled then
        let (c, fc) := fmul (sa.getD j .zero) (sb.getD j .zero)
        let (v, fs) := fmul t c
        (v, f ||| fc ||| fs)
      else (t, f)
  let (t, f) := tree (Nat.log2 (32 / blk)) (terms.map fun p => p.1)
  (t, terms.foldl (fun f p => f ||| p.2) f)

/-- R255. The groups of 32 in increasing order, added to the prior value. -/
def dotFrom (blk : Nat) (scaled : Bool) : Nat → Pair → List Pair → List Pair → List Pair → List Pair → Pair × Flags
  | 0, acc, _, _, _, _ => (acc, 0)
  | fuel + 1, acc, as, bs, sa, sb =>
    if as.isEmpty then (acc, 0)
    else
      let n := 32 / blk
      let (t, f) := groupTerm blk (as.take 32) (bs.take 32) scaled (sa.take n) (sb.take n)
      let (v, g) := fadd acc t
      let (r, h) := dotFrom blk scaled fuel v (as.drop 32) (bs.drop 32) (sa.drop n) (sb.drop n)
      (r, f ||| g ||| h)

/-- An element of the product: a row of A, a column of B and their scales, from a prior value. -/
def dotElem (cls blk : Nat) (prior : MElem) (as bs sa sb : List MElem) : MElem × Flags :=
  if classInt cls then
    (⟨BitVec.ofInt 32 ((melemInt prior) + ((as.zip bs).map fun (x, y) => (melemInt x) * (melemInt y)).sum), false⟩, 0)
  else
    let p (l : List MElem) := l.map melemPair
    let (v, f) := dotFrom (if blk = 0 then 32 else blk) (decide (blk ≠ 0)) (as.length + 1) (melemPair prior) (p as) (p bs) (p sa) (p sb)
    (melemOf v, f)

/-- R381. The whole tile: its elements by place, and the flags. -/
def tileOf (s : State) (c : CoreId) (cls q : Nat) (d : List Byte) (clear : Bool) (a sa b sb : List MElem) :
    List (Nat × MElem) × Flags :=
  let k := mdK d
  let kb := if mdSfmt d = 0 then 0 else (k + mdBlk d - 1) / mdBlk d
  let row (l : List MElem) (n i : Nat) := (l.drop (n * i)).take n
  let cells := (List.range (mdM d)).flatMap fun i => (List.range (mdN d)).map fun j =>
    let ix := accIndex q i j
    let prior := if clear then melemZero else accOf s c ix
    let (v, f) := dotElem cls (mdBlk d) prior (row a k i) (row b k j) (row sa kb i) (row sb kb j)
    ((ix, v), f)
  (cells.map (·.1), cells.foldl (fun f x => f ||| x.2) 0)

/-! ## Acceptance (R378) -/

/-- Rounded up to a multiple. -/
def roundUp (n k : Nat) : Nat := (n + k - 1) / k * k

/-- R378. The cycles of multiplication. -/
def mulCycles (d : List Byte) (cls : Nat) : Nat :=
  roundUp (mdM d) 16 * roundUp (mdN d) 16 * roundUp (mdK d) 32 / classRate cls

/-- A result with nothing in it yet. -/
def MResult.of (m : MInstr) (cyc : Nat) : MResult := ⟨m, cyc, [], 0, 0, [], [], [], 0, false, false, none⟩

/-- Fields of an M-form slot word: zb, za, acc, zx, ctl. -/
def mfB (w : BitVec 32) : Nat := (w.extractLsb' 13 3).toNat
/-- za. -/
def mfA (w : BitVec 32) : Nat := (w.extractLsb' 10 3).toNat
/-- acc. -/
def mfQ (w : BitVec 32) : Nat := (w.extractLsb' 7 3).toNat
/-- zx. -/
def mfX (w : BitVec 32) : Nat := (w.extractLsb' 16 3).toNat
/-- ctl[4:2]. -/
def mfC (w : BitVec 32) : Nat := (w.extractLsb' 29 3).toNat
/-- ctl[1:0]. -/
def mfLow (w : BitVec 32) : Nat := (w.extractLsb' 27 2).toNat

/-- What the unit has of an instruction at acceptance: a result with its D, or nothing until operands arrive. -/
inductive Accepted where
  | done (r : MResult) (d : Nat)
  | waiting (r : MResult) (s : State)
  | bad (b : Bad)

/-- Does each run use the scratchpad port (R379)? -/
def portUse (runs : List (Nat × Bool)) : List Bool := runs.map fun r => decide (r.1 = 3)

/-- Cycles waited for copies (R128). -/
def waits (runs : List (Nat × Bool)) : Nat := (runs.filter fun r => decide (r.1 = 9)).length

/-- A and its scales: a supplier's elements, runs and stream advances. -/
def supplyA (s : State) (t : ThreadId) (d : List Byte) (cls za : Nat) (rows : List Int) :
    Except Bad (List MElem × List MElem × List (Nat × Bool)) := do
  let (a, ra) ← fetchOp s t cls za (rowPositions rows (mdK d)) (rowPositions (rowOrder rows) (mdK d))
  if mdSfmt d = 0 then pure (a, [], ra)
  else
    let kb := (mdK d + mdBlk d - 1) / mdBlk d
    let (sa, rs) ← fetchOp s t 0 (mdZsa d) (rowPositions rows kb) (rowPositions (rowOrder rows) kb)
    pure (a, sa, ra ++ rs)

/-- B and its scales. -/
def supplyB (s : State) (t : ThreadId) (d : List Byte) (cls zb : Nat) : Except Bad (List MElem × List MElem × List (Nat × Bool)) := do
  let cols := upTo (mdN d)
  let ps := rowPositions cols (mdK d)
  let (b, rb) ← fetchOp s t cls zb ps ps
  if mdSfmt d = 0 then pure (b, [], rb)
  else
    let qs := rowPositions cols ((mdK d + mdBlk d - 1) / mdBlk d)
    let (sb, rs) ← fetchOp s t 0 (mdZsb d) qs qs
    pure (b, sb, rb ++ rs)

/-- The advances of the streams that a product reads. -/
def advances (d : List Byte) (za zb : Option Nat) : List (Nat × Nat) :=
  let kb := (mdK d + max 1 (mdBlk d) - 1) / max 1 (mdBlk d)
  let sc (z n : Nat) : List (Nat × Nat) := if mdSfmt d = 0 then [] else [(z, n * kb)]
  (match za with | some z => [(z, mdM d * mdK d)] | none => []) ++ (match zb with | some z => [(z, mdN d * mdK d)] | none => []) ++
    (if za.isSome then sc (mdZsa d) (mdM d) else []) ++ (if zb.isSome then sc (mdZsb d) (mdN d) else [])

/-- R381. MMA and MMAG at acceptance. -/
def acceptMul (s : State) (t : ThreadId) (m : MInstr) (gather : Bool) : Accepted :=
  let d := (threadOf s t).mdesc
  let cls := mfC m.word
  match (do
    let (rows, rx) ← if gather then gatherRows s t (mfX m.word) (mdM d) else pure (upTo (mdM d), [])
    let (a, sa, ra) ← supplyA s t d cls (mfA m.word) rows
    let (b, sb, rb) ← supplyB s t d cls (mfB m.word)
    pure (a, sa, b, sb, rx ++ ra ++ rb)) with
  | .error e => .bad e
  | .ok (a, sa, b, sb, runs) =>
    let (tile, fl) := tileOf s t.core cls (mfQ m.word) d (decide (mfLow m.word % 2 = 1)) a sa b sb
    let z := if gather then
        [(mfX m.word, mdM d)] ++ (advances d none (some (mfB m.word))) ++
          (if mdSfmt d = 0 then [] else [(mdZsa d, mdM d * ((mdK d + mdBlk d - 1) / max 1 (mdBlk d)))])
      else advances d (some (mfA m.word)) (some (mfB m.word))
    .done { MResult.of m s.cyc with fetch := portUse runs, tile := tile, zpos := z, flags := fl, cost := waits runs }
      (8 + max runs.length (mulCycles d cls))

/-- R387. MLOAD and MLDT at acceptance. -/
def acceptLoad (s : State) (t : ThreadId) (m : MInstr) (transpose : Bool) : Accepted :=
  let d := (threadOf s t).mdesc
  let (mm, nn) := (mdM d, mdN d)
  match fetchOp s t (mfC m.word) (mfA m.word) (upTo (mm * nn)) (upTo (mm * nn)) with
  | .error e => .bad e
  | .ok (es, runs) =>
    let tile := (es.zip (List.range (mm * nn))).map fun (e, p) =>
      (if transpose then accIndex (mfQ m.word) (p % mm) (p / mm) else accIndex (mfQ m.word) (p / nn) (p % nn), e)
    .done { MResult.of m s.cyc with fetch := portUse runs, tile := tile, zpos := [(mfA m.word, mm * nn)], cost := waits runs } (8 + runs.length)

/-- R388. MCLR at acceptance. -/
def acceptClear (s : State) (m : MInstr) : Accepted :=
  let n := mfLow m.word + 1
  let tile := (List.range n).flatMap fun g => (List.range 1024).map fun k => (1024 * ((mfQ m.word + g) % 4) + k, melemZero)
  .done { MResult.of m s.cyc with tile := tile } (8 + n)

/-! ## MTEAM and MSWAP in the unit (R384 to R386) -/

/-- The bytes of the descriptor that operand blocks carry (R385). -/
def blockFields (d : List Byte) : List Byte := d.take 6 ++ (d.drop 0x11).take 3

/-- Flits of n elements of w bits. -/
def dataFlits (n w : Nat) : Nat := max 1 ((n * w + 511) / 512)

/-- The operand blocks of a source that are still on their way to a core. -/
def blocksUnderway (s : State) (src dst : CoreId) : List (Nat × MBlock) :=
  s.agenda.filterMap fun d => match d.act with
    | .event (.mteamBlockArrival c b) => if c = dst ∧ b.src = src then some (d.at_, b) else none
    | _ => none

/-- A block sent along a grid row or column, reaching each other core's latch (R36), never before what its source sent there
earlier (R37). -/
def multicast (s : State) (src : CoreId) (dsts : List CoreId) (blk : MBlock) (flits lead : Nat) : State :=
  dsts.foldl (fun s c =>
    if c = src then s
    else s.at ((blocksUnderway s src c).foldl (fun n b => max n b.1) (s.cyc + lead + meshCycles src.x src.y c.x c.y + flits - 1))
      (.event (.mteamBlockArrival c blk))) s

/-- R384. MTEAM at acceptance: a supplier reads its streams and multicasts its blocks; the unit then waits for operands. -/
def acceptTeam (s : State) (t : ThreadId) (m : MInstr) : Accepted :=
  let th := threadOf s t
  let d := th.mdesc
  let cls := mfC m.word
  match gridPos s t with
  | none => .bad (.trap ⟨1, m.word.setWidth 64⟩)
  | some (r, gx, gy) =>
    match (do
      let a ← if gx = 0 then (do let x ← supplyA s t d cls (mfA m.word) (upTo (mdM d)); pure (some x)) else pure none
      let b ← if gy = 0 then (do let x ← supplyB s t d cls (mfB m.word); pure (some x)) else pure none
      pure (a, b)) with
    | .error e => .bad e
    | .ok (a, b) =>
      let runs := (match a with | some x => x.2.2 | none => []) ++ (match b with | some x => x.2.2 | none => [])
      let send (isA : Bool) (x : Option (List MElem × List MElem × List (Nat × Bool))) (dsts : List CoreId) (s : State) : State :=
        match x with
        | none => s
        | some (es, sc, _) =>
          let blk : MBlock := ⟨t.core, isA, th.mseq, blockFields d, cls, es, sc⟩
          let et := ((th.z.getD (if isA then mfA m.word else mfB m.word) ZReg.unbound).shape.et)
          let s := multicast s t.core dsts blk (dataFlits es.length (etBits et) + (if sc.isEmpty then 0 else dataFlits sc.length 8)) runs.length
          modCore s t.core fun k => { k with blocks := k.blocks ++ [blk] }
      let s := send true a ((List.range (mdGw d)).map fun x => gridAt r d x gy) s
      let s := send false b ((List.range (mdGh d)).map fun y => gridAt r d gx y) s
      .waiting { MResult.of m s.cyc with
        fetch := portUse runs, team := true, cost := runs.length
        zpos := advances d (if gx = 0 then some (mfA m.word) else none) (if gy = 0 then some (mfB m.word) else none) }
        (countWaits s t.core runs)

/-- R386. MSWAP at acceptance: za is read and sent to the mirrored core; the unit then waits for the partner's message. -/
def acceptSwap (s : State) (t : ThreadId) (m : MInstr) : Accepted :=
  let th := threadOf s t
  let d := th.mdesc
  let z := th.z.getD (mfA m.word) ZReg.unbound
  match gridPos s t with
  | none => .bad (.trap ⟨1, m.word.setWidth 64⟩)
  | some (r, gx, gy) =>
    match operand s t z (upTo z.shape.total) with
    | .error e => .bad e
    | .ok (es, gs) =>
      let runs := fetchRuns s t z gs
      let msg : SwapMsg := ⟨t.core, z.shape.et, z.shape.total, th.mseq, es.map fun e => match e with
        | some (v, b) => (BitVec.ofNat 32 v, b)
        | none => (0, false)⟩
      let dst := gridAt r d gy gx
      let s := if dst = t.core then modCore s t.core fun k => { k with swaps := k.swaps ++ [msg] }
        else s.after (runs.length + meshCycles t.core.x t.core.y dst.x dst.y + dataFlits z.shape.total (etBits z.shape.et) - 1)
          (.event (.mswapMessageArrival dst msg))
      .waiting { MResult.of m s.cyc with fetch := portUse runs, team := true, cost := runs.length } (countWaits s t.core runs)

/-- A waiting instruction gets its result: it finishes D cycles from the next on. -/
def settleRun (s : State) (c : CoreId) (r : MResult) (d : Nat) : State :=
  (modCore s c fun k => { k with mrun := some { r with finish := s.cyc + d, cost := d } }).after d (.event (.matrixCommit c))

/-- The block of a supplier that an instance uses. -/
def blockFrom (s : State) (c src : CoreId) (isA : Bool) (q : BitVec 32) : Option MBlock :=
  (coreOf s c).blocks.find? fun b => decide (b.src = src ∧ b.isA = isA ∧ b.mseq = q)

/-- R384, R385. A waiting MTEAM takes its operands when both blocks are in the latch; a block whose fields differ makes it a
mismatch. -/
def tryTeam (s : State) (c : CoreId) (r : MResult) : State :=
  let t : ThreadId := ⟨c, r.instr.slot⟩
  let th := threadOf s t
  let d := th.mdesc
  let cls := mfC r.instr.word
  match gridPos s t with
  | none => s
  | some (rect, gx, gy) =>
    match blockFrom s c (gridAt rect d 0 gy) true th.mseq, blockFrom s c (gridAt rect d gx 0) false th.mseq with
    | some a, some b =>
      let bad (x : MBlock) := decide (x.desc ≠ blockFields d ∨ x.cls ≠ cls)
      let s := modCore s c fun k => { k with blocks := (k.blocks.erase a).erase b }
      let dd := 8 + max r.cost (mulCycles d cls)
      if bad a || bad b then settleRun s c { r with mismatch := true, zpos := [] } dd
      else
        let (tile, fl) := tileOf s c cls (mfQ r.instr.word) d (decide (mfLow r.instr.word % 2 = 1)) a.elems a.scales b.elems b.scales
        settleRun s c { r with tile := tile, flags := fl } dd
    | _, _ => s

/-- The bytes of an element of w bits of a swap: a nibble is kept as it is. -/
def swapPlaces (s : State) (t : ThreadId) (n : Nat) : Except Bad (List Got) :=
  let z := (threadOf s t).z.getD n ZReg.unbound
  (upTo z.shape.total).mapM fun p => reach s t z true (wrapPos z p) none

/-- R386. A waiting MSWAP takes its partner's message when it is there. -/
def trySwap (s : State) (c : CoreId) (r : MResult) : State :=
  let t : ThreadId := ⟨c, r.instr.slot⟩
  let th := threadOf s t
  let d := th.mdesc
  let z := th.z.getD (mfB r.instr.word) ZReg.unbound
  match gridPos s t with
  | none => s
  | some (rect, gx, gy) =>
    match (coreOf s c).swaps.find? fun m => decide (m.src = gridAt rect d gy gx) with
    | none => s
    | some m =>
      let s := modCore s c fun k => { k with swaps := k.swaps.erase m }
      if m.et ≠ z.shape.et ∨ m.total ≠ z.shape.total ∨ m.mseq ≠ th.mseq then
        settleRun s c { r with mismatch := true } (8 + r.cost)
      else match swapPlaces s t (mfB r.instr.word) with
      | .error (.trap tr) => settleRun s c { r with trap := some tr } (8 + r.cost)
      | .error _ => settleRun s c { r with trap := some ⟨256, 0⟩ } (8 + r.cost)
      | .ok gs =>
        let wr := streamRuns s t (etBits z.shape.et) true gs
        let writes := (gs.zip m.elems).filterMap fun (g, v, b) => g.place.map fun p =>
          (p.2, leBytes 4 v.toNat, [(etBits z.shape.et, b)])
        settleRun s c { r with writes := writes, fetch := r.fetch ++ portUse wr } (8 + r.cost + wr.length)

/-- A waiting instruction of the unit tried with what has arrived. -/
def tryRun (s : State) (c : CoreId) : State :=
  match (coreOf s c).mrun with
  | none => s
  | some r =>
    if r.team && decide (r.finish = 0) && !(haltedNow s c && !(threadOf s ⟨c, r.instr.slot⟩).stopping) then
      (if (r.instr.word.extractLsb' 1 6).toNat = 61 then tryTeam s c r else trySwap s c r)
    else s

/-- An instruction of the unit ends in a trap, or an error, of its thread or of its buffer's beat (R377, R394). -/
def unitFault (s : State) (t : ThreadId) (buffered : Bool) (b : Bad) : State :=
  match b with
  | .poison pa n => consumeError (noteRead s pa n) t
  | .trap tr =>
    if tr = errorTrap then consumeError s t
    else if buffered then takeTrap { s with cur := t, buffered := true, again := false } t (threadOf s t).rep.pc tr
    else trapLater s t tr
  | .halt j =>
    let s := haltCreel s t.core.creel 3 j t.core.node t.slot
    if buffered then modThread s t fun th => { th with skipWatch := true, rep := { th.rep with due := nextOwn s.cyc t.slot } }
    else modThread s t fun th => { th with wait := .run, skipWatch := true, ready := nextOwn s.cyc t.slot }

/-- The buffer goes on once the unit has accepted its instruction (R182). -/
def repAccepted (s : State) (t : ThreadId) (b : Bool) : State :=
  if b then modThread s t fun th => { th with rep := { th.rep.next with wait := false, due := nextOwn s.cyc t.slot } } else s

/-- R378. The unit accepts the oldest instruction of its queue, unless its creel is halted (R146). -/
def execMatrixAccept (core : CoreId) (s : State) : Out :=
  let st := coreOf s core
  match st.mqueue with
  | [] => .next s
  | m :: rest =>
    if st.mrun.isSome || haltedNow s core then .next s
    else
      let t : ThreadId := ⟨core, m.slot⟩
      let s := modCore s core fun k => { k with mqueue := rest }
      let major := (m.word.extractLsb' 1 6).toNat
      let mfn := (m.word.extractLsb' 19 8).toNat
      let r := if major = 60 then (if mfn = 1 then acceptClear s m else acceptLoad s t m false)
        else if major = 61 then (if mfn = 2 then acceptTeam s t m else acceptMul s t m (decide (mfn = 1)))
        else if mfn = 0 then acceptSwap s t m else acceptLoad s t m true
      .next (match r with
      | .bad b => wakeUnit (unitFault (if m.buffered then modThread s t fun th => { th with rep := { th.rep with wait := false } } else s) t m.buffered b) core
      | .done r d =>
        let s := repAccepted (if r.cost = 0 then s else count s core.die 70) t m.buffered
        (modCore s core fun k => { k with mrun := some { r with finish := s.cyc + d - 1, cost := d } }).after (d - 1)
          (.event (.matrixCommit core))
      | .waiting r s => tryRun (modCore (repAccepted s t m.buffered) core fun k => { k with mrun := some r }) core)

/-! ## Commit (R378, R385) -/

/-- The writes of a MSWAP performed (R386). -/
def commitWrites (s : State) (ws : List (Nat × List Byte × List (Nat × Bool))) : State :=
  ws.foldl (fun s (a, bs, w) =>
    match w with
    | (bits, b) :: _ =>
      if bits = 4 then performNibble s (a / 2) (decide (a % 2 = 1)) (BitVec.ofNat 4 (leNat bs))
      else performWrite s (a / 2) (bs.take (bits / 8)) b
    | [] => s) s

/-- The accumulator elements of a tile written. -/
def commitTile (s : State) (c : CoreId) (tile : List (Nat × MElem)) : State :=
  modCore s c fun k => { k with acc := tile.foldl (fun m x => if x.2 = melemZero then m.del x.1 else m.put x.1 x.2) k.acc }

/-- The stream advances of a result. -/
def commitZ (th : Thread) (l : List (Nat × Nat)) : Thread :=
  l.foldl (fun th (n, k) =>
    let z := th.z.getD n ZReg.unbound
    { th with z := th.z.set n { z with zpos := (z.zpos + k) % max 1 z.shape.total } }) th

/-- R378. All results of the running instruction are committed at the end of its last beat, and its thread wakes. While its
creel is halted it stands frozen (R146), but for a save (R148). -/
def execMatrixCommit (core : CoreId) (s : State) : Out :=
  match (coreOf s core).mrun with
  | none => .next s
  | some r =>
    let t : ThreadId := ⟨core, r.instr.slot⟩
    if r.finish ≠ s.cyc ∨ (haltedNow s core ∧ (threadOf s t).stopping = false) then .next s
    else
      let s := modCore s core fun k => { k with mrun := none }
      let finish (s : State) : State :=
        let s := modThread s t fun th => { th with
          lastd := r.cost
          mseq := if r.team then th.mseq + 1 else th.mseq
          tmis := if r.team then r.mismatch else th.tmis
          status := orFlags th.status r.flags }
        if r.instr.buffered then s else release s t
      let s := match r.trap with
        | some tr => unitFault s t r.instr.buffered (.trap tr)
        | none =>
          if r.mismatch then finish (count s core.die 87)
          else finish (modThread (commitWrites (commitTile s core r.tile) r.writes) t fun th => commitZ th r.zpos)
      .next (wake (wakeUnit s core) core fun k => decide (k = .region))

/-- R385. Must a block wait at its source: two of its supplier are held already, or one of an earlier instance still waits? -/
def blockWaits (s : State) (core : CoreId) (blk : MBlock) : Bool :=
  decide (2 ≤ ((coreOf s core).blocks.filter fun b => decide (b.src = blk.src ∧ b.isA = blk.isA)).length) ||
    (blocksUnderway s blk.src core).any fun b => decide (b.2.isA = blk.isA ∧ 2 ^ 31 ≤ (b.2.mseq - blk.mseq).toNat)

/-- R385. An operand block reaches a core's latch: it is held when it belongs to this instance or the next, and waits at its
source otherwise. -/
def execMteamBlockArrival (core : CoreId) (blk : MBlock) (s : State) : Out :=
  .next (if blockWaits s core blk then s.after 1 (.event (.mteamBlockArrival core blk))
    else tryRun (modCore s core fun k => { k with blocks := k.blocks ++ [blk] }) core)

/-- R386. A swap message has arrived whole. -/
def execMswapMessageArrival (core : CoreId) (m : SwapMsg) (s : State) : Out :=
  .next (tryRun (modCore s core fun k => { k with swaps := k.swaps ++ [m] }) core)

/-! ## The epilogue (R390, R391) -/

/-- R391. E of a destination type. -/
def epiElems (et : Nat) : Nat :=
  if et = 1 ∨ et = 9 ∨ et = 14 then 16
  else if et = 2 ∨ et = 3 ∨ et = 4 then 32
  else if et = 7 ∨ et = 11 ∨ et = 12 then 128
  else 64

/-- The decoded value of a tensor scale. -/
def tensorScale (f v : Nat) : Pair :=
  ⟨match f with
    | 1 => decodeW32 (BitVec.ofNat 32 v)
    | 3 => decodeBf16 (BitVec.ofNat 16 v)
    | 5 => decodeE4m3 v
    | 6 => decodeE5m2 v
    | _ => decodeE8m0 v, false⟩

/-- R391. The activation of a held value. -/
def activate (act : Nat) (p : Pair) : Pair × Flags :=
  match act with
  | 1 => (match p.x with
    | .nan => (⟨.nan, false⟩, 0)
    | x => if x.isNeg then (Pair.zero, 0) else (p, 0))
  | 2 => ftanh p
  | 3 => fsigm p
  | 4 =>
    let (g, f) := fsigm p
    let (r, f') := fmul p g
    (r, f ||| f')
  | _ => (p, 0)

/-- R391. The value of position p of an epilogue, with its flags. -/
def epilogue (s : State) (d : List Byte) (q : Nat) (isInt : Bool) (bias : Option Pair) (p : Nat) : Pair × Flags :=
  let e := accOf s s.cur.core (accIndex q (p / max 1 (mdN d)) (p % max 1 (mdN d)))
  let (x, f) := if isInt then roundOdd .w32 (.ofInt (melemInt e)) false else ((melemPair e), 0)
  let (x, f) := if mdTsf d = 0 then (x, f)
    else
      let (c, fc) := fmul (tensorScale (mdTsf d) (fieldAt d 8 4)) (tensorScale (mdTsf d) (fieldAt d 0xC 4))
      let (y, fm) := fmul x c
      (y, f ||| fc ||| fm)
  let (x, f) := match bias with
    | none => (x, f)
    | some b => let (y, fb) := fadd x b; (y, f ||| fb)
  let (x, fa) := activate (mdAct d) x
  (canon x, f ||| fa)

/-- R361, R391, R259. The value as it is written: an integer destination takes the rounding to ulp 1, wrapped; NaN and an
infinity go as R259 gives. -/
def epiVal (s : State) (et rc q p : Nat) (v : Pair) (fl : Flags) : VVal :=
  if etInteger et then
    let (lo, hi) := etRange et
    let mode := if rc = 3 then s.th.vrm else walkMode s.th rc
    match roundInt mode (walkDraw s.th p) v with
    | (some i, _, f) => .int i (fl ||| f) true
    | (none, n, f) => .int (match v.x with | .nan => 0 | _ => if n then lo else hi) (fl ||| f) true
  else .held v q fl

/-- R390. Does a tile lie in one store with its metadata word, and its base on a multiple of 8? -/
def tileWhole (s : State) (z : ZReg) : Bool :=
  let base := z.zbase.toNat
  let side (a : Nat) : Bool := decide (selfBase + 0x80000 ≤ a)
  decide (base % 8 = 0 ∧ selfBase + 8 ≤ base) && (match windowPa s s.cur (base - 8) 8 with | .ok _ => true | .error _ => false) &&
    (List.range z.shape.total).all fun p => match reach s s.cur z true p none with
      | .ok ⟨some (a, _), _⟩ => side (a / 2) == side (base - 8)
      | .ok ⟨none, _⟩ => true
      | .error _ => false

/-- The metadata word's address of a stream. -/
def metaPa (s : State) (z : ZReg) : Nat := (selfPa s s.cur.core (z.zbase.toNat - 8 - selfBase) 8).getD 0

/-- VERS of a stream's metadata word goes up by one (R230). -/
def epiVers (s : State) (z : ZReg) : State :=
  let pa := metaPa s z
  let w := readWord s pa
  performWrite s pa (leBytes 8 (w.extractLsb' 48 16 ++ (w.extractLsb' 32 16 + 1) ++ w.extractLsb' 0 32).toNat) false

/-- R391. A beat of MEPI. -/
def epiBeat (s : State) (rc q : Nat) (isInt bias aon tagw : Bool) (b a : Nat) : State :=
  let s := (openWalk s).mod fun th => { th with finishing := aon && !s.buffered }
  let z := s.z a
  let zb := s.z b
  let d := s.th.mdesc
  let left := z.shape.total - z.zpos
  let n := min (epiElems z.shape.et) left
  let ps := (List.range n).map fun j => z.zpos + j
  match (do
    let places ← ps.mapM fun p => reach s s.cur z true p none
    if let some (pa, n) := putsPoison s z.shape.et places then throw (Bad.poison pa n)
    if (aon || tagw) && poisoned s (metaPa s z) 8 then throw (Bad.poison (metaPa s z) 8)
    let bgs ← if bias then ps.mapM fun p => reach s s.cur zb false (p % max 1 (mdN d) % max 1 zb.shape.total) none else pure []
    let bes ← bgs.mapM (elemAt s zb.shape.et)
    let marks ← if bias then tagChecks s [b] else pure []
    pure (places, bgs, bes, marks)) with
  | .error e => stopWalk s e
  | .ok (places, bgs, bes, marks) =>
    let runs := streamRuns s s.cur (etBits z.shape.et) true places ++ streamRuns s s.cur (etBits zb.shape.et) false bgs
    inBeat s runs (places ++ bgs) fun s cost =>
    let last := decide (n = left)
    let qq := if mdAct d = 2 ∨ mdAct d = 3 then 11 else 24
    let bp (j : Nat) : Option Pair := if bias then some (elemPair s s.cur zb.shape.et (bes.getD j none)) else none
    let vals := (places.zip (List.range n)).map fun (g, j) =>
      let p := z.zpos + j
      let (v, fl) := epilogue s d q isInt (bp j) p
      (g, p, epiVal s z.shape.et rc qq p v fl)
    let op : VOp := ⟨0, rc, a, [], none⟩
    let s1 := if aon && z.zpos = 0 then epiVers s z else s
    let s1 := markTags (writeElems s1 op vals) marks
    let s1 := if last && aon then epiVers s1 z else s1
    let s1 := if last && tagw then performWrite s1 (metaPa s z) (leBytes 4 (mdEseq d)) false else s1
    let s1 := s1.modZ a fun y => { y with zpos := (z.zpos + n) % max 1 z.shape.total }
    endBeat s1 last runs cost

/-- R390. MEPI. -/
def execMepi (r : BitVec 2) (p o g n : BitVec 1) (b a q : BitVec 3) (s : State) : Out :=
  mForm s [] [] (okAcc q && (decide (p = 1#1) || decide (b = 0))) fun s =>
    let z := s.z a.toNat
    let zb := s.z b.toNat
    let d := s.th.mdesc
    let bias := decide (p = 1#1)
    let ok := s.th.mvalid && decide (z.zm = 1 ∧ z.shape.et ≠ 0 ∧ z.shape.et ≠ 15) && etSelector s.th.fmt z.shape.et &&
      !(decide (r = 3#2) && decide (etBits z.shape.et ≤ 8)) &&
      (!bias || (decide (zb.zm = 1) && !etInteger zb.shape.et && etSelector s.th.fmt zb.shape.et)) &&
      decide (z.shape.total = mdM d * mdN d)
    if !ok then raise s (trapIllegal s)
    else if decide (o = 1#1 ∨ g = 1#1) && !tileWhole s z then raise s (trapAlign z.zbase.toNat)
    else epiBeat s r.toNat q.toNat (decide (n = 1#1)) bias (decide (o = 1#1)) (decide (g = 1#1)) b.toNat a.toNat

end Sys2Proof.Machine
end

