-- ==== Sys2Proof/Machine/Repeat.lean ====
section
/-! DEFINITION. Static regions and the repetition buffer: SRBEGIN, SREND, REPLOAD, REPRUN and REPSTOP of major 47, and a
buffered beat (R178 to R182, R346, R347). -/

namespace Sys2Proof.Machine

/-! ## Operands in the self window -/

/-- n bytes at a self-window offset that an instruction reads as one run: watchpoints, alignment, range, error. -/
def selfOperand (s : State) (off n al : Nat) (body : State → Nat → State) : State :=
  let va := selfBase + off
  match watched s s.cur va n false with
  | .error b => badly s b
  | .ok _ =>
    if off % al ≠ 0 then raise s (trapAlign va)
    else match windowPa s s.cur va n with
    | .error b => badly s b
    | .ok pa => selfRead s pa n fun s => body s pa

/-! ## Static regions (R346) -/

/-- R131. Does a bank whose retirement stands between PIN and COMMIT concern this core? -/
def sluicePins (s : State) (c : CoreId) : Bool :=
  match (creelOf s c.creel).sluice with
  | some u => decide (3 ≤ u.phase) && (decide (u.req.store = 1) || decide (u.req.core = c.node))
  | none => false

/-- R380. Does the matrix unit of the core hold an instruction of another slot? -/
def matrixHeld (s : State) (t : ThreadId) : Bool :=
  let k := coreOf s t.core
  (match k.mrun with
    | some r => decide (r.instr.slot ≠ t.slot)
    | none => false) || k.mqueue.any fun m => decide (m.slot ≠ t.slot)

/-- The state in which an issue has not counted (R307): the instruction is tried again. -/
def uncount (s : State) : State := s.mod fun th => { th with perf := th.perf.set 0 (th.perf.getD 0 0 - 1) }

/-- R346. SRBEGIN. -/
def execSrbegin (a : BitVec 7) (s : State) : Out :=
  issue s [a] [] s.free? fun s =>
    selfOperand s (s.g a).toNat 8 8 fun s pa => inPort s pa 8 false fun s =>
      let w := readWord s pa
      let r : Region := ⟨(nextSlot s.th.pc).toNat / 64 * 64, (w.extractLsb' 16 16).toNat, (w.extractLsb' 0 2).toNat, false⟩
      if r.banks ≠ bankCount s s.cur.core then raise s ⟨8, 1⟩
      else if !lockFits s s.cur r then raise s ⟨8, 2⟩
      else if otherRegion s s.cur || matrixHeld s s.cur || sluicePins s s.cur.core then parkOn s .region
      else match lockStep s s.cur r with
      | .error s => uncount s
      | .ok s =>
        if s.again then holdIssue s
        else doneSelf (s.mod fun th => { th with region := some r, status := setBit th.status 19 true }) false pa false

/-- R346, R131. A static region ends: its lines are released, and those who waited for its end are taken up. -/
def endRegion (s : State) (t : ThreadId) : State :=
  let s := modThread (unlockLines s t) t fun th => { th with region := none, status := setBit th.status 19 false }
  let s := wake s t.core fun k => decide (k = .region)
  match (creelOf s t.core.creel).sluice with
  | some u => if u.phase = 3 then now s (.sluicePinDone t.core.creel) else s
  | none => s

/-- R346. SREND. -/
def execSrend (s : State) : Out :=
  issue s [] [] (stSrg s.th.status) fun s => afterRun s fun s => endRegion (retire s false 1) s.cur

/-! ## What the repetition buffer holds (R347) -/

/-- A slot the buffer takes: mask and pattern, the low bits of its stream fields, whether it has an accumulator field, and
the checks of its own fields (R265). -/
structure BufForm where
  mask : BitVec 32
  bits : BitVec 32
  zs : List Nat
  acc : Bool
  ok : BitVec 32 → Bool

/-- No check. -/
def bufAny (_ : BitVec 32) : Bool := true
/-- R241. A legal rounding code with its element type. -/
def bufRound (w : BitVec 32) : Bool := okRound (w.extractLsb' 30 2) (w.extractLsb' 27 3)
/-- The same, and a floating element type. -/
def bufFloat (w : BitVec 32) : Bool := bufRound w && !etInt (w.extractLsb' 27 3)
/-- The same, and an integer element type. -/
def bufInt (w : BitVec 32) : Bool := bufRound w && etInt (w.extractLsb' 27 3)
/-- VSCL. -/
def bufScl (w : BitVec 32) : Bool := bufFloat w && okBlk (w.extractLsb' 16 3)
/-- VQENC. -/
def bufQenc (w : BitVec 32) : Bool :=
  bufRound w && okBlk (w.extractLsb' 16 3) && decide (w.extractLsb' 27 3 = 6#3 ∨ w.extractLsb' 27 3 = 7#3)
/-- VQDEC. -/
def bufQdec (w : BitVec 32) : Bool :=
  bufRound w && okBlk (w.extractLsb' 16 3) && decide ((w.extractLsb' 27 3).toNat ≤ 3)
/-- An accumulator field. -/
def bufAcc (w : BitVec 32) : Bool := okAcc (w.extractLsb' 7 3)
/-- MMA and MMAG. -/
def bufMul (w : BitVec 32) : Bool := bufAcc w && okMulClass (w.extractLsb' 29 3)
/-- MEPI: zb is zero without a bias. -/
def bufEpi (w : BitVec 32) : Bool := bufAcc w && (w.getLsbD 29 || decide (w.extractLsb' 13 3 = 0))

/-- Major 52: VADD, VSUB, VMUL, VFMA, VMIN, VMAX, VABS, VNEG, VCPY, VFILL, VCLAMP, VSCL. -/
def bufForms52 : List BufForm :=
  [⟨0x07FF007F#32, 0x00000069#32, [13, 10, 7], false, bufRound⟩,
   ⟨0x07FF007F#32, 0x00080069#32, [13, 10, 7], false, bufRound⟩,
   ⟨0x07FF007F#32, 0x00100069#32, [13, 10, 7], false, bufRound⟩,
   ⟨0x07F8007F#32, 0x00180069#32, [16, 13, 10, 7], false, bufRound⟩,
   ⟨0x07FF007F#32, 0x00200069#32, [13, 10, 7], false, bufRound⟩,
   ⟨0x07FF007F#32, 0x00280069#32, [13, 10, 7], false, bufRound⟩,
   ⟨0x07FFE07F#32, 0x00300069#32, [10, 7], false, bufRound⟩,
   ⟨0x07FFE07F#32, 0x00380069#32, [10, 7], false, bufRound⟩,
   ⟨0xC7FFE07F#32, 0x00400069#32, [10, 7], false, bufAny⟩,
   ⟨0xC7FFE07F#32, 0x00480069#32, [10, 7], false, bufAny⟩,
   ⟨0x07F8007F#32, 0x00500069#32, [16, 13, 10, 7], false, bufRound⟩,
   ⟨0x07F8007F#32, 0x00580069#32, [13, 10, 7], false, bufScl⟩]

/-- Major 53: VEXP2, VLOG2, VRCP, VRSQ, VSQRT, VTANH, VSIGM. -/
def bufForms53 : List BufForm :=
  [⟨0x07FFE07F#32, 0x0000006B#32, [10, 7], false, bufFloat⟩,
   ⟨0x07FFE07F#32, 0x0008006B#32, [10, 7], false, bufFloat⟩,
   ⟨0x07FFE07F#32, 0x0010006B#32, [10, 7], false, bufFloat⟩,
   ⟨0x07FFE07F#32, 0x0018006B#32, [10, 7], false, bufFloat⟩,
   ⟨0x07FFE07F#32, 0x0020006B#32, [10, 7], false, bufFloat⟩,
   ⟨0x07FFE07F#32, 0x0028006B#32, [10, 7], false, bufFloat⟩,
   ⟨0x07FFE07F#32, 0x0030006B#32, [10, 7], false, bufFloat⟩]

/-- Major 54: VRSUM, VRMAX, VRMIN, VSCAN, VDOT, VCOUNT. -/
def bufForms54 : List BufForm :=
  [⟨0x07FFE07F#32, 0x0000006D#32, [10, 7], false, bufRound⟩,
   ⟨0x07FFE07F#32, 0x0008006D#32, [10, 7], false, bufRound⟩,
   ⟨0x07FFE07F#32, 0x0010006D#32, [10, 7], false, bufRound⟩,
   ⟨0x07FFE07F#32, 0x0018006D#32, [10, 7], false, bufRound⟩,
   ⟨0x07FF007F#32, 0x0020006D#32, [13, 10, 7], false, bufRound⟩,
   ⟨0x07FFE07F#32, 0x0028006D#32, [10, 7], false, bufInt⟩]

/-- Major 55: VCMP_EQ, VCMP_NE, VCMP_LT, VCMP_LE, VCMP_GT, VCMP_GE, VSEL, VAND, VOR, VXOR, VSHL, VSHR. -/
def bufForms55 : List BufForm :=
  [⟨0x07FF007F#32, 0x0000006F#32, [13, 10, 7], false, bufInt⟩,
   ⟨0x07FF007F#32, 0x0008006F#32, [13, 10, 7], false, bufInt⟩,
   ⟨0x07FF007F#32, 0x0010006F#32, [13, 10, 7], false, bufInt⟩,
   ⟨0x07FF007F#32, 0x0018006F#32, [13, 10, 7], false, bufInt⟩,
   ⟨0x07FF007F#32, 0x0020006F#32, [13, 10, 7], false, bufInt⟩,
   ⟨0x07FF007F#32, 0x0028006F#32, [13, 10, 7], false, bufInt⟩,
   ⟨0x07F8007F#32, 0x0040006F#32, [16, 13, 10, 7], false, bufRound⟩,
   ⟨0x07FF007F#32, 0x0080006F#32, [13, 10, 7], false, bufInt⟩,
   ⟨0x07FF007F#32, 0x0088006F#32, [13, 10, 7], false, bufInt⟩,
   ⟨0x07FF007F#32, 0x0090006F#32, [13, 10, 7], false, bufInt⟩,
   ⟨0x07FF007F#32, 0x0098006F#32, [13, 10, 7], false, bufInt⟩,
   ⟨0x07FF007F#32, 0x00A0006F#32, [13, 10, 7], false, bufInt⟩]

/-- Major 56: VGATH, VSCAT, VSHUF, VIOTA. -/
def bufForms56 : List BufForm :=
  [⟨0xC7FF007F#32, 0x00000071#32, [13, 10, 7], false, bufAny⟩,
   ⟨0xC7FF007F#32, 0x00080071#32, [13, 10, 7], false, bufAny⟩,
   ⟨0xC7FF007F#32, 0x00100071#32, [13, 10, 7], false, bufAny⟩,
   ⟨0x07FFFC7F#32, 0x00180071#32, [7], false, bufRound⟩]

/-- Major 57: VCVT, VQENC, VQDEC. -/
def bufForms57 : List BufForm :=
  [⟨0x07FFE07F#32, 0x00000073#32, [10, 7], false, bufRound⟩,
   ⟨0x07F8007F#32, 0x00080073#32, [13, 10, 7], false, bufQenc⟩,
   ⟨0x07F8007F#32, 0x00100073#32, [13, 10, 7], false, bufQdec⟩]

/-- Major 60: MSET, MCLR, MLOAD, MSTAT. -/
def bufForms60 : List BufForm :=
  [⟨0xFFFFE3FF#32, 0x00000079#32, [], false, bufAny⟩,
   ⟨0xE7FFFC7F#32, 0x00080079#32, [], true, bufAcc⟩,
   ⟨0x1FFFE07F#32, 0x00100079#32, [10], true, bufAcc⟩,
   ⟨0xFFFFE3FF#32, 0x00180079#32, [], false, bufAny⟩]

/-- Major 61: MMA, MMAG. -/
def bufForms61 : List BufForm :=
  [⟨0x17FF007F#32, 0x0000007B#32, [13, 10], true, bufMul⟩,
   ⟨0x17F8007F#32, 0x0008007B#32, [16, 13, 10], true, bufMul⟩]

/-- Major 62: MLDT, MEPI. -/
def bufForms62 : List BufForm :=
  [⟨0x1FFFE07F#32, 0x0008007D#32, [10], true, bufAcc⟩,
   ⟨0x07FE007F#32, 0x0010007D#32, [13, 10], true, bufEpi⟩]

/-- Every form the buffer takes. -/
def bufForms : List BufForm :=
  bufForms52 ++ bufForms53 ++ bufForms54 ++ bufForms55 ++ bufForms56 ++ bufForms57 ++ bufForms60 ++ bufForms61 ++ bufForms62

/-- R347. The form of a slot that the buffer takes; none for a slot it refuses. -/
def bufForm (w : BitVec 32) : Option BufForm :=
  match (bufForms.find? fun f => decide (w &&& f.mask = f.bits)) with
  | some f => if f.ok w then some f else none
  | none => none

/-- A field of a slot replaced by its sum with k. -/
def stagger (w : BitVec 32) (lo n k : Nat) : BitVec 32 :=
  let v := (w.toNat / 2 ^ lo % 2 ^ n + k) % 2 ^ n
  (w &&& ~~~(BitVec.ofNat 32 ((2 ^ n - 1) * 2 ^ lo))) ||| BitVec.ofNat 32 (v * 2 ^ lo)

/-- R347. The slot of an iteration: each stream field gains k times the z stagger, the accumulator field k times its
own. -/
def staggered (w : BitVec 32) (k zst ast : Nat) : BitVec 32 :=
  match bufForm w with
  | none => w
  | some f =>
    let w := f.zs.foldl (fun w lo => stagger w lo 3 (k * zst)) w
    if f.acc then stagger w 7 2 (k * ast) else w

/-! ## The instructions of the buffer (R347) -/

/-- The slots of an image. -/
def slotsOf (n : Nat) (bs : List Byte) : List (BitVec 32) :=
  (List.range n).map fun i => BitVec.ofNat 32 (fieldAt bs (4 * i) 4)

/-- R347. REPLOAD. -/
def execRepload (b a : BitVec 7) (s : State) : Out :=
  issue s [a, b] [] true fun s => afterRun s fun s =>
    let v := (s.g b).toNat
    let n := v % 16
    if n = 0 ∨ 8 < n then raise s (trapIllegal s)
    else selfOperand s (s.g a).toNat (4 * n) 4 fun s pa => inPort s pa (4 * n) false fun s =>
      let ws := slotsOf n (readBytes s pa (4 * n))
      match (ws.find? fun w => (bufForm w).isNone) with
      | some w => raise s ⟨1, w.setWidth 64⟩
      | none =>
        let buf : RepBuf := { RepBuf.empty with body := ws, zst := v / 16 % 8, ast := v / 256 % 4 }
        doneSelf (s.mod fun th => { th with rep := buf }) false pa false

/-- R347. REPRUN. -/
def execReprun (b a : BitVec 7) (s : State) : Out :=
  issue s [a, b] [] true fun s => afterRun s fun s =>
    let n := (s.g a).toNat % 2 ^ 32
    let i0 := (s.g b).toNat % 2 ^ 32
    let start (r : RepBuf) : RepBuf := if n = 0 ∨ r.body = [] then r else { r with
      left := n, iter := i0, idx := 0, beat := 0, running := true, quit := false, wait := false
      due := nextOwn s.cyc s.cur.slot, pc := s.th.pc }
    retire (s.mod fun th => { th with rep := start th.rep }) false 1

/-- R347. REPSTOP: the run ends with its current instruction's last beat, which may be that of this cycle. -/
def execRepstop (s : State) : Out :=
  issue s [] [] true fun s =>
    let stop (th : Thread) : RepBuf :=
      if !th.rep.running then th.rep
      else if decide (th.runsAt = s.cyc) && decide (th.rep.beat = 0) && !th.rep.wait then { th.rep with quit := true }.next
      else { th.rep with quit := true }
    retire (s.mod fun th => { th with rep := stop th }) false 1

/-- R182. A buffered beat: the current instruction of the body, staggered, stands ready to be performed. -/
def execRepBufferBeat (t : ThreadId) (s : State) : Out :=
  let r := (threadOf s t).rep
  if !r.running then .next s
  else
    let w := staggered (r.body.getD r.idx 0) r.iter r.zst r.ast
    .next { s with cur := t, hand := some ⟨t, w, false, false, true⟩ }

end Sys2Proof.Machine
end

