-- ==== Sys2Proof/Machine/Engines.lean ====
section
/-! DEFINITION. The engines of a creel: PUSHC and POPR of major 47, the copy, gather and collective commands, and the barge
slot that pushes copies for mailboxes (R173, R174, R228, R230, R342 to R345). -/

namespace Sys2Proof.Machine

/-! ## A command's fields (R344) -/

/-- CKIND. -/
def cmKind (b : List Byte) : Nat := fieldAt b 0 1
/-- TAG. -/
def cmTag (b : List Byte) : Byte := BitVec.ofNat 8 (fieldAt b 1 1)
/-- ESIZE. -/
def cmEsize (b : List Byte) : Nat := fieldAt b 2 1
/-- AON. -/
def cmAon (b : List Byte) : Bool := decide (fieldAt b 3 1 % 2 = 1)
/-- TAGW. -/
def cmTagw (b : List Byte) : Bool := decide (fieldAt b 3 1 / 2 % 2 = 1)
/-- SRC. -/
def cmSrc (b : List Byte) : Nat := fieldAt b 8 8
/-- DST. -/
def cmDst (b : List Byte) : Nat := fieldAt b 0x10 8
/-- SSTRIDE. -/
def cmSstride (b : List Byte) : Int := signedOf 32 (fieldAt b 0x18 4)
/-- DSTRIDE. -/
def cmDstride (b : List Byte) : Int := signedOf 32 (fieldAt b 0x1C 4)
/-- SCOLS. -/
def cmScols (b : List Byte) : Nat := fieldAt b 0x20 2
/-- SROWS. -/
def cmSrows (b : List Byte) : Nat := fieldAt b 0x22 2
/-- DCOLS. -/
def cmDcols (b : List Byte) : Nat := fieldAt b 0x24 2
/-- DROWS. -/
def cmDrows (b : List Byte) : Nat := fieldAt b 0x26 2
/-- COL0. -/
def cmCol0 (b : List Byte) : Int := signedOf 16 (fieldAt b 0x28 2)
/-- ROW0. -/
def cmRow0 (b : List Byte) : Int := signedOf 16 (fieldAt b 0x2A 2)
/-- IDX. -/
def cmIdx (b : List Byte) : Nat := fieldAt b 0x30 8
/-- NIDX. -/
def cmNidx (b : List Byte) : Nat := fieldAt b 0x38 4

/-- R345. The engine that serves a kind. -/
def kindEngine (k : Nat) : Option Nat :=
  match k with
  | 1 => some 0
  | 2 => some 0
  | 3 => some 0
  | 4 => some 1
  | 5 => some 1
  | 6 => some 2
  | 7 => some 2
  | _ => none

/-- R344, R345. Is a command well formed for its engine? -/
def cmdOk (eng : Nat) (b : List Byte) : Bool :=
  let es := cmEsize b
  let k := cmKind b
  let mult (v : Int) : Bool := decide (v % es = 0)
  decide (kindEngine k = some eng ∧ (es = 1 ∨ es = 2 ∨ es = 4 ∨ es = 8) ∧ fieldAt b 3 1 < 4 ∧ fieldAt b 0x2C 4 = 0 ∧
    fieldAt b 0x3C 4 = 0 ∧ 1 ≤ cmScols b ∧ 1 ≤ cmSrows b ∧ cmIdx b % 4 = 0) &&
    mult (cmSrc b) && mult (cmDst b) && mult (cmIdx b) && mult (cmSstride b) && mult (cmDstride b) &&
    decide ((k = 2 → cmDrows b = cmNidx b ∧ cmDcols b = cmScols b) ∧ (k = 3 → cmDcols b = cmScols b))

/-! ## The accesses of a command (R344) -/

/-- The rights under which a command's accesses are made: those of the pushing thread. -/
def cmdThread (c : Command) : Thread :=
  { Thread.blank with asid := c.asid, root := c.root, status := if c.sup then 0x10000 else 0, key := c.key }

/-- A 64-bit address from a sum. -/
def addr64 (a : Int) : Nat := (a % 2 ^ 64).toNat

/-- The accesses of a command: they change the state, and may end the command with a status. -/
abbrev CmdM (α : Type) : Type := ExceptT Nat (StateM State) α

/-- R57. Does the controller refuse an access through a leaf for its version? -/
def staleLeaf (s : State) (leaf : Word) (pa : Nat) (h : Home) : Bool :=
  pteMig leaf && isDram h && decide (s.frameVer.get (pa / 65536) 0 ≠ pteVer leaf)

/-- R55, R57, R344. The home of an access through the translation cache, or the status it ends with: 1 translation or
permission, 2 scope. An answer RETRANSLATE drops the entry, and the access is made again; one that the walked leaf itself
keeps provoking, and one to a fenced home, ends with status 1 (DEDUCED, log 44). -/
def cmdThrough (c : Command) (va : Nat) (need : Need) : Nat → CmdM (Nat × Home × Word)
  | 0 => throw 1
  | more + 1 => do
    let k := c.core.creel
    match lookUp (← get) k c.asid c.root.toNat va with
    | .error _ => throw 1
    | .ok (s, e) =>
      set s
      match throughLeaf s ⟨c.core, c.slot⟩ (cmdThread c) va need e.leaf (e.pa va) with
      | .trap tr => throw (if tr.code = 4 then 2 else 1)
      | .remote pa h leaf =>
        if fencedAt s (homeKey h) then throw 1
        else if staleLeaf s leaf pa h then
          set (modCreel s k fun x => { x with tlb := dropPage x.tlb c.asid va })
          cmdThrough c va need more
        else return (pa, h, leaf)
      | _ => throw 1

/-- R344. The physical address of n bytes that a command accesses, or the status it ends with. The access is counted for the
migration logic (R59), and for a unit that a sluice is copying, which delays it (R128; the delay is part of the command's
free time, log 6). -/
def cmdPa (c : Command) (va n : Nat) (need : Need) : CmdM Nat := do
  if 2 ^ 57 ≤ va then throw 1
  let (pa, h, mig) ← (do
    if selfBase ≤ va then
      match selfPa (← get) c.core (va - selfBase) n with
      | some pa => return (pa, homeOf (← get) pa, false)
      | none => throw 1
    else
      let (pa, h, leaf) ← cmdThrough c va need 2
      return (pa, some h, pteMig leaf) : CmdM (Nat × Option Home × Bool))
  match h with
  | none => throw 1
  | some h =>
    modify fun s => countFrame (if copying s h pa n then count s h.die 70 else s) mig pa h
    return pa

/-- R344. The bytes and quarter tags of an element, or the status. -/
def cmdRead (c : Command) (va n : Nat) : CmdM (List Byte × List Bool) := do
  let pa ← cmdPa c va n needLoad
  let s ← get
  match homeOf s pa with
  | some (.device d) => return (regBytes s d pa n, [])
  | _ =>
    modify fun s => noteRead s pa n
    if poisoned s pa n then throw 4
    return (readBytes s pa n, (List.range (n / 2)).map fun q => tagAt s (pa + 2 * q))

/-- Quarter tags set as an element carried them. -/
def putTags (m : List Host.Cell) (pa : Nat) : List Bool → List Host.Cell
  | [] => m
  | b :: r => putTags (putTag m pa b) (pa + 2) r

/-- R344. An element written at a physical address with the tags it carries; one of a byte clears its quarter's. A write to a
line already copied by a migration is forwarded whole (R134). -/
def cmdPut (s : State) (pa : Nat) (bs : List Byte) (tags : List Bool) : State :=
  match homeOf s pa with
  | some (.device d) => regPut s d pa bs none
  | _ =>
    let s := performWrite s pa bs false
    mirror { s with bits := putTags s.bits pa tags } pa bs.length

/-- R424. A write of a command that would meet an uncorrectable error in part of a check unit ends the command with status 4. -/
def cmdStore (pa : Nat) (bs : List Byte) (tags : List Bool) : CmdM Unit := do
  if partialPoison (← get) pa bs.length bs.length then
    modify fun s => noteRead s pa bs.length
    throw 4
  modify fun s => cmdPut s pa bs tags

/-- A command under way: the state, the bytes written, and the status that has ended it. -/
structure CmdRun where
  s : State
  bytes : Nat
  status : Nat

/-- One more access, unless the command has ended. -/
def CmdRun.go (r : CmdRun) (f : CmdM Nat) : CmdRun :=
  if r.status ≠ 0 then r
  else match f.run.run r.s with
    | (.error n, s) => { r with s := s, status := n }
    | (.ok n, s) => { r with s := s, bytes := r.bytes + n }

/-- One element from a source address to a destination address. -/
def cmdCopy (c : Command) (n : Nat) (src dst : Int) : CmdM Nat := do
  let (bs, tags) ← cmdRead c (addr64 src) n
  let pa ← cmdPa c (addr64 dst) n needStore
  cmdStore pa bs tags
  return n

/-- Entry i of the index list. -/
def cmdIndex (c : Command) (i : Nat) : CmdM Nat := do
  let (bs, _) ← cmdRead c (addr64 ((cmIdx c.bytes + 4 * i : Nat) : Int)) 4
  return leNat bs

/-- A value held between two bounds. -/
def clampInt (v lo hi : Int) : Int := max lo (min hi v)

/-- R345. The source and destination of one row-major element of kinds 1 to 5; none where an index skips it. `i` is the
destination row of kinds 1 and 2, the source row of 3, the index of 4 and 5; `k` the column. -/
def cmdPlace (c : Command) (i k : Nat) : CmdM (Option (Int × Int)) := do
  let b := c.bytes
  let es : Int := cmEsize b
  let src (r q : Int) : Int := (cmSrc b : Int) + r * cmSstride b + q * es
  let dst (r q : Int) : Int := (cmDst b : Int) + r * cmDstride b + q * es
  match cmKind b with
  | 1 => return some (src (clampInt (i + cmRow0 b) 0 (cmSrows b - 1)) (clampInt (k + cmCol0 b) 0 (cmScols b - 1)), dst i k)
  | 2 =>
    let j ← cmdIndex c i
    return some (src (min j (cmSrows b - 1) : Nat) k, dst i k)
  | 3 =>
    let j ← cmdIndex c i
    return if j < cmDrows b then some (src i k, dst j k) else none
  | 4 =>
    let j ← cmdIndex c i
    return some (src 0 j, dst 0 i)
  | _ =>
    let j ← cmdIndex c i
    return some (src 0 i, dst 0 j)

/-- Rows and columns of a command's walk (R345). -/
def cmdWalk (b : List Byte) : Nat × Nat :=
  match cmKind b with
  | 1 => (cmDrows b, cmDcols b)
  | 2 => (cmNidx b, cmScols b)
  | 3 => (cmNidx b, cmScols b)
  | _ => (cmNidx b, 1)

/-- R345. Every element of kinds 1 to 5, row outer and column inner. -/
def cmdElements (c : Command) (r : CmdRun) : CmdRun :=
  let (rows, cols) := cmdWalk c.bytes
  (List.range rows).foldl (fun r i => (List.range cols).foldl (fun r k => r.go do
    match ← cmdPlace c i k with
    | some (a, d) => cmdCopy c (cmEsize c.bytes) a d
    | none => return 0) r) r

/-! ## All-or-nothing destinations and tags (R230, R344) -/

/-- The first and the last address of a command's destination box with its metadata word. -/
def cmdBox (b : List Byte) : Int × Int :=
  let (rows, cols) : Nat × Nat := match cmKind b with
    | 1 => (cmDrows b, cmDcols b)
    | 2 => (cmNidx b, cmScols b)
    | 4 => (1, cmNidx b)
    | _ => (cmDrows b, cmDcols b)
  let d : Int := cmDst b
  let far : Int := d + ((rows : Int) - 1) * cmDstride b
  (min (d - 8) far, max d far + (cols : Int) * (cmEsize b : Int) - 1)

/-- The page of an address for a command, with the home of its byte: the page's first address, or the store. -/
def cmdPage (c : Command) (va : Nat) : CmdM (Nat × Option Home) := do
  let pa ← cmdPa c va 1 needStore
  let s ← get
  if selfBase ≤ va then return (selfBase, homeOf s pa)
  match tlbFind s c.core.creel c.asid va with
  | some e => return (va / pageBytes e.size * pageBytes e.size, homeOf s pa)
  | none => throw 1

/-- R344. Is the box of an all-or-nothing command within one page and one home? -/
def cmdWhole (s : State) (c : Command) : Bool :=
  let (lo, hi) := cmdBox c.bytes
  let both : CmdM Bool := do return decide ((← cmdPage c (addr64 lo)) = (← cmdPage c (addr64 hi)))
  match (both.run.run s).1 with
  | .ok b => b
  | .error _ => false

/-- R230. VERS of the metadata word below a physical address goes up by one. -/
def cmdVers (pa : Nat) : CmdM Nat := do
  let w := readWord (← get) (pa - 8)
  cmdStore (pa - 8) (leBytes 8 (w.extractLsb' 48 16 ++ (w.extractLsb' 32 16 + 1) ++ w.extractLsb' 0 32).toNat) []
  return 0

/-- R344. SEQTAG written as a TAGSET to the word below a physical address. -/
def cmdSeqtag (c : Command) (pa : Nat) : CmdM Nat := do
  cmdStore (pa - 8) (leBytes 4 (fieldAt c.bytes 4 4)) []
  return 0

/-- R344. The last of a command of kinds 1 to 5: SEQTAG, when it asks for it. -/
def cmdTagAfter (c : Command) (r : CmdRun) : CmdRun :=
  if cmTagw c.bytes then r.go do
    let pa ← cmdPa c (addr64 ((cmDst c.bytes : Int) - 8)) 8 needStore
    cmdSeqtag c (pa + 8)
  else r

/-- R344, R345. A command of kinds 1 to 5 performed. -/
def cmdRun (s : State) (c : Command) : CmdRun :=
  if cmAon c.bytes then
    match (cmdPa c (addr64 ((cmDst c.bytes : Int) - 8)) 8 needStore).run.run s with
    | (.error _, s) => ⟨s, 0, 3⟩
    | (.ok pa, s) =>
      if !cmdWhole s c then ⟨s, 0, 3⟩
      else
        let r := cmdElements c (CmdRun.go ⟨s, 0, 0⟩ (cmdVers (pa + 8)))
        cmdTagAfter c (r.go (cmdVers (pa + 8)))
  else cmdTagAfter c (cmdElements c ⟨s, 0, 0⟩)

/-! ## Collective commands (R345) -/

/-- The creels of a team's rectangle that are there, row by row. -/
def teamCreels (s : State) (k : TeamKey) : List CreelId :=
  match s.teams.find k with
  | none => []
  | some r => creelsIn s r.x r.y r.w r.h

/-- The physical address of n bytes at a scratchpad offset of a creel, or status 1. -/
def padPa (k : CreelId) (off : Int) (n : Nat) : CmdM Nat := do
  let s ← get
  let o := (off % 2 ^ 20).toNat
  if o + n ≤ (creelOf s k).spBytes then
    if copying s (.scratch k) (windowBase k + o) n then set (count s k.die 70)
    return windowBase k + o
  else throw 1

/-- R345. Kind 6: the source box at a scratchpad offset of every creel of the team. -/
def cmdBroadcast (s : State) (c : Command) (k : TeamKey) : CmdRun :=
  let b := c.bytes
  let n := cmEsize b
  let creels := teamCreels s k
  let vers (r : CmdRun) : CmdRun := if cmAon b then creels.foldl (fun r q => r.go do
    let pa ← padPa q ((cmDst b : Int) - 8) 8
    cmdVers (pa + 8)) r else r
  let place (i j : Nat) : Int := (cmDst b : Int) + (i : Int) * cmDstride b + (j : Int) * n
  let one (i j : Nat) : CmdM Nat := do
    let (bs, tags) ← cmdRead c (addr64 ((cmSrc b : Int) + (i : Int) * cmSstride b + (j : Int) * n)) n
    creels.forM fun q => do
      let pa ← padPa q (place i j) n
      cmdStore pa bs tags
    return n
  let r := vers ⟨s, 0, 0⟩
  let r := (List.range (cmSrows b)).foldl (fun r i => (List.range (cmScols b)).foldl (fun r j => r.go (one i j)) r) r
  let r := vers r
  if cmTagw b then creels.foldl (fun r q => r.go do
    let pa ← padPa q ((cmDst b : Int) - 8) 8
    cmdSeqtag c (pa + 8)) r
  else r

/-- The W32 elements of a contribution. -/
def cmdElems (c : Command) : CmdM (List MElem) :=
  (List.range (cmScols c.bytes)).mapM fun i => do
    let (bs, tags) ← cmdRead c (addr64 ((cmSrc c.bytes + 4 * i : Nat) : Int)) 4
    pure ⟨BitVec.ofNat 32 (leNat bs), tags.getD 0 false⟩

/-- The pair an element holds: a NaN has S clear. -/
def partPair (e : MElem) : Pair := match decodeW32 e.bits with
  | .nan => ⟨.nan, false⟩
  | x => ⟨x, e.s⟩

/-- R255, R109. Element i of a split-K sum at the tree node (rx, ry): its own value, then the east child's, then, in the
first column, the north child's. -/
def treeSum (part : Nat → Nat → Option (List MElem)) (i w h : Nat) : Nat → Nat → Nat → Pair
  | 0, _, _ => .zero
  | fuel + 1, rx, ry =>
    let own := ((part rx ry).map fun l => partPair (l.getD i ⟨0, false⟩))
    let plus (a : Option Pair) (b : Pair) : Option Pair := match a with
      | some a => some (fadd a b).1
      | none => some b
    let east := if rx + 1 < w then plus own (treeSum part i w h fuel (rx + 1) ry) else own
    let north := if rx = 0 ∧ ry + 1 < h then plus east (treeSum part i w h fuel rx (ry + 1)) else east
    north.getD .zero

/-! ## Results (R174, R343) -/

/-- An engine of a creel. -/
def engineOf (s : State) (k : CreelId) (eng : Nat) : Engine := (creelOf s k).engines.get eng Engine.initial

/-- An engine changed. -/
def modEngine (s : State) (k : CreelId) (eng : Nat) (f : Engine → Engine) : State :=
  modCreel s k fun c => { c with engines := c.engines.put eng (f (c.engines.get eng Engine.initial)) }

/-- Threads of a creel parked on a condition are taken up again. -/
def wakeCreel (s : State) (k : CreelId) (p : Cond → Bool) : State :=
  s.threads.foldl (fun s' (t, th) => match th.wait with
    | .redo c => if decide (t.core.creel = k) && p c then s'.at s'.cyc (.redo t) else s'
    | _ => s') s

/-- R343. The result word of a command. -/
def engResult (tag : Byte) (eng status bytes : Nat) : Word :=
  tag ++ BitVec.ofNat 8 eng ++ BitVec.ofNat 8 status ++ 0#8 ++ BitVec.ofNat 32 bytes

/-- R174. The completion entry of a copy. -/
def copyEntry (slot : Nat) (tag : Byte) (status bytes : Nat) : MqEntry :=
  ⟨BitVec.ofNat 32 bytes ++ BitVec.ofNat 8 status ++ tag ++ BitVec.ofNat 8 slot ++ 1#8, 0⟩

/-- R345. A command is complete: its result, or its completion entry, enters, and those who waited for it wake. -/
def engineEnd (s : State) (k : CreelId) (eng : Nat) (c : Command) (status bytes : Nat) : State :=
  let s := modEngine s k eng fun e => { e with work := e.work.filter fun x => x.id ≠ c.id }
  let s := match c.barge with
    | some tag => enqueueEntry s c.core (copyEntry c.slot tag status bytes)
    | none => modEngine s k eng fun e =>
        { e with results := e.results ++ [⟨c.core, c.slot, engResult (cmTag c.bytes) eng status bytes⟩] }
  wakeCreel s k fun q => match q with
    | .pop e => decide (e = eng)
    | .push e => decide (e = eng)
    | .ending => true
    | _ => false

/-- The contributions of a reduction, held at the root creel's collective engine. -/
def partOf (e : Engine) (k : TeamKey) (tag : Byte) (c : CreelId) : Option (List MElem) :=
  (e.parts.find? fun p => decide (p.1 = k ∧ p.2.1 = tag ∧ p.2.2.1 = c)).map (·.2.2.2)

/-- R345. Kind 7 with every contribution in: the sum is written at the root and every command completes. -/
def reduceAll (s : State) (k : TeamKey) (tag : Byte) (r : TeamSt) : State :=
  let root : CreelId := ⟨r.x, r.y⟩
  let e := engineOf s root 2
  let mine (q : CreelId) : Option Command :=
    (engineOf s q 2).work.find? fun c => decide (cmKind c.bytes = 7 ∧ c.key = some k ∧ cmTag c.bytes = tag)
  let part (rx ry : Nat) := partOf e k tag ⟨r.x + rx, r.y + ry⟩
  let res : CmdRun := match mine root with
    | none => ⟨s, 0, 3⟩
    | some c =>
      let r0 : CmdRun := (List.range (cmScols c.bytes)).foldl (fun a (i : Nat) => a.go do
        let pa ← padPa root ((cmDst c.bytes + 4 * i : Nat) : Int) 4
        let v := treeSum part i r.w r.h (r.w + r.h + 1) 0 0
        cmdStore pa (leBytes 4 (encodeW32 v.x).toNat) [v.s, v.s]
        return 4) ⟨s, 0, 0⟩
      if cmTagw c.bytes then r0.go do
        let pa ← padPa root ((cmDst c.bytes : Int) - 8) 8
        cmdSeqtag c (pa + 8)
      else r0
  let s := modEngine res.s root 2 fun e => { e with parts := e.parts.filter fun p => !decide (p.1 = k ∧ p.2.1 = tag) }
  (teamCreels s k).foldl (fun s q => match mine q with
    | none => s
    | some c => if q = root then engineEnd s q 2 c res.status res.bytes else engineEnd s q 2 c 0 0) s

/-- R345. The contribution of a command of kind 7; one whose creel has contributed to this tag already waits. -/
def reduceOne (s : State) (q : CreelId) (c : Command) (k : TeamKey) (r : TeamSt) : State :=
  let root : CreelId := ⟨r.x, r.y⟩
  let tag := cmTag c.bytes
  match partOf (engineOf s root 2) k tag q with
  | some _ => s.after 16 (.event (.engineCommandComplete q 2 c.id))
  | none =>
    match (cmdElems c).run.run s with
    | (.error n, s) => engineEnd s q 2 c n 0
    | (.ok es, s) =>
      let s := modEngine s root 2 fun e => { e with parts := e.parts ++ [(k, tag, q, es)] }
      let e := engineOf s root 2
      if (teamCreels s k).all fun q => (partOf e k tag q).isSome then reduceAll s k tag r else s

/-- R345. A command that its engine works on ends: a malformed one with status 3 before any access; the others when their
last write is performed. -/
def engineWork (s : State) (k : CreelId) (eng : Nat) (c : Command) : State :=
  if !cmdOk eng c.bytes then engineEnd s k eng c 3 0
  else if cmKind c.bytes ≤ 5 then
    let r := cmdRun s c
    engineEnd r.s k eng c r.status r.bytes
  else match c.key with
    | none => engineEnd s k eng c 3 0
    | some t =>
      match s.teams.find t with
      | none => engineEnd s k eng c 3 0
      | some r =>
        if cmKind c.bytes = 6 then
          let b := cmdBroadcast s c t
          engineEnd b.s k eng c b.status b.bytes
        else reduceOne s k c t r

/-- R345. A command of an engine's FIFO is taken into work, and one in work completes. The time of the work is free
(DESIGN CHOICE, log 6); a halted creel's engines wait (R145), and those behind a fenced boundary come to nothing more (R139). -/
def execEngineCommandComplete (k : CreelId) (eng cmd : Nat) (s : State) : Out :=
  let e := engineOf s k eng
  let find (l : List Command) := l.find? fun c => decide (c.id = cmd)
  .next (if fencedAt s k then s else match find e.fifo, find e.work with
    | some c, _ =>
      if enginesFrozen s k then s.after 16 (.event (.engineCommandComplete k eng cmd))
      else
        let s := modEngine s k eng fun e => { e with fifo := e.fifo.filter (fun x => x.id ≠ cmd), work := e.work ++ [c] }
        let s := wakeCreel s k fun q => decide (q = .push eng)
        (s.after (1 + Config.delay s.free) (.event (.engineCommandComplete k eng cmd))).drawn
    | none, some c =>
      if enginesFrozen s k then s.after 16 (.event (.engineCommandComplete k eng cmd))
      else engineWork s k eng c
    | none, none => s)

/-! ## PUSHC and POPR (R342, R343) -/

/-- Commands of a slot that an engine has not completed. -/
def outstanding (s : State) (t : ThreadId) (eng : Nat) (barge : Bool) : Nat :=
  let e := engineOf s t.core.creel eng
  ((e.fifo ++ e.work).filter fun c => decide (c.core = t.core ∧ c.slot = t.slot) && (barge || c.barge.isNone)).length

/-- R342. Has an engine room for a further command of a slot? -/
def engineRoom (s : State) (t : ThreadId) (eng : Nat) : Bool :=
  decide ((engineOf s t.core.creel eng).fifo.length < 16) && decide (outstanding s t eng true < 8)

/-- A command enters the FIFO of an engine on a slot's behalf. -/
def pushCommand (s : State) (t : ThreadId) (eng : Nat) (bs : List Byte) (barge : Option Byte) : State :=
  let th := threadOf s t
  let c : Command := ⟨s.token, t.core, t.slot, bs, th.asid, th.root, stSup th.status, th.key, barge⟩
  let k := t.core.creel
  (modEngine s.fresh k eng fun e => { e with fifo := e.fifo ++ [c] }).after 1 (.event (.engineCommandComplete k eng c.id))

/-- R342. PUSHC, release-kind; not inside a static region (R178). -/
def execPushc (b a : BitVec 7) (s : State) : Out :=
  issue s [a, b] [] s.free? fun s =>
    let eng := (s.g b).toNat % 4
    selfOperand s (s.g a).toNat 64 64 fun s pa => inPort s pa 64 false fun s => ordered s false true fun s =>
      let bs := readBytes s pa 64
      if eng = 3 then
        doneSelf (modEngine s s.cur.core.creel 0 fun e =>
          { e with results := e.results ++ [⟨s.cur.core, s.cur.slot, engResult (cmTag bs) 0 3 0⟩] }) false pa false
      else if !engineRoom s s.cur eng then parkOn s (.push eng)
      else doneSelf (pushCommand s s.cur eng bs none) false pa false

/-- R343. POPR; not inside a static region (R178). -/
def execPopr (a d : BitVec 7) (s : State) : Out :=
  issue s [a] [d] s.free? fun s =>
    let eng := (s.g a).toNat % 4
    let k := s.cur.core.creel
    match ((engineOf s k eng).results.find? fun r => decide (r.core = s.cur.core ∧ r.slot = s.cur.slot)) with
    | some r => ordered s true false fun s =>
      retire ((modEngine s k eng fun e => { e with results := e.results.erase r }).setG d r.word) false 1
    | none => if outstanding s s.cur eng false = 0 then retire (s.setG d 0) false 1 else parkOn s (.pop eng)

/-! ## The barge slot (R173) -/

/-- The FULL served mailbox that comes next after the one served last. -/
def nextServed (s : State) (c : CoreId) : Option Nat :=
  ((List.range 16).map fun i => ((coreOf s c).lastServed + 1 + i) % 16).find? (bargeServes s c)

/-- R173. The barge slot takes a FULL served mailbox, empties it and pushes the copy for the requesting slot; a request
that names no command is answered with status 3. It waits while the copy engine's FIFO has no room, and while its
creel is halted or not clocked. It takes one every 4 cycles, so that each is taken within 64 (DESIGN CHOICE, log 6). -/
def execBargeTake (core : CoreId) (s : State) : Out :=
  match nextServed s core with
  | none => .next s
  | some n =>
    let m := mboxOf s core n
    let t : ThreadId := ⟨core, m.filler⟩
    if haltedNow s core || !clocked s core then .next (s.at (nextOwn s.cyc 15) (.event (.bargeTake core)))
    else if 16 ≤ (engineOf s core.creel 0).fifo.length then .next (s.after 4 (.event (.bargeTake core)))
    else
      let s := setMbox (modCore s core fun k => { k with lastServed := n }) core n { m with full := false }
      let off := m.value.toNat % 2 ^ 20
      let tag := m.value.extractLsb' 56 8
      let s :=
        if (s.threads.find t).isNone then s
        else if (m.value.extractLsb' 20 36).toNat ≠ 0 ∨ off % 64 ≠ 0 then enqueueEntry s core (copyEntry m.filler tag 3 0)
        else match selfPa s core off 64 with
          | none => enqueueEntry s core (copyEntry m.filler tag 3 0)
          | some pa =>
            if poisoned s pa 64 then enqueueEntry s core (copyEntry m.filler tag 4 0)
            else pushCommand s t 0 (readBytes s pa 64) (some tag)
      .next (if (nextServed s core).isSome then s.after 4 (.event (.bargeTake core)) else s)

end Sys2Proof.Machine
end

