-- ==== Sys2Proof/Machine/Stop.lean ====
section
/-! DEFINITION. The stop of threads at a rotation boundary, for a pre-emption or for mooring: what is in flight there
completes or is abandoned (R19, R115, R300, R317, R392, R393). -/

namespace Sys2Proof.Machine

/-! ## The boundary (R115, R159) -/

/-- The last cycle before the next rotation boundary: what stops at the boundary stops at its end. -/
def boundaryEve (cyc : Nat) : Nat := (cyc / 16 + 1) * 16 - 1

/-- A happening at the end of the last cycle before the next rotation boundary. -/
def State.atBoundary (s : State) (e : Event) : State := s.at (boundaryEve s.cyc) (.event e)

/-- The same a rotation later than one that happens now. -/
def State.nextBoundary (s : State) (e : Event) : State := s.at (s.cyc + 16) (.event e)

/-! ## The matrix unit (R392, R393) -/

/-- Beats that a running instruction has left. -/
def beatsLeft (s : State) (c : CoreId) (r : MResult) : Nat :=
  match (creelOf s c.creel).halt with
  | some h => if haltedNow s c then r.finish - (h.h + ringDelta c.node h.ring - 1) else r.finish - s.cyc
  | none => r.finish - s.cyc

/-- R393. Has the instance of a grid core, for a team's MSEQ, its operands and less than `limit` beats left, or has it been
committed? -/
def instanceReady (s : State) (k : Option TeamKey) (c : CoreId) (q : BitVec 32) (major limit : Nat) : Bool :=
  (match (coreOf s c).mrun with
    | some r =>
      r.team && decide (r.finish ≠ 0 ∧ (threadOf s ⟨c, r.instr.slot⟩).mseq = q ∧
        (r.instr.word.extractLsb' 1 6).toNat = major ∧ beatsLeft s c r < limit)
    | none => false) ||
    s.threads.any fun (u, th) => decide (u.core = c ∧ th.key = k ∧ th.mseq = q + 1)

/-- The cores whose instances complete together with one: the grid of a MTEAM, the partner of a MSWAP. -/
def instanceCores (s : State) (t : ThreadId) (swap : Bool) : List CoreId :=
  let d := (threadOf s t).mdesc
  match gridPos s t with
  | none => [t.core]
  | some (r, gx, gy) =>
    if swap then [t.core, gridAt r d gy gx]
    else (List.range (mdGh d)).flatMap fun y => (List.range (mdGw d)).map fun x => gridAt r d x y

/-- R392, R393. Does the running instruction of a core complete at a boundary? -/
def runCompletes (s : State) (c : CoreId) (r : MResult) : Bool :=
  let t : ThreadId := ⟨c, r.instr.slot⟩
  let th := threadOf s t
  if r.team then
    let swap := decide ((r.instr.word.extractLsb' 1 6).toNat ≠ 61)
    (instanceCores s t swap).all fun x =>
      instanceReady s th.key x th.mseq (if swap then 62 else 61) (if swap then 2 ^ 32 else 256)
  else decide (beatsLeft s c r < 256)

/-- R392, R393. The running instruction of a core is abandoned, with the blocks and messages it has sent or holds. -/
def abandonRun (s : State) (c : CoreId) (r : MResult) : State :=
  let t : ThreadId := ⟨c, r.instr.slot⟩
  let q := (threadOf s t).mseq
  let cores := if r.team then instanceCores s t (decide ((r.instr.word.extractLsb' 1 6).toNat ≠ 61)) else []
  let s := cancel s fun e => match e with
    | .matrixCommit x => decide (x = c)
    | .mteamBlockArrival x b => r.team && decide (b.mseq = q ∧ (b.src = c ∨ x = c))
    | .mswapMessageArrival x m => r.team && decide (m.mseq = q ∧ (m.src = c ∨ x = c))
    | _ => false
  let s := cores.foldl (fun s x => modCore s x fun k => { k with
    blocks := k.blocks.filter fun b => !decide (b.mseq = q ∧ (b.src = c ∨ x = c))
    swaps := k.swaps.filter fun m => !decide (m.mseq = q ∧ (m.src = c ∨ x = c)) }) s
  wakeUnit (modCore s c fun k => { k with mrun := none }) c

/-- R392. The thread of an M-form at a boundary: one not accepted is not performed; one in the unit completes or is
abandoned. A frozen unit (R146) goes on for one that completes (R148). -/
def stopMatrix (s : State) (t : ThreadId) : State :=
  let halt (s : State) : State := modThread s t fun th => { th with wait := .stopped, parked := none }
  let c := t.core
  if (coreOf s c).mqueue.any fun m => decide (m.slot = t.slot ∧ m.buffered = false) then
    halt (modCore s c fun k => { k with mqueue := k.mqueue.filter fun m => !decide (m.slot = t.slot ∧ m.buffered = false) })
  else match (coreOf s c).mrun with
  | some r =>
    if r.instr.slot ≠ t.slot ∨ r.instr.buffered = true then s
    else if !runCompletes s c r then halt (abandonRun s c r)
    else
      let due := s.agenda.any fun d => match d.act with
        | .event (.matrixCommit x) => decide (x = c)
        | _ => false
      if due then s
      else
        let n := max 1 (beatsLeft s c r)
        (modCore s c fun k => { k with mrun := some { r with finish := s.cyc + n } }).after n (.event (.matrixCommit c))
  | none => s

/-! ## One thread (R115) -/

/-- The instruction of several beats that a thread has begun is abandoned: flags of beats performed stand (R361). -/
def abandonBeats (th : Thread) : Thread :=
  if th.going then { th with
    status := orFlags th.status th.vflags
    vflags := 0, vsrd := false, vphase := 0, vrow := [], going := false, finishing := false, gathered := [], answer := none }
  else th

/-- R115. What a thread that is to stop has in flight at a boundary: completed first, or abandoned. -/
def stopOne (s : State) (t : ThreadId) : State :=
  let th := threadOf s t
  let halt (f : Thread → Thread) : State :=
    modThread s t fun th => { f (abandonBeats th) with
      wait := .stopped, parked := none, req := none, drains := false, delay := 0 }
  if drainsPair s t th then modThread s t fun th => { th with drains := true }
  else match th.wait with
  | .stopped => cancel s fun e => match e with
      | .dispatchEnterRotation x => decide (x = t)
      | _ => false
  | .halted => s
  | .run => if th.going && th.finishing then s else halt id
  | .rest => halt id
  | .line _ => halt id
  | .reply _ => cancelWait s t
  | .redo .answer => s
  | .redo .device => s
  | .redo .matrix => stopMatrix s t
  -- R304: the park of WFE is complete
  | .redo (.event _) => halt fun th => { th with pc := nextSlot th.pc }
  | .redo _ => halt id

/-- Has a thread that is to stop stopped, its posted writes acknowledged, its engine commands complete, its repetition
buffer between two iterations, nothing of it in the matrix unit, the comparator drained? -/
def hasStopped (s : State) (t : ThreadId) (th : Thread) : Bool :=
  decide (th.wait = .stopped ∨ th.wait = .halted) && th.posted.isEmpty && th.held.isEmpty && (!th.rep.running || betweenRuns th.rep) &&
    !engineBusy s t && (coreOf s t.core).mqueue.all (fun m => decide (m.slot ≠ t.slot)) &&
    (match (coreOf s t.core).mrun with
      | some r => decide (r.instr.slot ≠ t.slot)
      | none => true)

/-- Threads marked to stop, and stopped as far as they can be at this boundary. -/
def stopAll (s : State) (p : ThreadId → Thread → Bool) : State :=
  let ts := (s.threads.filter fun (t, th) => p t th).map (·.1)
  let s := ts.foldl (fun s t => modThread s t fun th => { th with stopping := true }) s
  ts.foldl stopOne s

/-- Have all of them stopped? -/
def allStopped (s : State) (p : ThreadId → Thread → Bool) : Bool :=
  s.threads.all fun (t, th) => !p t th || hasStopped s t th

/-- R19. Must a thread stop for a mooring of itself: it belongs to no team, whose save would stop it? -/
def moorStops (_ : ThreadId) (th : Thread) : Bool := th.key.isNone

/-- R19. Is a message on the mesh? -/
def messageInFlight (s : State) : Bool := s.agenda.any fun d => match d.act with
  | .arrive _ => true
  | _ => false

/-- R14. Is what an agenda entry does carried by the mesh until its time: a message, a memory request or reply, a walker's
read, a block of the matrix units, an attempt to steal, a done message, a shootdown or a flood? -/
def onMesh (a : Act) : Bool :=
  match a with
  | .arrive _ => true
  | .walkRead _ => true
  | .walkArrive _ => true
  | .gateAgain _ => true
  | .walkEnd .. => true
  | .event e => (match e with
    | .memLoad _ => true
    | .memStore _ => true
    | .memAtomic _ => true
    | .memSubByteStore _ => true
    | .memDestAdd _ => true
    | .memDestMin _ => true
    | .memDestMax _ => true
    | .memFullEmpty _ => true
    | .memoryReply _ => true
    | .waitCancel _ => true
    | .icacheLineFill .. => true
    | .gateTestReply .. => true
    | .walkEntryReply .. => true
    | .stealRequest .. => true
    | .stealReply .. => true
    | .doneReceive .. => true
    | .enqRemoteArrival .. => true
    | .enqAnswer .. => true
    | .mteamBlockArrival .. => true
    | .mswapMessageArrival .. => true
    | .shootdownReceive .. => true
    | .shootdownCompletion _ => true
    | .floodFlitArrival .. => true
    | .floodAnswer .. => true
    | .imagePacketArrival .. => true
    | .imageAck .. => true
    | _ => false)
  | _ => false

/-- R14. Is any flit on the mesh? -/
def meshBusy (s : State) : Bool := s.agenda.any fun d => onMesh d.act

/-- R353. The stream registers of a restored thread. -/
def streamsAgain (s : State) (t : ThreadId) : State :=
  modThread s t fun th => { th with z := th.z.map (shapeAgain s t) }

/-- R22, R163. A thread that stopped enters the rotation again at the next boundary, in its own slot; one halted by HALT stays
so. The lines of a static region are locked again first (R181). -/
def resumeThread (s : State) (t : ThreadId) : State :=
  let b := boundaryEve s.cyc
  modThread s t fun th => { th with
    stopping := false
    drains := false
    wait := if th.wait = .halted then .halted else .run
    ready := nextOwn b t.slot
    lent := none
    rep := { th.rep with due := nextOwn b t.slot }
    region := th.region.map fun r => { r with relock := true } }

end Sys2Proof.Machine
end

