-- ==== Sys2Proof/Machine/Image.lean ====
section
/-! DEFINITION. Save images (R116): what is taken of a team on its rectangle, how a team leaves it, how a rectangle's
creels are reset (R26, R113, R139), and how an image is restored (R118). -/

namespace Sys2Proof.Machine

/-! ## Places -/

/-- A creel as seen from a corner. -/
def relCreel (x y : Nat) (c : CreelId) : CreelId := ⟨c.x - x, c.y - y⟩
/-- A team-relative creel on the mesh. -/
def absCreel (x y : Nat) (c : CreelId) : CreelId := ⟨c.x + x, c.y + y⟩
/-- A core as seen from a corner. -/
def relCore (x y : Nat) (c : CoreId) : CoreId := ⟨c.x - x, c.y - y, c.node⟩
/-- A team-relative core on the mesh. -/
def absCore (x y : Nat) (c : CoreId) : CoreId := ⟨c.x + x, c.y + y, c.node⟩
/-- A slot as seen from a corner. -/
def relThread (x y : Nat) (t : ThreadId) : ThreadId := ⟨relCore x y t.core, t.slot⟩
/-- A team-relative slot on the mesh. -/
def absThread (x y : Nat) (t : ThreadId) : ThreadId := ⟨absCore x y t.core, t.slot⟩

/-- Threads of a team. -/
def threadsOf (s : State) (k : TeamKey) : List (ThreadId × Thread) := s.threads.filter fun (_, th) => decide (th.key = some k)

/-- R115. Is a task saved as its packet: one whose packet has `RESTART`; the trailing thread of a pair goes with the leading
one? -/
def savedAsPacket (th : Thread) : Bool := isTaskOf th && th.pflags.getLsbD 2
where
  /-- A dispatched task. -/
  isTaskOf (th : Thread) : Bool := th.key.isSome && !th.started && th.handler.isNone

/-! ## What lies in a creel's stores -/

/-- Is an address in the stores of a creel that a team's image or a reset covers: scratchpad from `lo` up to `sp`, the local
stores of C0 to C3 up to `ls`, those of the streamers given from their fabric area on (R116, R158)? -/
def inStores (c : CreelId) (lo sp ls : Nat) (streamers : List Nat) (a : Nat) : Bool :=
  let b := windowBase c
  let off := a - b
  if a < b ∨ 2 ^ 20 ≤ off then false
  else if off < 0x80000 then decide (lo ≤ off ∧ off < sp)
  else
    let node := (off - 0x80000) / 0x10000
    let o := off % 0x10000
    if 3 ≤ node then decide (node ≤ 6 ∧ o < ls) else streamers.contains node && decide (0x4000 ≤ o)

/-- The cells of a list whose addresses, at a scale, lie in those stores. -/
def cellsIn (m : List Host.Cell) (scale : Nat) (p : Nat → Bool) : List Host.Cell := m.filter fun x => p (scale * x.1)

/-- Bytes of the scheduler area of a creel (R96). -/
def areaBytes (s : State) (c : CreelId) : Nat := 288 * ringLen s c

/-! ## Packets in rings -/

/-- The packets of a team in a ring, from running unit u on: unit, stamp and bytes. -/
def ringPackets (s : State) (c : CreelId) (k : TeamKey) (p : Nat) : Nat → Nat → List (Nat × Nat × List Byte)
  | 0, _ => []
  | fuel + 1, u =>
    if (ringPtr s c p).1 ≤ u then []
    else
      let head := ringUnits s c p u 1
      let rest := ringPackets s c k p fuel (u + takenStep head)
      if pkKind head = 1 ∧ pkLevel head = k.level ∧ pkTeam head = k.num then
        (u, stampOf s c p u, ringUnits s c p u (takenStep head)) :: rest
      else rest

/-- The packets of a team in all rings of a creel: ring, unit, stamp and bytes. -/
def creelPackets (s : State) (c : CreelId) (k : TeamKey) : List (Nat × Nat × Nat × List Byte) :=
  [0, 1, 2, 3].flatMap fun p => (ringPackets s c k p (ringLen s c + 1) (ringPtr s c p).2).map fun x => (p, x)

/-- The packets of a team leave a creel's rings. -/
def dropPackets (s : State) (c : CreelId) (k : TeamKey) : State :=
  (creelPackets s c k).foldl (fun s (p, u, _, _) => takePacket s c p u) s

/-! ## Taking an image (R115, R116) -/

/-- The streamers of a creel that hold a thread bound to a team (R116, R158). -/
def boundStreamers (s : State) (c : CreelId) (k : TeamKey) : List Nat :=
  [0, 1, 2].filter fun n => (threadsOf s k).any fun (t, th) => decide (t.core = ⟨c.x, c.y, n⟩) && th.bound

/-- The stores of a team's creel that its image covers. -/
def teamStores (s : State) (k : TeamKey) (c : CreelId) (streamers : List Nat) (a : Nat) : Bool :=
  let f := teamFoot s k
  inStores c (areaBytes s c) f.sp f.ls streamers a

/-- Cells of a team's stores, by team-relative creel and offset in the window. -/
def takeCells (s : State) (k : TeamKey) (t : TeamSt) (m : List Host.Cell) (scale : Nat) : List ((CreelId × Nat) × Byte) :=
  (creelsIn s t.x t.y t.w t.h).flatMap fun c =>
    let str := boundStreamers s c k
    (cellsIn m scale (teamStores s k c str)).map fun x => ((relCreel t.x t.y c, scale * x.1 - windowBase c), x.2)

/-- An endpoint as seen from a corner: its handler's slot. -/
def relEp (x y : Nat) (e : Endpoint) : Endpoint := { e with handler := e.handler.map (relThread x y) }

/-- The registers of a thread, by number. -/
def takeRegs (s : State) (x y : Nat) (t : ThreadId) (th : Thread) : List ((ThreadId × Nat) × RegEntry) :=
  (List.range th.nregs).filterMap fun i => (s.regs.find (t.core, th.base + i)).map fun e => ((relThread x y t, i), e)

/-- R116. The image of a team on its rectangle; without contexts after a drain (R113). -/
def capture (s : State) (k : TeamKey) (t : TeamSt) : Image :=
  let mine := threadsOf s k
  let ctx := mine.filter fun (_, th) => !savedAsPacket th
  let cs := creelsIn s t.x t.y t.w t.h
  let owned := s.eps.filter fun ((c, _), e) => ctx.any fun (i, _) => decide (i.core = c ∧ i.slot = e.slot ∧ e.est ≠ .free)
  let cores := cs.flatMap fun c => (boundStreamers s c k ++ [3, 4, 5, 6]).map fun n => (⟨c.x, c.y, n⟩ : CoreId)
  let again := mine.filter fun (i, th) => savedAsPacket th && (match th.partner with
    | some p => leads i p
    | none => true)
  { foot := t.foot
    threads := ctx.map fun (i, th) => (relThread t.x t.y i, { th with partner := th.partner.map (relThread t.x t.y) })
    regs := ctx.flatMap fun (i, th) => takeRegs s t.x t.y i th
    eps := owned.map fun ((c, n), e) => ((relCore t.x t.y c, n), relEp t.x t.y e)
    cores := cores.map fun c => (relCore t.x t.y c, coreOf s c)
    creels := cs.map fun c => (relCreel t.x t.y c, creelOf s c)
    bytes := takeCells s k t s.mem 1
    marks := takeCells s k t s.bits 8
    errs := takeCells s k t s.err 1
    packets := (cs.flatMap fun c => (creelPackets s c k).map fun (p, u, stamp, bs) =>
        (relCreel t.x t.y c, (⟨k, bs, some stamp, false, (creelOf s c).late.contains (p, u)⟩ : PendPkt))) ++
      again.map fun (i, th) => (relCreel t.x t.y i.core.creel, ⟨k, th.packet, some th.estamp, false, th.late⟩) }

/-! ## Leaving a rectangle (R113) -/

/-- The combination of what a team's creels have not yet sent up its tree, or its root's word when that has combined it
(R108, R109). -/
def wordSoFar (s : State) (k : TeamKey) (t : TeamSt) : BitVec 32 :=
  let root := doneOf s ⟨t.x, t.y⟩ k
  let w := if root.sent then root.word
    else ((creelsIn s t.x t.y t.w t.h).filter fun c => !(doneOf s c k).sent).foldl
      (fun w c => joinWords w (doneOf s c k).word) 0
  kidsWord t.kids w

/-- A thread taken out of its slot as it stands, its endpoints and queue entries with it: they are in its image. -/
def liftThread (s : State) (t : ThreadId) : State :=
  let s := { s with
    eps := s.eps.filter fun ((c, _), e) => !decide (c = t.core ∧ e.slot = t.slot ∧ e.est ≠ .free)
    threads := s.threads.del t }
  let s := modCore s t.core fun c => { c with
    icache := c.icache.map fun l => if l.lock = some t.slot then { l with lock := none } else l
    queue := c.queue.filter fun e => decide (e.slot ≠ t.slot)
    queueWait := c.queueWait.filter fun e => decide (e.slot ≠ t.slot) }
  admitWaiting s t.core

/-- A team's creels without it: its packets, done words and steals dropped; a creel that no team holds any more is halted no
longer. -/
def clearRect (s : State) (k : TeamKey) (t : TeamSt) (phase : TeamPhase) : State :=
  let cs := creelsIn s t.x t.y t.w t.h
  let s := cs.foldl (fun s c => dropPackets s c k) s
  let s := modTeam s k fun q => { q with phase := phase, marked := [], senders := [] }
  let s := cs.foldl (fun s c => modCreel s c fun q => { q with
    done := q.done.filter fun d => d.key ≠ k
    given := q.given.filter (· ≠ k)
    thief := match q.thief with
      | some f => if f.key = k then none else some f
      | none => none
    halt := if (teamsAt s c).isEmpty then none else q.halt }) s
  cs.foldl (fun s c => maskGate (wakeQueue (sweepFlights (sluiceWake s c) c) c) c) s

/-- A saved team leaves: what its image holds goes with it; tasks saved as packets end. -/
def leaveSaved (s : State) (k : TeamKey) (t : TeamSt) (phase : TeamPhase) : State :=
  let w := wordSoFar s k t
  let s := stopThreads s fun _ th => decide (th.key = some k) && savedAsPacket th
  let s := (threadsOf s k).foldl (fun s (i, _) => liftThread s i) s
  modTeam (clearRect s k t phase) k fun q => { q with word := w }

/-! ## Reset of creels (R26, R113, R139) -/

/-- A core's mailboxes, queue, accumulators, codebooks and matrix unit as after memory initialisation; its system registers
stay. -/
def resetCore (s : State) (c : CoreId) : State :=
  modCore s c fun k => { CoreSt.initial with
    vtbase := k.vtbase, chpool := k.chpool, xvec := k.xvec, slotSel := k.slotSel, bargeSel := k.bargeSel
    devAddr := k.devAddr, icache := k.icache, noInstall := k.noInstall, lastServed := k.lastServed }

/-- R26, R139. A creel reset: its compute cores and stores; the rings too unless a packet of another team stands there. -/
def resetCreel (s : State) (c : CreelId) : State :=
  let others := [0, 1, 2, 3].any fun p => decide ((ringPtr s c p).2 < (ringPtr s c p).1)
  let lo := if others then areaBytes s c else 0
  let gone (a : Nat) : Bool := inStores c lo 0x80000 0x10000 [0, 1, 2] a
  let s := [3, 4, 5, 6].foldl (fun s n => resetCore s ⟨c.x, c.y, n⟩) s
  let s := cancel s fun e => match e with
    | .matrixCommit x => decide (x.creel = c)
    | .matrixAccept x => decide (x.creel = c)
    | .mteamBlockArrival x _ => decide (x.creel = c)
    | .mswapMessageArrival x _ => decide (x.creel = c)
    | _ => false
  { s with
    mem := s.mem.filter fun x => !gone x.1
    bits := s.bits.filter fun x => !gone (8 * x.1)
    err := s.err.filter fun x => !gone x.1 }

/-- R119. The instances below a team are discarded: their words, images and pending packets go. -/
def discardKids (s : State) (k : TeamKey) : State :=
  let below := (descendants s k).filter (· ≠ k)
  let s := below.foldl (fun s q =>
    let s := stopThreads s fun _ th => decide (th.key = some q)
    match s.teams.find q with
    | some t => if resident t then clearRect s q t .gone else s
    | none => s) s
  let s := { s with
    teams := s.teams.filter fun (q, _) => !below.contains q
    images := s.images.filter fun (q, _) => !below.contains q
    pending := s.pending.filter fun p => !below.contains p.key }
  modTeam s k fun t => { t with kids := [], kidsOpen := 0 }

/-- R144. A dump that the end of its team overtakes is answered as invalid. -/
def dropDump (s : State) (k : TeamKey) : State :=
  match s.teams.find k with
  | some t => if t.dump then debugReply { s with teams := s.teams.put k { t with dump := false } } 4 0 else s
  | none => s

/-- R113, R119. A team discarded: its threads stop, its endpoints close, its creels are reset, nothing is saved. -/
def discardTeam (s : State) (k : TeamKey) (phase : TeamPhase) : State :=
  match s.teams.find k with
  | none => s
  | some t =>
    let w := wordSoFar s k t
    let s := discardKids ((descendants s k).foldl dropDump s) k
    let s := stopThreads s fun _ th => decide (th.key = some k)
    let s := clearRect s k t phase
    let s := (creelsIn s t.x t.y t.w t.h).foldl resetCreel s
    modTeam { s with images := s.images.del k } k fun q => { q with word := w }

/-! ## Restoring (R118) -/

/-- The slots of an image are free at a corner, and registers can be found: the threads with their new bases. -/
def placeThreads (s : State) (x y : Nat) : List (ThreadId × Thread) → Option State
  | [] => some s
  | (i, th) :: r =>
    let t := absThread x y i
    if slotFree s t then
      (freeRange s t.core th.nregs).bind fun b =>
        placeThreads { s with threads := s.threads.put t { th with
          base := b, wait := if th.wait = .halted then .halted else .stopped, stopping := true
          partner := th.partner.map (absThread x y) } } x y r
    else none

/-- The number a saved flight gets on a creel: its own when that is free or holds it, otherwise the first free one (R186). -/
def flightSlot (s : State) (c : CreelId) (n : Nat) (f : Flight) : Nat :=
  let at_ (i : Nat) : Flight := (creelOf s c).flights.get i Flight.initial
  if !(at_ n).valid || decide ((at_ n).image = f.image) then n
  else ((List.range 32).find? fun i => !(at_ i).valid || decide ((at_ i).image = f.image)).getD n

/-- The saved flights of a creel that a team's endpoints or launch use, put back: the state and the new numbers. -/
def restoreFlights (s : State) (c : CreelId) (st : CreelSt) (x y x0 y0 : Nat) : State × List (Nat × Nat) :=
  (st.flights.filter fun (_, f) => f.valid).foldl (fun (s, l) (n, f) =>
    let m := flightSlot s c n f
    let f := { f with loader := f.loader.map fun t => absThread x y (relThread x0 y0 t) }
    (modCreel s c fun q => { q with flights := q.flights.put m f }, l ++ [(n, m)])) (s, [])

/-- An endpoint's peer address moved with the team, when it lies in the team's old rectangle (DEDUCED, log 48). -/
def moveAddr (s : State) (t : TeamSt) (x y : Nat) (a : BitVec 32) : BitVec 32 :=
  let c := addrCore a
  if addrMod a = modSelf s ∧ addrNode a < 7 ∧ inRect t c.creel then
    epAddr s (absCore x y (relCore t.x t.y c)) (addrEp a) ||| (a &&& 1)
  else a

/-- Cells put back. -/
def putCells (m : List Host.Cell) (scale x y : Nat) (l : List ((CreelId × Nat) × Byte)) : List Host.Cell :=
  l.foldl (fun m e => cellSet m ((windowBase (absCreel x y e.1.1) + e.1.2) / scale) e.2) m

/-- What of a core's state an image gives back, for the slots and endpoints of its threads (R116). -/
def restoreCore (cur old : CoreSt) (compute : Bool) (slots eps : List Nat) : CoreSt :=
  let cur := { cur with
    queue := cur.queue ++ old.queue.filter fun e => slots.contains (e.lo.extractLsb' 8 8).toNat
    svcWait := cur.svcWait ++ old.svcWait.filter fun n => eps.contains n
    connects := cur.connects ++ old.connects.filter fun m => eps.contains (addrEp m.dst) }
  if compute then { cur with
    mbox := old.mbox, codebook := old.codebook, acc := old.acc
    blocks := cur.blocks ++ old.blocks, swaps := cur.swaps ++ old.swaps }
  else cur

/-- R118. An image restored at a corner, in a team that has taken its rectangle there; none when a slot or registers it needs
are still held. The unpopped results of engines come back in order; a creel that was halted halts again (R148). -/
def restore (s : State) (k : TeamKey) (img : Image) (old : TeamSt) (x y : Nat) : Option State :=
  (placeThreads s x y img.threads).map fun s =>
    let mv (c : CoreId) : CoreId := absCore x y c
    let s := { s with regs := img.regs.foldl (fun m ((t, i), e) =>
      let u := absThread x y t
      m.put (u.core, (threadOf s u).base + i) e) s.regs }
    let (s, fl) := img.creels.foldl (fun (s, l) (c, st) =>
      let c' := absCreel x y c
      let (s, m) := restoreFlights s c' st x y old.x old.y
      let shift (r : EngResult) : EngResult := { r with core := mv (relCore old.x old.y r.core) }
      let s := modCreel s c' fun q => { q with
        done := q.done ++ st.done.filter fun d => decide (d.key = k)
        engines := st.engines.foldl (fun (m : SMap Nat Engine) (n, e) =>
          let cur := m.get n Engine.initial
          let back := (e.results.map shift).filter fun r => img.threads.any fun (i, _) =>
            decide (absThread x y i = ⟨r.core, r.slot⟩) && !cur.results.contains r
          m.put n { cur with results := cur.results ++ back }) q.engines }
      let s := match st.halt with
        | some h =>
          let s := modCreel s c' fun q => { q with
            halt := some { h with h := s.cyc, resume := none, step := none, prior := none, waits := [], stepped := [], kept := [] }
            rehalt := true, dbg := q.dbg.put 0x10 (BitVec.ofNat 64 s.cyc) }
          traceRec s ⟨⟨c'.x, c'.y, h.ring⟩, h.slot⟩ 6
            (leBytes 2 (4096 * h.cause + 256 * h.which + 32 * h.ring + 2 * h.slot + 1) ++ List.replicate 14 0)
        | none => s
      (s, l ++ [(c, m)])) (s, ([] : List (CreelId × List (Nat × Nat))))
    let flightAt (c : CoreId) (n : Nat) : Nat :=
      match fl.find? fun e => decide (e.1 = c.creel) with
      | some (_, m) => ((m.find? fun p => decide (p.1 = n)).map (·.2)).getD n
      | none => n
    let s := { s with eps := img.eps.foldl (fun m ((c, n), e) => m.put (mv c, n) { e with
      flight := flightAt c e.flight
      handler := e.handler.map (absThread x y)
      peer := moveAddr s old x y e.peer, fwd := moveAddr s old x y e.fwd, origin := moveAddr s old x y e.origin }) s.eps }
    let s := img.cores.foldl (fun s (c, st) =>
      let slots := (img.threads.filter fun (i, _) => decide (i.core = c)).map fun x => x.1.slot
      let eps := (img.eps.filter fun ((d, _), _) => decide (d = c)).map fun x => x.1.2
      modCore s (mv c) fun cur => restoreCore cur st c.isCompute slots eps) s
    let f := lvFoot (recordOf s k.lslot) k.level img.foot
    let covered (a : Nat) : Bool := img.creels.any fun (c, _) =>
      inStores (absCreel x y c) (areaBytes s (absCreel x y c)) f.sp f.ls
        ((img.cores.filter fun (d, _) => decide (d.creel = c ∧ d.node < 3)).map fun x => x.1.node) a
    { s with
      mem := putCells (s.mem.filter fun e => !covered e.1) 1 x y img.bytes
      bits := putCells (s.bits.filter fun e => !covered (8 * e.1)) 8 x y img.marks
      err := putCells (s.err.filter fun e => !covered e.1) 1 x y img.errs }

/-- The packets of an image back in the rings of their creels, with their stamps; one that finds no room goes to the pending
store. -/
def restorePackets (s : State) (k : TeamKey) (x y : Nat) (l : List (CreelId × PendPkt)) : State :=
  let p := lnPrio (recordOf s k.lslot)
  l.foldl (fun s (c, e) =>
    match ringRoom s (absCreel x y c) p (pkLen e.bytes) with
    | some pads => ringPutBack s (absCreel x y c) p pads e
    | none => { s with pending := s.pending ++ [e] }) s

end Sys2Proof.Machine
end

