-- ==== Sys2Proof/Machine/SaveForm.lean ====
section
/-! DEFINITION. The bytes of a save image (R116): the save forms of a thread context, a core block and a creel block, and how
an image lies in the save pool. -/

namespace Sys2Proof.Machine

/-! ## Bytes at offsets -/

/-- The bytes of a list at an offset, those that are zero left out. -/
def spread : Nat → List Byte → List (Nat × Byte)
  | _, [] => []
  | off, b :: r => if b = 0 then spread (off + 1) r else (off, b) :: spread (off + 1) r

/-- A part of an image: its bytes by offset, those that are zero left out, and the offsets of quarters whose tag is set. -/
structure PartBytes where
  bytes : List (Nat × Byte)
  tags : List Nat
  deriving DecidableEq, Repr

/-- Bits of one byte, the first lowest. -/
def bitsByte (bs : List Bool) : Byte := bs.foldr (fun b n => n + n + (if b then 1 else 0)) 0

/-- n bytes of a store from an address, with their tag bits (R116, R239). -/
def storePart (s : State) (lo n off : Nat) : PartBytes :=
  { bytes := (s.mem.filter fun x => decide (lo ≤ x.1 ∧ x.1 < lo + n)).map fun x => (x.1 - lo + off, x.2)
    tags := (s.bits.filter fun x => decide (lo ≤ 8 * x.1 ∧ 8 * x.1 < lo + n)).flatMap fun x =>
      ((List.range 4).filter fun q => x.2.getLsbD q).map fun q => 8 * x.1 - lo + off + 2 * q }

/-! ## The thread context (R116) -/

/-- R353. The three words of a stream register. -/
def zForm (z : ZReg) : List Byte :=
  leBytes 8 (BitVec.ofNat 2 z.zm ++ BitVec.ofNat 6 z.zep ++ z.ztype ++ 0#27 ++ BitVec.ofBool z.ztag ++ BitVec.ofNat 20 z.zshp).toNat
    ++ leBytes 8 z.zbase.toNat ++ leBytes 8 (z.zpos % 2 ^ 32)

/-- R347. The 64 bytes of the repetition buffer and the static region. -/
def repForm (r : RepBuf) (g : Option Region) : List Byte :=
  ((List.range 8).flatMap fun i => leBytes 4 (r.body.getD i 0).toNat) ++ leBytes 4 r.left ++ leBytes 4 r.iter
    ++ [BitVec.ofNat 8 r.body.length, BitVec.ofNat 8 (r.zst + 16 * r.ast), BitVec.ofNat 8 r.idx, BitVec.ofNat 8 r.beat,
      bitsByte [r.running, g.isSome], 0, 0, 0]
    ++ (match g with
      | some g => leBytes 8 g.line ++ leBytes 2 g.lines ++ [BitVec.ofNat 8 g.banks]
      | none => List.replicate 11 0)
    ++ List.replicate 5 0

/-- R116. The context of a thread, 320 bytes and 16 for each register. -/
def contextForm (s : State) (t : ThreadId) (th : Thread) : List Byte :=
  leBytes 8 th.pc.toNat ++ leBytes 8 th.status.toNat ++ leBytes 8 th.task.toNat ++ leBytes 8 th.fmt.toNat ++ leBytes 8 th.scl.toNat
    ++ leBytes 2 th.team.toNat ++ leBytes 1 th.level.toNat ++ leBytes 1 th.progress
    ++ [BitVec.ofNat 8 (16 * t.core.node + t.slot), BitVec.ofNat 8 th.nregs, 0, th.pflags]
    ++ leBytes 8 th.dstamp ++ leBytes 8 th.estamp
    ++ (List.range 8).flatMap (fun i => zForm (th.z.getD i ZReg.unbound))
    ++ repForm th.rep th.region
    ++ (List.range th.nregs).flatMap fun i =>
      let e := regOf s t i
      leBytes 8 e.d.toNat ++ [bitsByte [e.s]] ++ List.replicate 7 0

/-! ## The core block (R116) -/

/-- R373. The accumulators: values by place, then their sticky bits. -/
def accForm (k : CoreSt) : List (Nat × Byte) :=
  k.acc.flatMap (fun (i, e) => spread (4 * i) (leBytes 4 e.bits.toNat)) ++
    spread 0x4000 ((List.range 512).map fun j => bitsByte ((List.range 8).map fun b => match k.acc.find (8 * j + b) with
      | some e => e.s
      | none => false))

/-- R184. The 64 bytes of an endpoint. -/
def epForm (e : Endpoint) : List Byte := (List.range 8).flatMap fun i => leBytes 8 (epWord e i).toNat

/-- R172. The 16 bytes of a mailbox. -/
def mailboxForm (m : Mailbox) : List Byte :=
  leBytes 8 m.value.toNat ++ [BitVec.ofNat 8 ((if m.full then 1 else 0) + 16 * m.filler)] ++ List.replicate 7 0

/-- R116, R175. A message-queue entry. -/
def entryForm (e : MqEntry) : List Byte := leBytes 8 e.lo.toNat ++ leBytes 8 e.hi.toNat

/-- R278. The trap registers of a thread, in 64 bytes. -/
def trapForm (th : Thread) : List Byte :=
  [th.xpc, th.xcause, th.xinfo, th.xsca, th.xscb].flatMap (fun w => leBytes 8 w.toNat) ++ List.replicate 24 0

/-- R343. The unpopped results of a slot at an engine, at most eight. -/
def resultForm (s : State) (c : CoreId) (slot eng : Nat) : List Byte :=
  ((((engineOf s c.creel eng).results.filter fun r => decide (r.core = c ∧ r.slot = slot)).take 8).flatMap fun r =>
    leBytes 8 r.word.toNat)

/-- The threads of a core. -/
def coreThreads (s : State) (c : CoreId) : List (ThreadId × Thread) := s.threads.filter fun (t, _) => decide (t.core = c)

/-- R116. The core block of a core, 32,768 bytes. Of a streamer only the endpoints and queue entries of the given slots are
written. -/
def coreForm (s : State) (c : CoreId) (slots : List Nat) : List (Nat × Byte) :=
  let k := coreOf s c
  let mine (n : Nat) : Bool := c.isCompute || slots.contains n
  let eps := (s.eps.filter fun (i, e) => decide (i.1 = c) && (c.isCompute || decide (e.est ≠ .free)) && mine e.slot).flatMap fun (i, e) =>
    spread (0x4200 + 64 * i.2) (epForm e)
  let queue := spread 0x6200 ((k.queue.filter fun e => mine (e.lo.extractLsb' 8 8).toNat).flatMap entryForm)
  if !c.isCompute then eps ++ queue
  else
    accForm k ++ eps ++ k.codebook.flatMap (fun (i, w) => spread (0x5200 + 4 * i) (leBytes 4 w.toNat)) ++ queue
      ++ k.mbox.flatMap (fun (i, m) => spread (0x6400 + 16 * i) (mailboxForm m))
      ++ (coreThreads s c).flatMap fun (t, th) =>
        spread (0x6500 + 64 * t.slot) (trapForm th) ++
          ((List.range 3).flatMap fun e => spread (0x6900 + 192 * t.slot + 64 * e) (resultForm s c t.slot e)) ++
          spread (0x7500 + 32 * t.slot) th.mdesc ++ spread (0x7700 + 4 * t.slot) (leBytes 4 th.mseq.toNat)

/-! ## The creel block (R186) -/

/-- R186. The descriptor of a flight. -/
def flightForm (f : Flight) : List Byte :=
  if !f.valid then []
  else [1, 0] ++ leBytes 2 f.off ++ leBytes 2 f.len ++ [BitVec.ofNat 8 f.lin, BitVec.ofNat 8 f.lout, BitVec.ofNat 8 f.maxin,
    BitVec.ofNat 8 f.maxout] ++ List.replicate 6 0 ++ leBytes 8 f.hown.toNat ++ leBytes 8 f.dhash.toNat

/-- Bytes that no rule fixes: drawn from the state's counter of free values on. -/
def freeBytes (from_ n : Nat) : List Byte := (List.range n).map fun i => Config.freeByte (from_ + i)

/-- R187. An image as the store holds it: HOWN and DHASH in its header. -/
def storedImage (f : Flight) : List Byte :=
  f.image.take 16 ++ leBytes 8 f.hown.toNat ++ leBytes 8 f.dhash.toNat ++ (f.image.take f.len).drop 32

/-- R116, R186. The creel block, 65,536 bytes: the automaton store, CHPOOL of the seven cores, the connect stores and the held
packets. The forms of a held Connect and of a held packet are free (DESIGN CHOICE, log 47). -/
def creelForm (s : State) (c : CreelId) : List (Nat × Byte) :=
  let q := creelOf s c
  q.flights.flatMap (fun (i, f) =>
      spread (32 * i) (flightForm f) ++ if f.valid then spread (0x400 + f.off) (storedImage f) else []) ++
    ((List.range 7).flatMap fun n =>
      spread (0xE400 + 8 * n) (leBytes 8 (coreOf s ⟨c.x, c.y, n⟩).chpool.toNat) ++
        spread (0xE440 + 128 * n) (freeBytes (s.free + 128 * n) (32 * (coreOf s ⟨c.x, c.y, n⟩).connects.length))) ++
    spread 0xE800 (freeBytes (s.free + 1024) (64 * q.ordHeld.length))

/-! ## The image -/

/-- One part of an image (R116, R153): part, node code, slot, creel and length. -/
abbrev ImagePart := Nat × Nat × Nat × CreelId × Nat

/-- The content of a part of an image, its offsets counted from the start of the part. -/
def partForm (s : State) (k : Option TeamKey) : ImagePart → PartBytes
  | (1, _, _, c, _) => ⟨creelForm s c, []⟩
  | (2, _, _, c, n) => storePart s (windowBase c) n 0
  | (3, node, _, c, n) =>
    let core : CoreId := ⟨c.x, c.y, node⟩
    let base := windowBase c + 0x80000 + 0x10000 * node + (if core.isCompute then 0 else 0x4000)
    let st := storePart s base (n - 32768) 0
    let slots := ((coreThreads s core).filter fun (_, th) => th.bound && (k.isNone || decide (th.key = k))).map fun x => x.1.slot
    ⟨st.bytes ++ (coreForm s core slots).map fun x => (x.1 + (n - 32768), x.2), st.tags⟩
  | (_, node, slot, c, _) =>
    let t : ThreadId := ⟨⟨c.x, c.y, node⟩, slot⟩
    ⟨spread 0 (contextForm s t (threadOf s t)), []⟩

/-- The tags of some words cleared. -/
def clearQuarters (p : Nat → Bool) (m : List Host.Cell) : List Host.Cell :=
  (m.map fun x => if p x.1 then (x.1, x.2 &&& 0x10) else x).filter fun x => decide (x.2 ≠ 0)

/-- Length of an image with these parts, its header included. -/
def imageLength (parts : List ImagePart) : Nat := 64 + (parts.map fun p => p.2.2.2.2).sum

/-- The launch number of a launch slot. -/
def launchNum (s : State) (lslot : Nat) : Nat := ((s.launches.find lslot).map (·.num)).getD 0

/-- R116. The 64-byte header: launch number, level, team number, footprint, team shape, E (R114) and the image length, in that
order, in 4, 1, 2, 1, 2 and 2, 8 and 8 bytes (the widths are the model's, DESIGN CHOICE, log 47); the rest is zero, as is the
header of the image of a dumped creel (R153). -/
def imageHead (s : State) (k : Option TeamKey) (len : Nat) : List Byte :=
  match k with
  | none => List.replicate 64 0
  | some k =>
    let t := s.teams.get k TeamSt.initial
    leBytes 4 (launchNum s k.lslot) ++ leBytes 1 k.level ++ leBytes 2 k.num ++ leBytes 1 t.foot ++ leBytes 2 t.w ++ leBytes 2 t.h
      ++ leBytes 8 (s.cyc - t.placedAt) ++ leBytes 8 len ++ List.replicate 36 0

/-- R116. An image with its parts laid at an address: everything it holds is written, with the tag bits, and the rest of it is
zero. `s` is the state whose stores and threads the image shows, `cur` the state it is written in. -/
def layImage (s cur : State) (k : Option TeamKey) (a : Nat) (parts : List ImagePart) : State :=
  let len := imageLength parts
  let (all, _) := parts.foldl (fun (l, o) p =>
    let f := partForm s k p
    (l ++ [(⟨f.bytes.map fun x => (x.1 + o, x.2), f.tags.map (· + o)⟩ : PartBytes)], o + p.2.2.2.2)) (([] : List PartBytes), 64)
  let inside (x n : Nat) : Bool := decide (a ≤ x ∧ x + n ≤ a + len)
  let bytes := spread 0 (imageHead s k len) ++ all.flatMap (·.bytes)
  { cur with
    mem := bytes.foldl (fun m x => cellSet m (a + x.1) x.2) (cur.mem.filter fun x => !inside x.1 1)
    bits := (all.flatMap (·.tags)).foldl (fun m x => putTag m (a + x) true)
      (clearQuarters (fun x => inside (8 * x) 8) cur.bits)
    err := cur.err.filter fun x => !inside x.1 32 }

/-- Does an image of a length lie whole in HBM4 at an address? -/
def poolHolds (s : State) (a len : Nat) : Bool :=
  match homeOf s a, homeOf s (a + len - 1) with
  | some (.control _ false _), some (.control _ false _) => true
  | _, _ => false

/-- R116. An image at an address in the save pool, when that lies in HBM4. -/
def writeImage (s cur : State) (k : Option TeamKey) (a : Nat) (parts : List ImagePart) : State :=
  if poolHolds cur a (imageLength parts) then layImage s cur k a parts else cur

/-- The images of teams, each at an address in the pool that is free (DESIGN CHOICE, log 47): the state, and
the address of each. -/
def writeImages (s : State) (l : List (TeamKey × List ImagePart)) : State × List (TeamKey × Nat) :=
  l.foldl (fun (cur, places) (k, parts) =>
    let a := (Config.poolAddress cur.free).toNat
    ({ writeImage { s with free := cur.free } cur (some k) a parts with free := cur.free + 4096 }, places ++ [(k, a)])) (s, [])

end Sys2Proof.Machine
end

