-- ==== Sys2Proof/Machine/Preempt.lean ====
section
/-! DEFINITION. Pre-emption (R112 to R117), its save images and snapshots, and the relaunch of teams (R118, R119). -/

namespace Sys2Proof.Machine

/-! ## The teams concerned -/

/-- A team and its descendants that stand on their rectangles (R112). -/
def withDescendants (s : State) (k : TeamKey) : List TeamKey :=
  (descendants s k).filter fun q => match s.teams.find q with
    | some t => resident t
    | none => false

/-- Does a thread belong to one of these teams? -/
def ofTeams (ks : List TeamKey) (th : Thread) : Bool :=
  match th.key with
  | some k => ks.contains k
  | none => false

/-! ## The estimator (R114) -/

/-- A quotient rounded up. -/
def ceilDiv (a b : Nat) : Nat := (a + b - 1) / b

/-- R114. Bytes a creel's part of an image takes. -/
def saveBytes (s : State) (k : TeamKey) (ks : List TeamKey) (ctx : Bool) (c : CreelId) : Nat :=
  let f := teamFoot s k
  let n := ((s.threads.filter fun (t, th) => decide (t.core.creel = c) && ofTeams ks th).map fun (_, th) => 320 + 16 * th.nregs).sum
  65536 + f.sp + 4 * (f.ls + 32768) + (if ctx then n else 0)

/-- R114. SaveTime. -/
def saveTime (s : State) (k : TeamKey) (t : TeamSt) (ks : List TeamKey) (ctx : Bool) : Nat :=
  let cs := creelsIn s t.x t.y t.w t.h
  let perCreel := cs.foldl (fun m c => max m (ceilDiv (saveBytes s k ks ctx c) 64)) 0
  let perDie := (List.range 8).foldl (fun m d =>
    max m (ceilDiv ((cs.filter fun c => decide (c.die = d)).map (saveBytes s k ks ctx)).sum 10240)) 0
  1024 + max perCreel perDie

/-- R114. Remaining time of a running task; none for infinite. -/
def remaining (t : TeamSt) (cyc : Nat) (th : Thread) : Option Nat :=
  let e := cyc - th.dstamp
  if 0 < th.progress then some (ceilDiv (e * (256 - th.progress)) th.progress)
  else if 0 < t.runN then some (t.runSum / t.runN - e)
  else none

/-- R114. The action the estimator takes: 0 drain, 1 discard, 2 save. -/
def estimate (s : State) (k : TeamKey) (t : TeamSt) (d : Nat) : Nat :=
  let ks := withDescendants s k
  let r := recordOf s k.lslot
  let tasks := s.threads.filter fun (_, th) => ofTeams ks th && !th.bound
  let longest := tasks.foldl (fun (m : Option Nat) (_, th) =>
    match m, remaining t s.cyc th with
    | some a, some b => some (max a b)
    | _, _ => none) (some 0)
  let tsave := saveTime s k t ks true
  let drain := match longest with
    | some m => decide (m + saveTime s k t ks false ≤ d)
    | none => false
  if !lvGraph r k.level && drain then 0
  else if lvRestart r k.level && decide (s.cyc - t.placedAt ≤ 2 * tsave) then 1
  else 2

/-! ## Requests (R112, R113, R120) -/

/-- A pre-emption of a team and those below it begins. -/
def beginLeave (s : State) (k : TeamKey) (a due : Nat) : State :=
  (withDescendants s k).foldl (fun s q => modTeam s q fun u => if u.phase = .fenced then u else { u with
    phase := .leaving a, asked := s.cyc, deadline := due }) s

/-- What became of a request: LAST of PRE_STAT, and the action of an accepted one. -/
structure Asked where
  last : Nat
  action : Nat
  deriving DecidableEq, Repr

/-- R112. A pre-emption of a team with a deadline and a FORCE: 0 estimator, 1 save, 2 discard, 3 drain. A forced save turns a
drain into a save (R120). One that comes while the team is being restored joins, and is carried out when it stands again
(R16). `LAST` is 0x01 for a team that is not placed, and 0x03 for a fenced one (DESIGN CHOICE, log 73). -/
def preempt (s : State) (k : TeamKey) (d : Option Nat) (force : Nat) : State × Asked :=
  match s.teams.find k with
  | none => (s, ⟨1, 0⟩)
  | some t =>
    let due := match d with
      | some n => s.cyc + n
      | none => 2 ^ 64
    match t.phase with
    | .placed =>
      if force = 2 ∧ lvRestart (recordOf s k.lslot) k.level = false then (s, ⟨2, 0⟩)
      else
        let a := if force = 1 then 2 else if force = 2 then 1 else if force = 3 then 0 else estimate s k t (d.getD 0)
        ((beginLeave s k a due).atBoundary (.preemptBoundaryStop k), ⟨0, a⟩)
    | .leaving 0 =>
      if force = 1 then (beginLeave s k 2 (min t.deadline due), ⟨3, 2⟩)
      else (modTeam s k fun u => { u with deadline := min t.deadline due }, ⟨3, 0⟩)
    | .leaving 3 => (modTeam s k fun u => { u with
        asked := s.cyc, deadline := if t.asked = 0 then due else min t.deadline due }, ⟨3, 0⟩)
    | .leaving _ => (modTeam s k fun u => { u with deadline := min t.deadline due }, ⟨3, 0⟩)
    | .fenced => (s, ⟨3, 0⟩)
    | _ => (s, ⟨1, 0⟩)

/-- The team that a write of PRE_REQ names. -/
def requestKey (v : Word) : TeamKey :=
  ⟨(v.extractLsb' 29 6).toNat, (v.extractLsb' 35 3).toNat, (v.extractLsb' 16 13).toNat⟩

/-- The result of a request noted in PRE_STAT; a rejected one is counted (R112). -/
def noteRequest (s : State) (last action : Nat) : State :=
  let s := { s with preLast := BitVec.ofNat 8 last }
  if last = 0 then { s with preReqs := s.preReqs + 1, preAction := BitVec.ofNat 8 action }
  else if last = 3 then { s with preReqs := s.preReqs + 1 }
  else count s 0 67

/-- R112. A write of PRE_REQ: one team, or with `ALL` every level-0 team of the launch; held while an update runs (R419). -/
def preRequested (v : Word) (e : Event) (s : State) : State :=
  if updateHolds s then holdEvent s e
  else
    let k := requestKey v
    let d := some ((v.extractLsb' 40 24).toNat * 256)
    let force := (v.extractLsb' 38 2).toNat
    if v.getLsbD 0 then
      let ks := (s.teams.filter fun (q, t) => decide (q.lslot = k.lslot ∧ q.level = 0) && resident t).map (·.1)
      let (s, rs) := ks.foldl (fun (s, l) q =>
        let (s, r) := preempt s q d force
        (s, l ++ [r])) (s, ([] : List Asked))
      match rs.find? fun r => decide (r.last = 0), rs.find? fun r => decide (r.last = 3), rs with
      | some r, _, _ => noteRequest s 0 r.action
      | none, some _, _ => noteRequest s 3 0
      | none, none, r :: _ => noteRequest s r.last 0
      | none, none, [] => noteRequest s 1 0
    else
      let (s, r) := preempt s k d force
      noteRequest s r.last r.action

/-- R114. PRE_REQ with FORCE 0. -/
def execPreReqEstimate (v : Word) (s : State) : Out := .next (preRequested v (.preReqEstimate v) s)
/-- R113. PRE_REQ with FORCE 1. -/
def execPreReqSave (v : Word) (s : State) : Out := .next (preRequested v (.preReqSave v) s)
/-- R113. PRE_REQ with FORCE 2. -/
def execPreReqDiscard (v : Word) (s : State) : Out := .next (preRequested v (.preReqDiscard v) s)
/-- R113. PRE_REQ with FORCE 3. -/
def execPreReqDrain (v : Word) (s : State) : Out := .next (preRequested v (.preReqDrain v) s)

/-- R112, R153. PRE_REQ with RESUME: a team kept after a dump is released for relaunch, or LAST is 0x04. -/
def execPreReqResume (v : Word) (s : State) : Out :=
  let k := requestKey v
  .next (if updateHolds s then holdEvent s (.preReqResume v)
    else match s.teams.find k with
    | some t =>
      if t.phase = .kept then
        let ks := (descendants s k).filter fun q => match s.teams.find q with
          | some u => decide (u.phase = .kept)
          | none => false
        let s := ks.foldl (fun s q => modTeam s q fun u => { u with phase := .saved, dump := false }) s
        { retryPlacements s with preReqs := s.preReqs + 1, preLast := 0 }
      else noteRequest s 4 0
    | none => noteRequest s 4 0)

/-! ## Snapshots of thread graphs (R117) -/

/-- The owner of the endpoint an address names, when it is on this module. -/
def addrOwner (s : State) (a : BitVec 32) : Option ThreadId :=
  let c := addrCore a
  let e := epOf s c (addrEp a)
  if addrMod a = modSelf s ∧ addrNode a ≤ 11 ∧ addrNis a = false ∧ e.est ≠ .free then some ⟨c, e.slot⟩ else none

/-- R117. The graph endpoints of a thread: open ones, those taken over by a delegation among them, whose peer is a thread of the same team. -/
def graphEps (s : State) (t : ThreadId) (k : TeamKey) : List Nat :=
  (ownedEps s t).filter fun n =>
    let e := epOf s t.core n
    decide (e.est = .opened ∨ e.est = .delegin) && (match addrOwner s e.peer with
      | some u => decide ((threadOf s u).key = some k)
      | none => false)

/-- R117. Is a thread's every graph endpoint bound to a flight without a RECV or OFFER state, and has it one? -/
def graphSource (s : State) (t : ThreadId) (k : TeamKey) : Bool :=
  let l := graphEps s t k
  !l.isEmpty && l.all fun n =>
    let img := (flightOf s t.core (epOf s t.core n).flight).image
    (List.range (fieldAt img 6 2)).all fun i => !recvKind (recKind (stateRec img i))

/-- The threads of the team that a thread's graph endpoints lead to. -/
def graphPeers (s : State) (t : ThreadId) (k : TeamKey) : List ThreadId :=
  (graphEps s t k).filterMap fun n => addrOwner s (epOf s t.core n).peer

/-- The connected component of a thread. -/
def graphPart (s : State) (k : TeamKey) : Nat → List ThreadId → List ThreadId
  | 0, l => l
  | fuel + 1, l =>
    let more := (l.flatMap fun t => graphPeers s t k).filter fun t => !l.contains t
    match more with
    | [] => l
    | t :: _ => graphPart s k fuel (l ++ [t])

/-- The order of threads that picks a source (R117): creel row-major, core, slot. -/
def threadRank (t : ThreadId) : Nat := ((t.core.y * 128 + t.core.x) * 16 + t.core.node) * 16 + t.slot

/-- R117. Does a thread act as a source? -/
def actsAsSource (s : State) (t : ThreadId) (k : TeamKey) : Bool :=
  let part := graphPart s k 512 [t]
  graphSource s t k || (part.all (fun u => !graphSource s u k) && part.all fun u => decide (threadRank t ≤ threadRank u))

/-- R117. Must a thread of a team stop: a team without GRAPH, a source, a thread without graph endpoints, or one that a
marker has reached? -/
def mustStop (s : State) (t : ThreadId) (th : Thread) : Bool :=
  match th.key with
  | none => false
  | some k =>
    !lvGraph (recordOf s k.lslot) k.level || th.stopping || (match s.teams.find k with
      | some u => (graphEps s t k).isEmpty || (u.marked.any fun m => decide (m.1 = t.core ∧ (epOf s t.core m.2).slot = t.slot)) ||
          (u.senders.isEmpty && actsAsSource s t k)
      | none => true)

/-- R117. A thread of a graph that has stopped sends its markers, once. -/
def sendMarkers (s : State) (t : ThreadId) (k : TeamKey) : State :=
  match s.teams.find k with
  | none => s
  | some u =>
    if !lvGraph (recordOf s k.lslot) k.level || u.senders.contains t then s
    else
      let s := modTeam s k fun u => { u with senders := u.senders ++ [t] }
      (graphEps s t k).foldl (fun s n =>
        sendMsg s (mkMsg s t.core n (epOf s t.core n).peer 0xFE (epOf s t.core n).sseq 0 [])) s

/-- R117. Is a reply of a memory or tile service on its way to an endpoint of a thread? -/
def replyOwed (s : State) (t : ThreadId) : Bool :=
  let mine (a : BitVec 32) : Bool := decide (addrCore a = t.core) && (ownedEps s t).contains (addrEp a)
  s.agenda.any fun d => match d.act with
    | .event (.treq m) => mine m.src
    | .event (.twrite m) => mine m.src
    | .arrive m => (isServer m.dst && mine m.src) || (isServer m.src && mine m.dst)
    | _ => false

/-- R117. Has every graph endpoint of a team's threads received its marker, and every service answered its requests? -/
def allMarked (s : State) (k : TeamKey) : Bool :=
  !lvGraph (recordOf s k.lslot) k.level || (match s.teams.find k with
    | some u => (threadsOf s k).all fun (t, _) => !replyOwed s t && (graphEps s t k).all fun n => u.marked.contains (t.core, n)
    | none => true)

/-- R117, R213, R220. A marker arrives: its flag is set, and the thread that it reaches first stops at the next boundary; a
DELEGATED endpoint forwards it like a message until FWD_END. -/
def execSnapshotMarker (core : CoreId) (ep : Nat) (s : State) : Out :=
  let e := epOf s core ep
  .next (if e.est = .delegated ∧ e.fwdEnd = false then
      sendMsg s (mkMsg s core ep e.fwd 0xFE e.sseq 0 [])
    else
    let s := modEp s core ep fun e => { e with mark := true }
    match (threadOf s ⟨core, e.slot⟩).key with
    | some k => modTeam s k fun u => { u with marked := if u.marked.contains (core, ep) then u.marked else u.marked ++ [(core, ep)] }
    | none => s)

/-! ## The boundary (R113, R115) -/

/-- A team discarded at the boundary is relaunched; so is one whose save failed and that may restart (R118). -/
def discarded (s : State) (k : TeamKey) : State := retryPlacements (discardTeam s k .gone)

/-- R115. At the rotation boundary threads stop, what is in flight completes or is abandoned, and the save begins once all
have stopped; a drain waits for the running tasks; a discard is done at once. The save of a mooring awaits its step 4 (R19). -/
def execPreemptBoundaryStop (k : TeamKey) (s : State) : Out :=
  .next (match s.teams.find k with
    | none => s
    | some t =>
      let ks := withDescendants s k
      let mine (_ : ThreadId) (th : Thread) : Bool := ofTeams ks th
      let go (ctx : Bool) : State :=
        let due (i : ThreadId) (th : Thread) : Bool := mine i th && mustStop s i th
        let s := stopAll s due
        let s := (s.threads.filter fun (i, th) => mine i th && hasStopped s i th).foldl (fun s (i, th) =>
          match th.key with
          | some q => sendMarkers s i q
          | none => s) s
        if !(allStopped s mine && ks.all (allMarked s)) then s.nextBoundary (.preemptBoundaryStop k)
        else if t.phase = .leaving 4 then s
        else s.after (saveTime s k t ks ctx) (.event (.saveComplete k))
      match t.phase with
      | .leaving 0 =>
        if s.threads.any fun (_, th) => ofTeams ks th && !th.bound then s.nextBoundary (.preemptBoundaryStop k) else go false
      | .leaving 1 => discarded s k
      | .leaving 2 => go true
      | .leaving 4 => go true
      | _ => s)

/-! ## The image (R116, R153) -/

/-- R116, R153. The parts of an image, in its order: part, node code, slot, creel, length. A streamer gives its fabric area
(R158). -/
def imageParts (s : State) (f : Foot) (creels : List CreelId) (cores : List CoreId) (ctxs : List (ThreadId × Nat)) : List ImagePart :=
  (creels.flatMap fun c =>
    [(1, 0xFF, 0xFF, c, 65536), (2, 0xFF, 0xFF, c, f.sp)] ++
      ((cores.filter fun k => decide (k.creel = c ∧ 3 ≤ k.node)) ++ cores.filter fun k => decide (k.creel = c ∧ k.node < 3)).map
        fun k => (3, k.node, 0xFF, c, (if 3 ≤ k.node then f.ls else (capOf s k).lsBytes - 0x4000) + 32768)) ++
    ctxs.map fun (t, n) => (4, t.core.node, t.slot, t.core.creel, 320 + 16 * n)

/-- R116. The parts of a team's image. -/
def teamParts (s : State) (k : TeamKey) (u : TeamSt) (img : Image) : List ImagePart :=
  imageParts s (teamFoot s k) (img.creels.map fun c => absCreel u.x u.y c.1) (img.cores.map fun c => absCore u.x u.y c.1)
    (img.threads.map fun e => (absThread u.x u.y e.1, e.2.nregs))

/-- R153. The index block of an image at an address, written in the save pool at an address that is free like the image's
(DESIGN CHOICE, log 47): the state and the block's address. -/
def dumpIndex (s : State) (image cause num team level : Nat) (parts : List ImagePart) : State × Word :=
  let at_ := Config.poolAddress s.free
  let s := s.drawn
  let (entries, len) := parts.foldl (fun (l, o) (p, node, slot, c, n) =>
    (l ++ ([BitVec.ofNat 8 p, BitVec.ofNat 8 node, BitVec.ofNat 8 slot, BitVec.ofNat 8 c.x, BitVec.ofNat 8 c.y, 0, 0, 0] : List Byte)
      ++ leBytes 8 o, o + n)) (([] : List Byte), 64)
  let head := leBytes 4 0x44554D50 ++ leBytes 2 1 ++ leBytes 2 cause ++ leBytes 4 parts.length ++ leBytes 4 num
    ++ leBytes 8 image ++ leBytes 8 len ++ leBytes 2 team ++ leBytes 1 level ++ List.replicate 5 0
    ++ leBytes 8 s.capDver.toNat ++ leBytes 8 s.cyc ++ List.replicate 8 0
  (match homeOf s at_.toNat with
    | some (.control ..) => writeBytes s at_.toNat (head ++ entries) false
    | _ => s, at_)

/-- R116, R118, R119. A save that the pool could not hold: the team is discarded if its level has `RESTART`, and reports
CAPACITY otherwise. -/
def saveFailed (s : State) (k : TeamKey) : State :=
  if lvRestart (recordOf s k.lslot) k.level then discarded s k
  else
    let s := discardTeam s k .gone
    let w := ((s.teams.find k).map (·.word)).getD 0
    reportTeam s 9 k (w ||| 0x80000000#32)

/-- R116. The image of a team and of its descendants is complete, and they leave; a save past its deadline is counted, one that
the pool cannot hold fails; after a dump the image is kept and the debug host answered (R153). -/
def execSaveComplete (k : TeamKey) (s : State) : Out :=
  .next (match s.teams.find k with
    | none => s
    | some t =>
      match t.phase with
      | .leaving a =>
        if a ≠ 0 ∧ a ≠ 2 then s
        else
          let s := if t.deadline < s.cyc then count s 0 66 else s
          let pool := Config.poolHas s.free
          let s := s.drawn
          if !pool then saveFailed s k
          else
            let ks := (withDescendants s k).filter fun q => match s.teams.find q with
              | some u => decide (u.phase ≠ .fenced)
              | none => false
            let phase : TeamPhase := if t.dump then .kept else .saved
            let imgs := ks.filterMap fun q => (s.teams.find q).map fun u => (q, u, capture s q u)
            let parts := imgs.map fun (q, u, img) => (q, teamParts s q u img)
            let (s, places) := writeImages s parts
            let s := imgs.foldl (fun s (q, u, img) => { leaveSaved s q u phase with images := s.images.put q img }) s
            let s := match t.dump, parts.find? fun e => decide (e.1 = k), places.find? fun e => decide (e.1 = k) with
              | true, some (_, l), some (_, image) =>
                let (s, a) := dumpIndex s image (if t.dumpJoined then 3 else 1) (launchNum s k.lslot) k.num k.level l
                debugReply s 0 a
              | _, _, _ => s
            retryPlacements s
      | _ => s)

/-! ## Relaunch (R118, R119) -/

/-- R118. Rule 3: CAPACITY, and FENCED after a fence, in the word the team reports. -/
def relaunchFails (s : State) (k : TeamKey) (t : TeamSt) : State :=
  let fenced := s.fences.any fun f => decide (f.key = k)
  let s := discardKids { s with images := s.images.del k, fences := s.fences.filter fun f => f.key ≠ k } k
  reportTeam s 9 k (t.word ||| 0x80000000#32 ||| (if fenced then 0x40000000#32 else 0))

/-- R118. Rule 2: the level starts afresh with the first footprint that fits some tile, or waits for a tile, or rule 3. The
initial packets are those of that footprint; packets still in the pending store stay (R119). -/
def restartTeam (s : State) (k : TeamKey) (t : TeamSt) (px py : Nat) : State :=
  let r := recordOf s k.lslot
  if !lvRestart r k.level then relaunchFails s k t
  else match chooseFoot s r k.level px py with
  | none => relaunchFails s k t
  | some i =>
    match chooseTile s k i px py with
    | none => s
    | some (x, y) =>
      let s := discardKids { s with images := s.images.del k, fences := s.fences.filter fun f => f.key ≠ k } k
      let s := variantPackets s k i
      let s := modTeam (takeRect s k i x y) k fun u => { u with
        placedAt := s.cyc, progress := 0, runSum := 0, runN := 0, kids := [], kidsOpen := 0 }
      retryKids (wakeTeam (feedTeam s k) k) k

/-- R118. The tile for an image: the team's old one, its own, or the first usable. -/
def imageTile (s : State) (k : TeamKey) (img : Image) (t : TeamSt) (px py : Nat) : Option (Nat × Nat) :=
  if usableRect s k img.foot t.x t.y then some (t.x, t.y) else chooseTile s k img.foot px py

/-- R118. The relaunch of a team that left its rectangle: from its image on a usable tile, afresh, or not at all. While the
tile, slots or registers its image needs are taken, it waits. -/
def execTeamRelaunch (k : TeamKey) (s : State) : Out :=
  .next (if updateHolds s then holdEvent s (.teamRelaunch k)
    else if mooringHolds s then s
    else match s.teams.find k, parentCorner s k with
    | some t, some (px, py) =>
      let r := recordOf s k.lslot
      if t.phase = .gone then restartTeam s k t px py
      else if t.phase ≠ .saved then s
      else match s.images.find k with
      | none => restartTeam s k t px py
      | some img =>
        if !fitsSome s r k.level px py img.foot then restartTeam s k t px py
        else match imageTile s k img t px py with
        | none => s
        | some (x, y) =>
          let s' := modTeam (takeRect s k img.foot x y) k fun u => { u with phase := .leaving 3, asked := 0 }
          match restore s' k img t x y with
          | none => s.after 16 (.event (.teamRelaunch k))
          | some s =>
            let s := restorePackets { s with images := s.images.del k } k x y img.packets
            s.drawn.after (1 + Config.delay s.free) (.event (.restoreComplete k))
    | _, _ => s)

/-- R118, R163. A restored team stands on its rectangle: its threads enter the rotation at the next boundary, its queues are
examined and its children tried. -/
def teamBack (s : State) (k : TeamKey) : State :=
  let s := modTeam s k fun u => { u with phase := .placed, word := 0 }
  let s := (threadsOf s k).foldl (fun s (i, _) =>
    resumeThread (modThread (streamsAgain s i) i fun th => { th with perf := [0, 0, 0, 0, 0] }) i) s
  retryKids (wakeTeam s k) k

/-! ## Mooring (R19, R22, R23) -/

/-- R19 step 2. Every resident team is pre-empted by save, outermost first, with the bound of 400 µs. -/
def moorTeams (s : State) : State :=
  let placed (t : TeamSt) : Bool := decide (t.phase = .placed ∨ t.phase = .leaving 0)
  let ks := (List.range 8).flatMap fun i => (s.teams.filter fun (k, t) => decide (k.level = i) && placed t).map (·.1)
  ks.foldl (fun s k => match s.teams.find k with
    | some t => if placed t then (beginLeave s k 4 (s.cyc + 240000)).atBoundary (.preemptBoundaryStop k) else s
    | none => s) s

/-- Have the threads of a team stopped for its save, and the markers of its graph arrived? -/
def stoppedForSave (s : State) (k : TeamKey) : Bool :=
  allStopped s (fun _ th => decide (th.key = some k)) && allMarked s k

/-- R19, steps 2 and 3. Has every thread stopped, and every message been delivered? -/
def moorQuiet (s : State) : Bool :=
  allStopped s moorStops && !messageInFlight s && s.teams.all fun (k, t) => match t.phase with
    | .placed => false
    | .leaving 4 => stoppedForSave s k
    | .leaving _ => false
    | _ => true

/-- R23. Does the save of a team meet an uncorrectable error, in a store or a register that its image takes? -/
def saveMeetsError (s : State) (k : TeamKey) (t : TeamSt) : Bool :=
  let img := capture s k t
  (img.errs.any fun e => decide (e.2 = 2)) || img.regs.any fun e => decide (e.2.c ≠ residue e.2.d e.2.s)

/-- The die whose moorage region takes a team's image. -/
def teamDie (t : TeamSt) : Nat := (⟨t.x, t.y⟩ : CreelId).die

/-- R19 step 4. The images of the teams that a mooring saves are written to the moorage regions of their dies, and the teams
leave their creels; late saves are counted (R114). Where in the region an image lies is free (DESIGN CHOICE, log 68). -/
def moorImages (s : State) : State :=
  let mine := s.teams.filter fun (k, t) => decide (t.phase = .leaving 4) && stoppedForSave s k
  let imgs := mine.map fun (k, t) => (k, t, capture s k t)
  imgs.foldl (fun s (k, t, img) =>
    let parts := teamParts s k t img
    let at_ := moorBase (teamDie t) + (Config.poolAddress s.free).toNat % 2 ^ 29
    let s := layImage s s.drawn (some k) at_ parts
    let s := if t.deadline < s.cyc then count s 0 66 else s
    { leaveSaved s k t .moored with images := s.images.put k img }) s

/-- R19 step 4. The images and the cycle counter are saved; from this cycle on the counter holds (R12). -/
def moorSave (s : State) : State :=
  let s := moorImages s
  { s with power := { s.power with saved := true } }

/-- R19, R23. Entry to MOORED saves once its threads have stopped and its messages are delivered; a team whose save meets an
uncorrectable error is fenced first, and its fenced state is what is saved. -/
def moorSaves (s : State) : State :=
  let p := s.power
  if p.trans = .mooring ∧ p.saved = false ∧ p.saveAt ≤ s.wall then
    if moorQuiet s then
      match s.teams.filter fun (k, t) => decide (t.phase = .leaving 4) && saveMeetsError s k t with
      | [] => moorSave s
      | bad => bad.foldl (fun s (k, _) => now s (.fenceBoundary k)) s
    else s
  else s

/-- R22 step 6. A team that a mooring saved resumes in place from its image. -/
def moorRestore (s : State) (k : TeamKey) : State :=
  match s.teams.find k, s.images.find k with
  | some t, some img =>
    (match restore s k img t t.x t.y with
    | some s' => teamBack (restorePackets { s' with images := s'.images.del k } k t.x t.y img.packets) k
    | none => retryPlacements (modTeam s k fun u => { u with phase := .saved }))
  | _, _ => s

/-- R22 step 6. Every team that a mooring saved, outermost first. -/
def moorRestores (s : State) : State :=
  ((List.range 8).flatMap fun i => (s.teams.filter fun (k, t) => decide (k.level = i ∧ t.phase = .moored)).map (·.1)).foldl
    moorRestore s

/-- R118, R163. The image is restored. A pre-emption that came meanwhile is carried out now (R16), and the save of a mooring
whose entry has begun (R19). -/
def execRestoreComplete (k : TeamKey) (s : State) : Out :=
  .next (match s.teams.find k with
    | some t =>
      if t.phase ≠ .leaving 3 then s
      else
        let s := teamBack s k
        if s.power.trans = .mooring then moorTeams s
        else if t.asked = 0 then s
        else (preempt s k (some (t.deadline - s.cyc)) 0).1
    | none => s)

end Sys2Proof.Machine
end

