-- ==== Sys2Proof/Machine/Agenda.lean ====
section
/-! DEFINITION. What a step does next: an input of the environment, the instruction in hand, the turns of the cycle,
what the agenda holds for it, and the tick to the next cycle with its accounts (R12, R154, R159, R307). -/

namespace Sys2Proof.Machine

/-- What a step comes to: an event to perform, an instruction that stands ready to be decoded and performed, or
nothing more. -/
inductive Todo where
  | perform (e : Event) (s : State)
  | decode (s : State)
  | rest (s : State)

/-! ## The tick -/

/-- R12. Is any core clocked? From the save of the counter on, the counter holds. -/
def clockRuns (s : State) : Bool :=
  if s.power.saved then false
  else match s.power.state with
  | .off => false
  | .moored => false
  | .standby => decide (s.power.trans = .bringup)
  | .idle => true
  | .run => true

/-- One cycle of a compute core's account falls in a class other than 3 (R154). Class 3 is held as what it lacks of
the RUN cycles (DEDUCED, log 22), so it lacks one more. -/
def acctAdd (s : State) (c : CoreId) (k : Nat) : State :=
  let off := 0x100 + 0x28 * (c.node - 3)
  dbgAdd (if k = 3 then s else dbgAdd s c.creel (off + 8 * k) 1) c.creel (off + 0x18) (if k = 3 then 0 else 1)

/-- R154. The class of the slot whose turn it was, for a slot that holds a thread: issued, when its instruction issued in this
cycle or has a beat outstanding. -/
def acctClass (s : State) (t : ThreadId) (th : Thread) : Nat :=
  match s.tried.find? fun x => decide (x.1 = t) with
  | some (_, ok) => if ok then 0 else 1
  | none => if th.wait = .run ∧ s.cyc < th.ready then 0 else 1

/-- R154. The accounts of a RUN cycle at its end: occupied slots, halted creels, thieves. A slot filled in this cycle was free,
one whose thread left in it had issued. -/
def accounts (s : State) : State :=
  let k := s.cyc % 16
  let was (t : ThreadId) (th : Thread) : Bool := decide (th.dstamp ≠ s.cyc) || s.tried.any fun x => decide (x.1 = t)
  let occupied := s.threads.filter fun (t, th) => decide (t.slot = k) && t.core.isCompute && !haltedNow s t.core && was t th
  let left := s.tried.filter fun (t, _) => t.core.isCompute && !haltedNow s t.core && (s.threads.find t).isNone
  let s1 := occupied.foldl (fun s' (t, th) => acctAdd s' t.core (acctClass s t th)) s
  let s1 := left.foldl (fun s' (t, _) => acctAdd s' t.core 0) s1
  s.creels.foldl (fun s' (id, c) =>
    let cores := [3, 4, 5, 6].map fun n => (⟨id.x, id.y, n⟩ : CoreId)
    let s' := if c.halt.isSome then
        (cores.filter (haltedNow s)).foldl (fun s' co => acctAdd s' co 4) s'
      else s'
    if c.thief.isSome then
      let free := cores.filter fun co => !haltedNow s co && !(occupied.any fun x => decide (x.1.core = co)) &&
        !(left.any fun x => decide (x.1.core = co))
      dbgAdd (free.foldl (fun s' co => acctAdd s' co 2) s') id 0xA0 1
    else s') s1

/-- R307. Counter 2 of the threads that are parked in their own slot's cycle. -/
def parkedSlots (s : State) : State :=
  let own := s.threads.filter fun (t, th) => decide (t.slot = s.cyc % 16) && (match th.wait with
    | .rest => true
    | .reply _ => true
    | .redo _ => true
    | .line _ => true
    | _ => false)
  own.foldl (fun s' (t, _) => modThread s' t fun th => perfAdd th 2 1) s

/-- A YIELD's rotation is over (R304): its thread is in the rotation again. -/
def endRests (s : State) : State :=
  (s.threads.filter fun (_, th) => decide (th.wait = .rest ∧ th.ready ≤ s.cyc)).foldl
    (fun s' (t, _) => modThread s' t fun th => { th with wait := .run }) s

/-- The next cycle: of wall time, and of the global cycle counter when any core is clocked (R12); during entry to MOORED
threads stop at each rotation boundary, and what is to be preserved is saved (R19). -/
def tick (s : State) : State :=
  let s := if clockRuns s ∧ s.power.state = .run then { accounts s with runCyc := s.runCyc + 1 } else s
  let s := moorSaves { flushTraces s with wall := s.wall + 1, tried := [], served := [] }
  if clockRuns s then
    let s := parkedSlots (endRests { s with cyc := s.cyc + 1 })
    let s := if decide (s.power.trans = .mooring) && decide (s.cyc % 16 = 0) then stopAll s moorStops else s
    { s with turn := turnsOf s }
  else s

/-! ## What comes next -/

/-- An issue: a stepped one answers its step when it has taken place (R147). -/
def issueOf (s : State) (t : ThreadId) : Todo :=
  let s := if stepping s t then s.at s.cyc (.event (.debugStepComplete t)) else s
  let tried (s : State) (ok : Bool) : State := { s with tried := s.tried ++ [(t, ok)] }
  match issueTurn s t with
  | .go s => .decode (tried s true)
  | .done s => .rest (tried s false)

/-- R147. Is this the thread of a stepped instruction that is parked while its creel stays halted? -/
def keptHalted (s : State) (t : ThreadId) : Bool :=
  match (creelOf s t.core.creel).halt with
  | some h => h.stepped.contains t && haltedNow s t.core
  | none => false

/-- R197, R198, R139. A message is at the node it reaches: a malformed one is dropped and counted, one into a fenced rectangle
is turned away, one for the host or another module leaves through its port, any other is the event of its type. -/
def arriveMsg (m : Msg) (s : State) : Todo :=
  let c := addrCore m.dst
  if addrMod m.dst ≠ modSelf s then .rest (portSend s m)
  else if !msgOk m then .rest (count s c.die 76)
  else if c.node ≤ 6 ∧ fencedAt s ⟨c.x, c.y⟩ = true then .perform (.boundaryNack m) s
  else if c.node = 14 then .rest (if isHost s m.dst then portSend s m else count s c.die 78)
  else match m.mtype.toNat with
  | 0xF8 =>
    (match fieldAt m.payload 0 1 with
    | 1 => .perform (.delegateTransfer m) s
    | 2 => .perform (.taken m) s
    | 3 => .perform (.redirect m) s
    | 4 => .perform (.redirected m) s
    | 5 => .perform (.fwdEnd m) s
    | _ => .rest (count s c.die 76))
  | 0xF9 => .perform (.closedNotice m) s
  | 0xFA => .perform (.connectMessage m) s
  | 0xFB => .perform (.acceptMessage m) s
  | 0xFC => .perform (.creditReturn m) s
  | 0xFD => .rest s
  | 0xFE => .perform (.snapshotMarker c (addrEp m.dst)) s
  | _ => .perform (.userMessageArrival m) s

/-- What an agenda entry comes to. -/
def actOf (a : Act) (s : State) : Todo :=
  match a with
  | .event e => .perform e s
  | .redo t =>
    if keptHalted s t then .rest s
    else (match redoTurn s t with
    | .go s => .decode s
    | .done s => .rest s)
  | .mailbox c n => .rest (serveMailbox s c n)
  | .arrive m => arriveMsg m s
  | .walkRead id => .rest (walkRead s id)
  | .walkArrive id => .rest (walkArrive s id)
  | .gateAgain q => .rest (gateAgain s q)
  | .haltSkewOver c => .rest (haltSkewOver s c)
  | .walkEnd id leaf addr size cause => .rest (walkEnd s id leaf addr size cause)

/-- A happening on the wall axis whose time has come, or the tick. -/
def wallNext (s : State) : Todo :=
  match s.wallAgenda with
  | d :: r => if d.at_ ≤ s.wall then actOf d.act { s with wallAgenda := r } else .rest (tick s)
  | [] => .rest (tick s)

/-- R166, R168, R222. Is an agenda entry the access of another party than a core's own issuing slot to a core's or creel's stores,
which is performed behind the owner's accesses of its cycle? -/
def actsOutside (d : Due) : Bool :=
  (requestIn d.act).isSome || (match d.act with
    | .event e => (match e with
      | .bulkRead .. => true
      | .bulkWrite .. => true
      | .treq _ => true
      | .twrite _ => true
      | .engineCommandComplete .. => true
      | .enqRemoteArrival .. => true
      | .inlineCodeRun .. => true
      | _ => false)
    | _ => false)

/-- The port that an agenda entry needs for itself in its cycle: a core's for replies (R165), or the outside port of a local-store
bank (R166). -/
def portNeeded (s : State) (d : Due) : Option (Bool × CoreId × Nat) :=
  match d.act with
  | .event (.memoryReply r) => (match r.req.who with
    | .slot t => some (true, t.core, 0)
    | .fetch t _ => some (true, t.core, 0)
    | _ => none)
  | a => (requestIn a).bind fun q => match homeOf s q.pa with
    | some (.store c) => some (false, c, portOf s c q.pa)
    | _ => none

/-- Is an agenda entry's port taken in this cycle? -/
def portTaken (s : State) (d : Due) : Bool :=
  match portNeeded s d with
  | some p => s.served.contains p
  | none => false

/-- What the agenda holds for this cycle comes next: the owner's accesses before those from outside, each with its port
(R165, R166, R222); what a link that is being retrained holds waits (R38). -/
def nextDue (s : State) : Option Due :=
  let due := s.agenda.takeWhile fun d => decide (d.at_ ≤ s.cyc)
  let free := due.filter fun d => !portTaken s d && !linkHeld s d.act
  (free.find? fun d => !actsOutside d).or free.head?

/-! ## A buffered beat and the scalar instruction of its slot (R160, R182) -/

/-- The start of the cycle, as the scalar instruction that follows a buffered beat of its thread reads it. -/
def sampleStart (s : State) (t : ThreadId) (r : List Turn) : State :=
  match r with
  | .issue u :: _ => if u = t then { s with sampled := some ⟨t, s.mem, s.bits, s.err, s.regs, (threadOf s t).vflags⟩ } else s
  | _ => s

/-- What the beat has written is set aside until the scalar instruction has been performed. -/
def setAside (s : State) : State :=
  match s.sampled with
  | none => s
  | some o =>
    let diff (a b : List Host.Cell) : List Host.Cell := cellDiff (a.length + b.length) a b
    let th := threadOf s o.thread
    let regs := ((List.range th.nregs).map fun i => (o.thread.core, th.base + i)).filterMap fun e =>
      if s.regs.find e = o.regs.find e then none else (s.regs.find e).map fun v => (e, v)
    modThread { s with
      sampled := none, mem := o.mem, bits := o.bits, err := o.err, regs := o.regs
      late := some ⟨o.thread, diff o.mem s.mem, diff o.bits s.bits, diff o.err s.err, regs, th.vflags⟩ } o.thread fun th =>
        { th with vflags := o.vflags }

/-- The end of the cycle for a buffered beat: what it writes. -/
def putLate (s : State) : State :=
  match s.late with
  | none => s
  | some l =>
    modThread { s with
      late := none, mem := cellsPut s.mem l.mem, bits := cellsPut s.bits l.bits, err := cellsPut s.err l.err
      regs := l.regs.foldl (fun m x => m.put x.1 x.2) s.regs } l.thread fun th => { th with vflags := th.vflags ||| l.vflags }

/-- What a step does next (DESIGN CHOICE, log 7): an input; the instruction in hand; the next turn of the cycle; what the agenda
holds for this cycle, or the wall; otherwise the tick. -/
def todo (s : State) : Todo :=
  match s.inputs with
  | e :: r => .perform e { s with inputs := r }
  | [] =>
    match s.hand with
    | some h =>
      .decode { s with
        hand := none, cur := h.thread, word := h.word, high := h.high, again := h.again, buffered := h.buffered }
    | none =>
      let s := putLate s
      match s.turn with
      | .beat t :: r => .perform (.repBufferBeat t) { sampleStart s t r with turn := r }
      | .issue t :: r => issueOf { setAside s with turn := r } t
      | [] =>
        match nextDue s with
        | some d => actOf d.act { s with agenda := s.agenda.erase d, served := (portNeeded s d).toList ++ s.served }
        | none => wallNext s

end Sys2Proof.Machine
end

