-- ==== Sys2Proof/Machine/Boot.lean ====
section
/-! DEFINITION. The boot units of the dies and their floods (R36, R411 to R414). -/

namespace Sys2Proof.Machine

/-! ## Routers -/

/-- The router that a die's boot unit is attached to (R411). -/
def bootRouter (die : Nat) : CreelId := ⟨32 * (die % 4), 32 * (die / 4)⟩

/-- Hops from a router to the boot unit's along the recorded tree: every parent is one hop nearer (R412). -/
def bootHops (c : CreelId) : Nat := c.x % 32 + c.y % 32

/-- R36, R412. Neighbours of a router within its die, but for the port of arrival: the neighbour, the port a copy arrives
through there (1 west, 2 south, 3 east, 4 north), and how coordinates change. -/
def bootSpread (c : CreelId) (port : Nat) : List (CreelId × Nat × Int × Int) :=
  (if c.x % 32 < 31 ∧ port ≠ 3 then [(⟨c.x + 1, c.y⟩, 1, 1, 0)] else []) ++
    (if 0 < c.x % 32 ∧ port ≠ 1 then [(⟨c.x - 1, c.y⟩, 3, -1, 0)] else []) ++
    (if c.y % 32 < 31 ∧ port ≠ 4 then [(⟨c.x, c.y + 1⟩, 2, 0, 1)] else []) ++
    (if 0 < c.y % 32 ∧ port ≠ 2 then [(⟨c.x, c.y - 1⟩, 4, 0, -1)] else [])

/-- A flood begins: the window is open. -/
def openWindow (s : State) (die : Nat) (fnum : Byte) : State :=
  let s := cancel s fun e => match e with
    | .discoveryWindowEnd d _ => decide (d = die)
    | .imageWindowEnd d _ => decide (d = die)
    | _ => false
  modBoot s die fun b => { b with imgack := 0, lastf := fnum, busy := true }

/-- A write of BOOT_CTL is refused. -/
def bootReject (s : State) (die : Nat) : State := modBoot s die fun b => { b with rej := true }

/-! ## Discovery (R412, R414) -/

/-- R412, R414. GO with KIND 1. -/
def execBootDiscoveryFlood (die : Nat) (v : Word) (s : State) : Out :=
  let fnum := v.extractLsb' 8 8
  let b := bootOf s die
  .next (if b.busy ∨ fnum = b.lastf then bootReject s die
    else
      let s := modBoot (openWindow s die fnum) die fun b => { b with pres := List.replicate 16 0, ans := 0 }
      let s := s.after 1 (.event (.floodFlitArrival (bootRouter die) 0 ⟨1, fnum, die, 0, 0, 0, false, 0, []⟩))
      s.after 4096 (.event (.discoveryWindowEnd die fnum)))

/-- R412. Does a copy of the same flood come through an earlier port in this cycle? -/
def earlierCopy (s : State) (c : CreelId) (port : Nat) (f : FloodFlit) : Bool :=
  s.agenda.any fun d => match d.act with
    | .event (.floodFlitArrival c' p g) => decide (d.at_ ≤ s.cyc ∧ c' = c ∧ p < port ∧ g.fnum = f.fnum)
    | _ => false

/-- R412. A discovery flit at a router: the first of its number gives coordinates and parent and is forwarded; a usable creel
answers up the tree. -/
def execFloodFlitArrival (c : CreelId) (port : Nat) (f : FloodFlit) (s : State) : Out :=
  .next (if (creelOf s c).lastFlood = some f.fnum ∨ earlierCopy s c port f = true then s
    else
      let s := modCreel s c fun k => { k with
        fx := f.fx, fy := f.fy, parent := port, lastFlood := some f.fnum, packets := [], lastPacket := none }
      let s := (bootSpread c port).foldl (fun s (n, p, dx, dy) =>
        s.after 1 (.event (.floodFlitArrival n p { f with fx := f.fx + dx, fy := f.fy + dy }))) s
      if creelThere s c then s.after (3 + bootHops c) (.event (.floodAnswer f.die { f with kind := 3 })) else s)

/-- R414. An answer or acknowledgement after its window. -/
def bootLate (s : State) (die : Nat) : State := count (modBoot s die fun b => { b with late := true }) die 88

/-- R412, R414. An answer reaches the boot unit. -/
def execFloodAnswer (die : Nat) (f : FloodFlit) (s : State) : Out :=
  let b := bootOf s die
  let i := (32 * f.fy + f.fx).toNat
  .next (if b.busy ∧ b.lastf = f.fnum then modBoot s die fun b => { b with
      ans := b.ans + 1, pres := b.pres.set (i / 64) (setBit (b.pres.getD (i / 64) 0) (i % 64) true) }
    else bootLate s die)

/-! ## The floods of bring-up phase 4 (R25, R415) -/

/-- Is bring-up in phase 4? -/
def floodPhase (s : State) : Bool := decide (s.power.trans = .bringup ∧ s.power.phase = 4)

/-- A halfword of the maps that the boot program leaves. -/
def putHalf (s : State) (a n : Nat) : State := writeBytes s a (leBytes 2 n) false

/-- R415. The die-local indices of the creels that answered, in increasing order. -/
def answered (b : BootSt) : List Nat := (List.range 1024).filter fun i => (b.pres.getD (i / 64) 0).getLsbD (i % 64)

/-- R415. The two maps: logical to physical and back, 0xFFFF where there is none. -/
def bootMaps (s : State) (die : Nat) : State :=
  let base := lengthsmanBase (lengthsman die 0)
  let l := answered (bootOf s die)
  let s := (List.range 1024).foldl (fun s i => putHalf s (base + 0x4000 + 2 * i) (l.getD i 0xFFFF)) s
  (List.range 1024).foldl (fun s i => putHalf s (base + 0x4800 + 2 * i) (if l.contains i then l.idxOf i else 0xFFFF)) s

/-- R415. The result doubleword: a failed check, IMGACK, ANS and the number of usable creels. -/
def bootResult (s : State) (die : Nat) : State :=
  let b := bootOf s die
  let n := (answered b).length
  let bad := decide (b.ans ≠ n ∨ b.imgack ≠ n) || b.rej || b.late
  writeWord s (lengthsmanBase (lengthsman die 0) + 0x5000)
    (BitVec.ofNat 64 ((if bad then 2 ^ 48 else 0) + 2 ^ 32 * b.imgack + 2 ^ 16 * b.ans + n))

/-- R25, R415. Phase 4 begins: the creel image stands in the local store of each die's lengthsman core 0, and the discovery flood
goes out under a new flood number (R414). What `bootfl` does is carried out as its effect, at its times drawn free, since the
place of its code is not given (DESIGN CHOICE, log 75). -/
def startFloods (s : State) : State :=
  (List.range 8).foldl (fun s die =>
    let s := writeBytes s (lengthsmanBase (lengthsman die 0)) ((List.range 16384).map Config.creelImage) false
    now s (.bootDiscoveryFlood die (BitVec.ofNat 64 (256 * (((bootOf s die).lastf.toNat + 1) % 256) + 0x11)))) s

/-- R415. Are the floods of phase 4 still on their way? -/
def floodsDue (s : State) : Bool :=
  (List.range 8).any fun die => (bootOf s die).busy || s.agenda.any fun d => match d.act with
    | .event (.bootDiscoveryFlood x _) => decide (x = die)
    | .event (.bootImageFlood x _) => decide (x = die)
    | _ => false

/-- R415. The discovery flood of phase 4 has ended: the maps are written, and the image flood follows. -/
def afterDiscovery (s : State) (die : Nat) : State :=
  let s := modBoot (bootMaps s die) die fun b => { b with img := 0x40000#64 }
  s.drawn.after (1 + Config.delay s.free)
    (.event (.bootImageFlood die (BitVec.ofNat 64 (256 * (((bootOf s die).lastf.toNat + 1) % 256) + 0x21))))

/-- R412, R415. The window of a discovery flood closes. -/
def execDiscoveryWindowEnd (die : Nat) (fnum : Byte) (s : State) : Out :=
  .next (if (bootOf s die).lastf = fnum then
      let s := modBoot s die fun b => { b with busy := false }
      if floodPhase s then afterDiscovery s die else s
    else s)

/-! ## Images (R413, R414) -/

/-- NPKT, SRCOFF and DOFF of BOOT_IMG (R411). -/
def imgPackets (w : Word) : Nat := (w.extractLsb' 16 3).toNat
/-- SRCOFF. -/
def imgSource (w : Word) : Nat := (w.extractLsb' 0 16).toNat
/-- DOFF. -/
def imgDest (w : Word) : Nat := (w.extractLsb' 32 20).toNat

/-- R413, R414. GO with KIND 2: the packets are injected back to back, 65 flits each. -/
def execBootImageFlood (die : Nat) (v : Word) (s : State) : Out :=
  let fnum := v.extractLsb' 8 8
  let b := bootOf s die
  let n := imgPackets b.img
  let src := imgSource b.img
  let dst := imgDest b.img
  .next (if b.busy ∨ b.ans = 0 ∨ n = 0 ∨ 6 < n ∨ 24576 < src + 4096 * n ∨ 0x80000 < dst + 4096 * n then bootReject s die
    else
      let base := lengthsmanBase (lengthsman die 0) + src
      let s := openWindow s die fnum
      let s := (List.range n).foldl (fun s k =>
        s.after (1 + 65 * k) (.event (.imagePacketArrival (bootRouter die) 0
          ⟨2, fnum, die, 0, 0, k, decide (k + 1 = n), dst + 4096 * k, readBytes s (base + 4096 * k) 4096⟩))) s
      s.after 65536 (.event (.imageWindowEnd die fnum)))

/-- R413. A creel writes a packet's bytes as the outside port writes plain data; after all up to the last, it acknowledges. -/
def writePacket (s : State) (c : CreelId) (f : FloodFlit) : State :=
  let bs := f.bytes.take ((creelOf s c).spBytes - f.off)
  let pa := windowBase c + f.off
  let s := performWrite s pa bs false
  let s := (List.range ((bs.length + 7) / 8)).foldl (fun s i => setFull s (pa + 8 * i) true) s
  let s := modCreel s c fun k => { k with
    packets := k.packets ++ [f.fpkt], lastPacket := if f.last then some f.fpkt else k.lastPacket }
  let k := creelOf s c
  match k.lastPacket with
  | some m =>
    if (List.range (m + 1)).all fun i => k.packets.contains i then
      (modCreel s c fun k => { k with packets := [], lastPacket := none }).after (2 + bootHops c)
        (.event (.imageAck f.die { f with kind := 4, fx := k.fx, fy := k.fy, bytes := [] }))
    else s
  | none => s

/-- R413. The head of an image packet at a router: accepted through the recorded parent port, forwarded out of the others, and
handed to a usable creel, which has all of it 65 cycles later (port 5). -/
def execImagePacketArrival (c : CreelId) (port : Nat) (f : FloodFlit) (s : State) : Out :=
  .next (if port = 5 then writePacket s c f
    else if (creelOf s c).parent ≠ port then s
    else
      let s := (bootSpread c port).foldl (fun s (n, p, _, _) => s.after 1 (.event (.imagePacketArrival n p f))) s
      if creelThere s c then s.after 65 (.event (.imagePacketArrival c 5 f)) else s)

/-- R413, R414. An acknowledgement reaches the boot unit: the window closes with the last. -/
def execImageAck (die : Nat) (f : FloodFlit) (s : State) : Out :=
  let b := bootOf s die
  .next (if b.busy ∧ b.lastf = f.fnum then
      let s := modBoot s die fun b => { b with imgack := b.imgack + 1, busy := decide (b.imgack + 1 ≠ b.ans) }
      if floodPhase s && !(bootOf s die).busy then bootResult s die else s
    else bootLate s die)

/-- R413, R415. The window of an image flood closes. -/
def execImageWindowEnd (die : Nat) (fnum : Byte) (s : State) : Out :=
  .next (if (bootOf s die).lastf = fnum ∧ (bootOf s die).busy = true then
      let s := modBoot s die fun b => { b with busy := false }
      if floodPhase s then bootResult s die else s
    else s)

end Sys2Proof.Machine
end

