-- ==== Sys2Proof/Machine/Debug.lean ====
section
/-! DEFINITION. The debug module: the operations of the debug conversation (R144), halts, resumes and steps (R145 to R148),
dumps (R153) and samples (R152). -/

namespace Sys2Proof.Machine

/-! ## Names (R144) -/

/-- Does a creel have a debug module that answers? -/
def debugCreel (s : State) (c : CreelId) : Bool := creelThere s c

/-- Does a slot exist? -/
def debugSlot (s : State) (t : ThreadId) : Bool :=
  debugCreel s ⟨t.core.x, t.core.y⟩ && decide (t.core.node ≤ 6 ∧ t.slot ≤ 15)

/-! ## Halt (R145) -/

/-- R144, R145. The host halts a creel: the halt counts as coming from SI at the cycle of the acceptance, the next one. An
operation on a halted creel answers the h in force. -/
def execDbgHalt (c : CreelId) (s : State) : Out :=
  .next (if !debugCreel s c then debugReply s 1 0
    else
      let s := haltAt s c (s.cyc + 1) 1 0 0 0
      debugReply s 0 (dbgReg s c 0x10))

/-- R145. A cross-trigger halts a creel with cause 5 and its own h. -/
def execHaltCrossTrigger (c : CreelId) (s : State) : Out :=
  .next (if debugCreel s c then haltAt s c (s.cyc + 1) 5 0 0 0 else s)

/-! ## Resume (R147) -/

/-- R147. The first cycle after this one with the remainder of h. -/
def resumeCycle (cyc h : Nat) : Nat :=
  let a := cyc + 1
  a + (h + 16 - a % 16 % 16) % 16

/-- R144, R147. The host resumes a halted creel: r is answered, and the creel goes on at r. -/
def execDbgResume (c : CreelId) (s : State) : Out :=
  .next (if !debugCreel s c then debugReply s 1 0
    else match (creelOf s c).halt with
    | some h =>
      if !isHalted s c then debugReply s 2 0
      else
        let r := h.resume.getD (resumeCycle s.cyc (h.h % 16))
        let s := if h.resume.isSome then s
          else (modCreel s c fun q => { q with halt := some { h with resume := some r } }).at (r - 1)
            (.event (.debugResumePoint c))
        debugReply s 0 (BitVec.ofNat 64 r)
    | none => debugReply s 2 0)

/-- R146. What the matrix unit of a core had left when it froze follows the resume, `n` cycles later; what has come meanwhile is
tried. -/
def thawMatrix (s : State) (core : CoreId) (n froze : Nat) : State :=
  match (coreOf s core).mrun with
  | some r =>
    if r.finish = 0 then tryRun s core
    else if r.finish < froze then s
    else
      let s := cancel s fun e => match e with
        | .matrixCommit x => decide (x = core)
        | _ => false
      (modCore s core fun k => { k with mrun := some { r with finish := r.finish + n, started := r.started + n } }).at
        (r.finish + n) (.event (.matrixCommit core))
  | none => if (coreOf s core).mqueue.isEmpty then s else s.at (froze + n) (.event (.matrixAccept core))

/-- R146, R147. Just before r, what stands frozen is moved by the length of the halt; when the skew is over, the halt is gone. -/
def execDebugResumePoint (c : CreelId) (s : State) : Out :=
  .next (match (creelOf s c).halt with
    | some h =>
      match h.resume with
      | some r =>
        if s.cyc < r then
          let n := r - h.h
          let s := [3, 4, 5, 6].foldl (fun s i => thawMatrix s ⟨c.x, c.y, i⟩ n (h.h + ringDelta i h.ring)) s
          let later (x d : Nat) (w : Nat) : Nat := if x = w ∧ h.h + 16 ≤ w then w + d else x
          let s := h.waits.foldl (fun s (t, w, d) => modThread s t fun th => { th with
            ready := if th.wait = .run then later th.ready n w else th.ready
            rep := { th.rep with due := if th.rep.running then later th.rep.due n d else th.rep.due } }) s
          -- what a stepped instruction waits for completes it now
          let s := h.stepped.foldl (fun s t => s.at (r + ringDelta t.core.node h.ring) (.redo t)) s
          let s := h.kept.foldl (fun s m => s.at (r + 3) (.event (.memoryReply m))) s
          let s := modCreel s c fun q => { q with halt := some { h with waits := [], stepped := [], kept := [] } }
          let s := traceRec s ⟨⟨c.x, c.y, h.ring⟩, h.slot⟩ 6 (List.replicate 16 0)
          s.at (r + 2) (.event (.debugResumePoint c))
        -- a step whose issue has not taken place is still to be answered
        else if h.step.isSome then s.after 16 (.event (.debugResumePoint c))
        else modCreel s c fun q => { q with halt := none }
      | none => s
    | none => s)

/-! ## Step (R147) -/

/-- R144, R147. One issue of a slot of a halted creel is released; the answer comes when it has taken place. -/
def execDbgStep (t : ThreadId) (s : State) : Out :=
  let c : CreelId := ⟨t.core.x, t.core.y⟩
  .next (if !debugSlot s t then debugReply s 1 0
    else match (creelOf s c).halt with
    | some h =>
      if !isHalted s c then debugReply s 2 0
      else match s.threads.find t with
      | some th =>
        if th.wait = .run ∧ th.stopping = false then
          modCreel s c fun q => { q with halt := some { h with step := some t } }
        else debugReply s 3 0
      | none => debugReply s 3 0
    | none => debugReply s 2 0)

/-- R147. Once the stepped issue has taken place, the answer is the PC, and CAUSE becomes 6; a turn that came to no issue is
followed by another. An instruction that parks completes only after a resume. -/
def execDebugStepComplete (t : ThreadId) (s : State) : Out :=
  let c : CreelId := ⟨t.core.x, t.core.y⟩
  .next (match (creelOf s c).halt with
    | some h =>
      if h.step = some t ∧ s.tried.contains (t, true) then
        let parks := decide ((threadOf s t).wait ≠ .run)
        let s := modCreel s c fun q => { q with
          halt := some { h with step := none, cause := 6, stepped := if parks then t :: h.stepped else h.stepped } }
        debugReply s 0 ((threadOf s t).pc.setWidth 64)
      else s
    | none => s)

/-! ## Registers (R144) -/

/-- R144. A register of the debug block read; offsets that are not assigned read zero. -/
def execDbgRegRead (c : CreelId) (off : Nat) (s : State) : Out :=
  .next (if !debugCreel s c then debugReply s 1 0
    else if off % 8 ≠ 0 ∨ 0x200 ≤ off then debugReply s 4 0
    else debugReply s 0 ((dbgRead s c off).getD 0))

/-- R144. A register of the debug block written. -/
def execDbgRegWrite (c : CreelId) (off : Nat) (v : Word) (s : State) : Out :=
  .next (if !debugCreel s c then debugReply s 1 0
    else if off % 8 ≠ 0 ∨ 0x200 ≤ off then debugReply s 4 0
    else debugReply (dbgWrite s c off v) 0 0)

/-- R144. A register of a halted thread: its data bits, and S in bit 7 of the status byte. -/
def execDbgThreadRegRead (t : ThreadId) (n : Nat) (s : State) : Out :=
  .next (if !debugSlot s t then debugReply s 1 0
    else if !isHalted s ⟨t.core.x, t.core.y⟩ then debugReply s 2 0
    else match s.threads.find t with
    | some th =>
      if n < th.nregs then
        let e := regOf s t n
        debugReply s (if e.s then 0x80 else 0) e.d
      else debugReply s 4 0
    | none => debugReply s 3 0)

/-! ## Dumps (R153) -/

/-- R144, R153. The team at a level that holds a slot's creel is pre-empted by save and its image kept; the answer comes with
the image. A save that is under way for another reason is joined; a team that is discarded, fenced or moored cannot be dumped. -/
def execDbgDumpTeam (t : ThreadId) (level : Nat) (s : State) : Out :=
  .next (if !debugSlot s t then debugReply s 1 0
    else match (teamsAt s ⟨t.core.x, t.core.y⟩).find? fun (q, _) => decide (q.level = level) with
    | some (k, u) =>
      let can := match u.phase with
        | .placed => true
        | .leaving a => decide (a = 0 ∨ a = 2 ∨ a = 3)
        | _ => false
      if can then
        modTeam (preempt s k none 1).1 k fun v => { v with dump := true, dumpJoined := decide (u.phase = .leaving 2) && !u.dump }
      else debugReply s 4 0
    | none => debugReply s 4 0)

/-- R144, R153. A halted creel's blocks are written with an index block, and it stays halted. -/
def execDbgDumpCreel (c : CreelId) (s : State) : Out :=
  .next (if !debugCreel s c then debugReply s 1 0
    else if !isHalted s c then debugReply s 2 0
    else
      let key := (teamsAt s c).head?.map (·.1)
      let f : Foot := match key with
        | some k => teamFoot s k
        | none => ⟨(creelOf s c).spBytes, 24576, 0, 0, 0⟩
      let here := (s.threads.filter fun (t, _) => decide (t.core.creel = c)).map fun (t, th) => (t, th.nregs)
      let bound := [0, 1, 2].filter fun n => here.any fun (t, _) => decide (t.core.node = n)
      let cores := (bound ++ [3, 4, 5, 6]).map fun n => (⟨c.x, c.y, n⟩ : CoreId)
      let parts := imageParts s f [c] cores here
      let image := (Config.poolAddress s.free).toNat
      let (s, a) := dumpIndex (writeImage s s none image parts).drawn image 2 ((key.map fun k => launchNum s k.lslot).getD 0)
        ((key.map (·.num)).getD 0) ((key.map (·.level)).getD 0) parts
      debugReply { s with free := s.free + 4096 } 0 a)

/-! ## Samples (R152) -/

/-- R152. The state code of a position. -/
def sampleCode (s : State) (t : ThreadId) : Nat :=
  if haltedNow s t.core then 7
  else match s.threads.find t with
  | none => 6
  | some th =>
    if th.stopping then 8
    else match th.wait with
    | .run => if th.delay = 2 then 9 else if th.going then 5 else 0
    | .rest => 0
    | .reply _ => (match th.req with
      | some q => if 8 ≤ q.op then 3 else 1
      | none => 1)
    | .line _ => 1
    | .halted => 7
    | .stopped => 8
    | .redo k => (match k with
      | .arrival _ => 2
      | .cell .. => 3
      | .queue => 4
      | .event _ => 4
      | .matrix => 5
      | .region => 9
      | _ => 1)

/-- R152. A sample of the next position is recorded, and the next one is due 2^LOG2P cycles later. -/
def execSampleTick (c : CreelId) (s : State) : Out :=
  let ctl := dbgReg s c 0x90
  let p2 := (ctl.extractLsb' 0 5).toNat
  .next (if !ctl.getLsbD 8 || decide (p2 < 8 ∨ 24 < p2) then s
    else
      let p := (creelOf s c).sample % 112
      let t : ThreadId := ⟨⟨c.x, c.y, p / 16⟩, p % 16⟩
      let s := traceRec s t 7 (leBytes 8 (threadOf s t).pc.toNat ++ leBytes 1 (sampleCode s t) ++ List.replicate 7 0)
      let s := modCreel s c fun q => { q with sample := (p + 1) % 112 }
      s.after (2 ^ p2) (.event (.sampleTick c)))

end Sys2Proof.Machine
end

