-- ==== Sys2Proof/Machine/Fence.lean ====
section
/-! DEFINITION. Fencing (R138 to R140): the team that is fenced, the steps of a fence, and negative acknowledgements (R139,
R225). -/

namespace Sys2Proof.Machine

/-! ## The team (R138) -/

/-- Is a creel in a fence's rectangle? -/
def inFence (f : FenceSt) (c : CreelId) : Bool :=
  decide (f.x ≤ c.x ∧ c.x < f.x + f.w ∧ f.y ≤ c.y ∧ c.y < f.y + f.h)

/-- R138. Has a team a thread, with it its endpoints, or a queued packet on a creel of a rectangle? -/
def standsOn (s : State) (t : TeamSt) (k : TeamKey) : Bool :=
  (creelsIn s t.x t.y t.w t.h).any fun c =>
    (s.threads.any fun (i, th) => decide (i.core.creel = c ∧ th.key = some k)) ||
      [0, 1, 2, 3].any fun p => ringHolds s c k p (ringLen s c + 1) (ringPtr s c p).2

/-- The ancestors of a team. -/
def ancestors (r : List Byte) : Nat → TeamKey → List TeamKey
  | 0, _ => []
  | fuel + 1, k => match parentKey r k with
    | some p => p :: ancestors r fuel p
    | none => []

/-- R138. The team that is fenced. -/
def fenceTeam (s : State) : Nat → TeamKey → TeamKey
  | 0, k => k
  | fuel + 1, k =>
    let r := recordOf s k.lslot
    match s.teams.find k, parentKey r k with
    | some t, some p => if (ancestors r 8 k).any (standsOn s t) then fenceTeam s fuel p else k
    | _, _ => k

/-! ## The boundary (R33, R139) -/

/-- The first router outside a rectangle on the route from a node inside to one outside (R33). -/
def exitNode (f : FenceSt) (src dst : Nat × Nat) : Nat × Nat :=
  if f.x + f.w ≤ dst.1 then (f.x + f.w, src.2)
  else if dst.1 < f.x then (f.x - 1, src.2)
  else if f.y + f.h ≤ dst.2 then (dst.1, f.y + f.h)
  else (dst.1, f.y - 1)

/-- What an agenda entry carries over the mesh from a node of a rectangle: source, destination and flits; what stays within a
team's rectangle is given one node of it for both. -/
def travels (s : State) (a : Act) : Option ((Nat × Nat) × (Nat × Nat) × Nat) :=
  let home (q : MemReq) (x : Nat) : Option (Nat × Nat) := (homeOf s q.pa).map fun h => homeRouter h x
  match a with
  | .arrive m => some (((addrCore m.src).x, (addrCore m.src).y), ((addrCore m.dst).x, (addrCore m.dst).y), m.nflit)
  | .event (.memoryReply r) =>
    (match requesterCreel r.req.who with
    | some c => (home r.req c.x).map fun h => (h, (c.x, c.y), 1)
    | none => none)
  | .event (.doneReceive c _ _) => some ((c.x, c.y), (c.x, c.y), 1)
  | .event (.stealRequest v t _) => some ((t.x, t.y), (v.x, v.y), 1)
  | .event (.stealReply t v _ _ _ _) => some ((v.x, v.y), (t.x, t.y), 1)
  | .event (.enqRemoteArrival t _ _) => some ((t.core.x, t.core.y), (t.core.x, t.core.y), 1)
  | .event (.enqAnswer t _) => some ((t.core.x, t.core.y), (t.core.x, t.core.y), 1)
  | .event (.mteamBlockArrival c _) => some ((c.x, c.y), (c.x, c.y), 1)
  | .event (.mswapMessageArrival c _) => some ((c.x, c.y), (c.x, c.y), 1)
  | .event e =>
    let q : Option MemReq := match e with
      | .memLoad q => some q
      | .memStore q => some q
      | .memAtomic q => some q
      | .memFullEmpty q => some q
      | _ => requestOf a
    q.bind fun q => (requesterCreel q.who).bind fun c => (home q c.x).map fun h =>
      ((c.x, c.y), h, flitsOf (16 + q.data.length))
  | _ => none

/-- R139. Is a message of the rectangle's nodes discarded: its head has not crossed the boundary outward? -/
def discardedBy (s : State) (f : FenceSt) (d : Due) : Bool :=
  match travels s d.act with
  | none => false
  | some (src, dst, n) =>
    if !inFence f ⟨src.1, src.2⟩ then false
    else if inFence f ⟨dst.1, dst.2⟩ then true
    else
      let out := exitNode f src dst
      decide (s.cyc + meshCycles out.1 out.2 dst.1 dst.2 + (n - 1) < d.at_)

/-! ## The steps (R139, R140) -/

/-- A fence of a team begins: the team and those below it stand fenced. -/
def beginFence (s : State) (k : TeamKey) : State :=
  let f := fenceTeam s 9 k
  match s.teams.find f with
  | none => s
  | some t =>
    let s := (withDescendants s f).foldl (fun s q => modTeam s q fun u => { u with phase := .fenced }) ((withDescendants s f).foldl dropDump s)
    (count { s with fences := s.fences ++ [⟨f, t.x, t.y, t.w, t.h, 0, s.cyc⟩] } (⟨t.x, t.y⟩ : CreelId).die 73).after 512
      (.event (.fenceBoundary f))

/-- A fence's step noted. -/
def fenceStep (s : State) (k : TeamKey) (n : Nat) : State :=
  { s with fences := s.fences.map fun f => if f.key = k then { f with step := n } else f }

/-- R138, R139. An error consumed by a team begins its fence, unless one covers it; 512 cycles later the boundary is fenced,
and messages of the rectangle that have not crossed it are discarded. -/
def execFenceBoundary (k : TeamKey) (s : State) : Out :=
  .next (match s.fences.find? fun f => decide (f.key = k) with
    | some f =>
      if f.step = 0 ∧ s.cyc = f.since + 512 then
        let s := { s with agenda := s.agenda.filter fun d => !discardedBy s f d }
        (fenceStep s k 1).after 512 (.event (.fenceStop k))
      else s
    | none =>
      if s.fences.any fun f => decide (f.key.lslot = k.lslot) && isUnder (recordOf s k.lslot) f.key 8 k then s
      else beginFence s k)

/-- R139, R216. An endpoint of a fenced thread closes with cause 3: a peer outside is told, one inside closes itself. -/
def closeFenced (s : State) (f : FenceSt) (c : CoreId) (n : Nat) : State :=
  let e := epOf s c n
  let inside := decide (addrMod e.peer = modSelf s ∧ addrNode e.peer ≤ 6) && inFence f ⟨(addrCore e.peer).x, (addrCore e.peer).y⟩
  if inside && decide (e.est = .opened ∨ e.est = .delegin) then
    count (modEp s c n fun p => { p with
      est := .closed, ccause := 3, cname := recName (epRec s c n), seen := false, tchg := s.cyc }) c.die 82
  else closeEp s c n 3 none

/-- R139. Every thread of the fenced team and its descendants stops, its endpoints close; no status word is contributed. -/
def execFenceStop (k : TeamKey) (s : State) : Out :=
  .next (match s.fences.find? fun f => decide (f.key = k) with
    | none => s
    | some f =>
      if f.step ≠ 1 then s
      else
        let ks := descendants s k
        let mine := s.threads.filter fun (_, th) => ofTeams ks th
        let s := mine.foldl (fun s (t, _) =>
          (ownedEps s t).foldl (fun s n => closeFenced (tellParties s t.core n 3) f t.core n) s) s
        let s := mine.foldl (fun s (t, _) => dropHeld s t) s
        let s := stopThreads s fun _ th => ofTeams ks th
        (fenceStep s k 2).after (16384 - 1024) (.event (.fenceReset k)))

/-- R139, R148. A halt of a reset creel ends, and LOSTH tells of it. -/
def loseHalt (s : State) (c : CreelId) : State :=
  if (creelOf s c).halt.isSome then modCreel s c fun q => { q with halt := none, losth := true, rehalt := false } else s

/-- R139, R140. The rectangle's creels are reset, and the team, which has no image, is to be relaunched. -/
def execFenceReset (k : TeamKey) (s : State) : Out :=
  .next (match s.fences.find? fun f => decide (f.key = k) with
    | none => s
    | some f =>
      if f.step ≠ 2 then s
      else
        let cs := creelsIn s f.x f.y f.w f.h
        let s := cs.foldl loseHalt s
        let s := discardTeam s k .gone
        let left := s.threads.filter fun (t, th) => inFence f ⟨t.core.x, t.core.y⟩ && !t.core.isLengthsman && th.stopping
        let s := left.foldl (fun s (t, _) => modThread s t fun th => { th with stopping := false }) s
        -- register entries that no thread holds read zero (R26)
        let used (e : CoreId × Nat) : Bool := s.threads.any fun (t, th) =>
          decide (t.core = e.1 ∧ th.base ≤ e.2 ∧ e.2 < th.base + th.nregs)
        let s := { s with regs := s.regs.filter fun (e, _) => !inFence f ⟨e.1.x, e.1.y⟩ || e.1.isLengthsman || used e }
        retryPlacements (fenceStep s k 3))

/-! ## Negative acknowledgements (R139, R200, R225) -/

/-- Does a message expect a reply: a Connect, a user or inline-code message, a TRANSFER? -/
def expectsReply (m : Msg) : Bool :=
  decide (m.mtype.toNat < 0xF8 ∨ m.mtype = 0xFA) || (decide (m.mtype = 0xF8) && decide (fieldAt m.payload 0 1 = 1))

/-- R139. A message addressed into a fenced rectangle is answered with a negative acknowledgement; one between its own nodes is
discarded. -/
def execBoundaryNack (m : Msg) (s : State) : Out :=
  let src := addrCore m.src
  let dst := addrCore m.dst
  let same := s.fences.any fun f => decide (1 ≤ f.step) && inFence f ⟨src.x, src.y⟩ && inFence f ⟨dst.x, dst.y⟩
  .next (if same then s
    else if addrMod m.src ≠ modSelf s then s.emit (.code "nack" m.src.toNat)
    else s.after (msgCycles dst src 1) (.event (.nackReceive m)))

/-- R139, R200, R216. A negative acknowledgement is at the sender of a message: a Connect is answered with status 5; a channel
message closes its endpoint with cause 4; one that expects no reply is dropped and counted. -/
def execNackReceive (m : Msg) (s : State) : Out :=
  let c := addrCore m.src
  let n := addrEp m.src
  .next (if !expectsReply m then count s c.die 74
    else if isServer m.src then
      (match convFind s m.src m.dst with
      | some _ => count (dropConv s m.src m.dst) c.die 82
      | none => s)
    else if isHost s m.src then s
    else if m.mtype = 0xFA then
      (if (epOf s c n).est = .connecting then connectAnswered s c n m.dst 5 0 else s)
    else closeEp s c n 4 none)

end Sys2Proof.Machine
end

