-- ==== Sys2Proof/Machine/Firmware.lean ====
section
/-! DEFINITION. Firmware images: the storage slots, the image header (R79), HSS signatures (R80), and the checks of the boot
ROM (R81). -/

namespace Sys2Proof.Machine

/-! ## Slots and headers (R79) -/

/-- Bytes of a slot. -/
def slotSize : Nat := 8388608

/-- The cells of slot A or B. -/
def slotCells (s : State) (b : Bool) : List Host.Cell := if b then s.nv.slotB else s.nv.slotA

/-- n bytes of a list of cells from an offset. -/
def cellBytes (m : List Host.Cell) (at_ : Nat) : Nat → List Byte
  | 0 => []
  | n + 1 => cellGet m at_ :: cellBytes m (at_ + 1) n

/-- A field of an image's header. -/
def imageField (s : State) (b : Bool) (off n : Nat) : Nat := leNat (cellBytes (slotCells s b) off n)

/-- BODY_LEN. -/
def imageBody (s : State) (b : Bool) : Nat := imageField s b 12 4
/-- SVN. -/
def imageSvn (s : State) (b : Bool) : Nat := imageField s b 8 4
/-- ENTRY. -/
def imageEntry (s : State) (b : Bool) : Nat := imageField s b 16 8

/-- Header and body: what the signature is over, and what is digested (R80). -/
def imageSigned (s : State) (b : Bool) : List Byte := cellBytes (slotCells s b) 0 (64 + imageBody s b)

/-- R80. The digest of an image. -/
def imageDigest (s : State) (b : Bool) : List Byte := sha256 (imageSigned s b)

/-! ## HSS signatures (R80; RFC 8554, PRESUMED, log 14) -/

/-- A number in n bytes, the most significant first. -/
def beBytes (n v : Nat) : List Byte := (leBytes n v).reverse

/-- A field of n bytes, the most significant first. -/
def beField (bs : List Byte) (off n : Nat) : Nat := leNat (((bs.drop off).take n).reverse)

/-- One 4-bit coefficient of a string of bytes. -/
def otsCoef (bs : List Byte) (i : Nat) : Nat :=
  let b := (bs.getD (i / 2) 0).toNat
  if i % 2 = 0 then b / 16 else b % 16

/-- A chain of the one-time signature continued from step a to its end, 15. -/
def otsChain (pre : List Byte) (i : Nat) : Nat → Nat → List Byte → List Byte
  | 0, _, x => x
  | fuel + 1, a, x => if a < 15 then otsChain pre i fuel (a + 1) (sha256 (pre ++ beBytes 2 i ++ beBytes 1 a ++ x)) else x

/-- The one-time public key that a signature of LMOTS_SHA256_N32_W4 makes of a message: `sig` from its type field. -/
def otsKey (ident : List Byte) (q : Nat) (sig msg : List Byte) : List Byte :=
  let pre := ident ++ beBytes 4 q
  let h := sha256 (pre ++ beBytes 2 0x8181 ++ (sig.drop 4).take 32 ++ msg)
  let sum := ((List.range 64).map fun i => 15 - otsCoef h i).sum * 16
  let digits := h ++ beBytes 2 sum
  let ends := (List.range 67).flatMap fun i => otsChain pre i 15 (otsCoef digits i) ((sig.drop (36 + 32 * i)).take 32)
  sha256 (pre ++ beBytes 2 0x8080 ++ ends)

/-- The root that a path leads to from a node of the tree. -/
def lmsRoot (ident path : List Byte) : Nat → Nat → Nat → List Byte → List Byte
  | 0, _, _, x => x
  | fuel + 1, i, node, x =>
    let p := (path.drop (32 * i)).take 32
    let pre := ident ++ beBytes 4 (node / 2) ++ beBytes 2 0x8383
    lmsRoot ident path fuel (i + 1) (node / 2) (sha256 (if node % 2 = 1 then pre ++ p ++ x else pre ++ x ++ p))

/-- Does an LMS_SHA256_M32_H10 signature of 2,508 bytes verify under a public key of 56 bytes? -/
def lmsVerifies (key sig msg : List Byte) : Bool :=
  let ident := (key.drop 8).take 16
  let q := beField sig 0 4
  let ots := sig.drop 4
  let leaf := sha256 (ident ++ beBytes 4 (1024 + q) ++ beBytes 2 0x8282 ++ otsKey ident q ots msg)
  decide (key.length = 56 ∧ sig.length = 2508 ∧ beField key 0 4 = 6 ∧ beField key 4 4 = 3 ∧ q < 1024 ∧
      beField ots 0 4 = 3 ∧ beField sig 2184 4 = 6) &&
    decide (lmsRoot ident (sig.drop 2188) 10 0 (1024 + q) leaf = (key.drop 24).take 32)

/-- R80. Does a two-level HSS signature of 5,076 bytes verify under a public key of 60 bytes? -/
def hssVerifies (key sig msg : List Byte) : Bool :=
  let upper := (sig.drop 4).take 2508
  let pub := (sig.drop 2512).take 56
  decide (sig.length = 5076 ∧ beField key 0 4 = 2 ∧ beField sig 0 4 = 1) && lmsVerifies (key.drop 4) upper pub &&
    lmsVerifies pub (sig.drop 2568) msg

/-! ## The checks of the boot ROM (R81) -/

/-- R81. Does the image of a slot pass: its signature, MAGIC, and SVN at least the floor? -/
def imagePasses (s : State) (b : Bool) : Bool :=
  let len := imageBody s b
  let sig := (64 + len + 3) / 4 * 4
  decide (imageField s b 0 4 = 0x4657494D ∧ s.nv.svnFloor ≤ imageSvn s b ∧ len % 4 = 0 ∧ sig + 5076 ≤ slotSize) &&
    hssVerifies Config.imageKey (cellBytes (slotCells s b) sig 5076) (imageSigned s b)

/-- R81. Phase 0: the image of `ACTIVE`, or the other's, which becomes `ACTIVE`; none if both fail. -/
def bootImage (s : State) : Option State :=
  if imagePasses s s.nv.activeB then some s
  else if imagePasses s (!s.nv.activeB) then some { s with nv := { s.nv with activeB := !s.nv.activeB } }
  else none

end Sys2Proof.Machine
end

