-- ==== Sys2Proof/Machine/Update.lean ====
section
/-! DEFINITION. The live update of the scheduler firmware (R82, R418, R419, R421), and writes of the image slots (R82). -/

namespace Sys2Proof.Machine

/-! ## Helpers -/

/-- An answer REG_DONE of the management conversation (R69). -/
def regDone (s : State) (status : Nat) : State := hostReply s 0 0x13 [BitVec.ofNat 8 status]

/-- The update unit changed. -/
def modFwu (s : State) (f : FwuSt → FwuSt) : State := { s with fwu := f s.fwu }

/-- Does a thread run in the half of slot A, or of slot B, of a lengthsman core? -/
def inHalf (b : Bool) (t : ThreadId) : Bool := t.core.isLengthsman && decide ((8 ≤ t.slot) = (b = true))

/-- R419. The old image's update thread: slot 0 of the old half of die 0 lengthsman core 0. -/
def oldThread (s : State) : ThreadId := ⟨lengthsman 0 0, if s.fwu.tgt then 0 else 8⟩

/-- R418. The execution area of an image. -/
def execArea (b : Bool) : Nat := if b then 0xFB0800000 else 0xFB0000000

/-- R418. The handover area, and its length. -/
def handArea : Nat := 0xFBFF00000
/-- 1 MiB. -/
def handSize : Nat := 0x100000

/-- A message-queue entry of the update unit: MKIND, the slot, and byte 3. -/
def fwuEntry (kind slot b3 : Nat) : MqEntry := ⟨BitVec.ofNat 64 (kind + 256 * slot + 2 ^ 24 * b3), 0⟩

/-- The queues of every creel with a team are examined. -/
def wakeAll (s : State) : State :=
  ((s.teams.filter fun (_, t) => resident t).map (·.1)).foldl wakeTeam s

/-- What was held passes to the image that is active now. -/
def passHeld (s : State) : State := { s with inputs := s.inputs ++ s.heldByUpdate, heldByUpdate := [] }

/-! ## Rollback and commit (phases 5 and 6) -/

/-- The deadlines of an update that is over. -/
def dropDeadlines (s : State) : State :=
  cancel s fun e => match e with
    | .fwuHandoverTimeout _ => true
    | .fwuHeartbeatTimeout _ => true
    | .fwuQuiesced => true
    | _ => false

/-- R419, phase 6. Rollback: the new half is stopped, the old update thread is told, what was held goes on, dispatch
resumes, and REG_DONE answers 0x05. -/
def fwuRollback (s : State) : State :=
  let s := stopThreads (dropDeadlines s) fun t _ => inHalf s.fwu.tgt t
  let s := enqueueEntry s (lengthsman 0 0) (fwuEntry 3 (oldThread s).slot 5)
  let s := modFwu s fun f => { f with phase := 0, result := 5 }
  regDone (count (retryPlacements (wakeAll (passHeld s))) 0 51) 5

/-- R82 step 5, R419, phase 5. Commit: one non-volatile write, the old half is stopped, what was held goes on, dispatch
resumes, REG_DONE answers 0x00 and notice 0x04 follows; its detail is the status (PRESUMED, log 15). -/
def fwuCommit (s : State) : State :=
  let b := s.fwu.tgt
  let s := { s with nv := { s.nv with activeB := b, svnFloor := imageSvn s b } }
  let s := stopThreads (dropDeadlines s) fun t _ => inHalf (!b) t
  let s := modFwu s fun f => { f with phase := 0, result := 0 }
  notify (regDone (retryPlacements (wakeAll (passHeld s))) 0) 4 [0]

/-! ## The phases (R419) -/

/-- R28, R419. FW_ACTIVATE: the inactive image is verified, and its body copied to its execution area, or the update is
rejected. Served in IDLE and RUN. -/
def execFwActivate (s : State) : Out :=
  .next (if !decide (s.power.state = .idle ∨ s.power.state = .run) then regDone s 6
    else if s.power.saved then regDone s 6
    else if s.fwu.phase ≠ 0 then regDone s 4
    else
      let b := !s.nv.activeB
      let s := modFwu s fun f => { f with updn := f.updn + 1, tgt := b }
      if !imagePasses s b then regDone (modFwu s fun f => { f with result := 4 }) 4
      else
        let s := writeBytes s (execArea b) (cellBytes (slotCells s b) 64 (imageBody s b)) false
        (modFwu s.drawn fun f => { f with phase := 1 }).after (1 + Config.delay s.free) (.event .fwuQuiesced))

/-- R419. The image is verified: dispatch and stealing stop, phase 2; once every dispatch decided has entered the rotation,
phase 3: the old update thread is asked for the handover structure. -/
def execFwuQuiesced (s : State) : Out :=
  .next (if s.fwu.phase = 1 then (modFwu s fun f => { f with phase := 2 }).after 1 (.event .fwuQuiesced)
    else if s.fwu.phase ≠ 2 then s
    else
      let deciding := s.agenda.any fun d => match d.act with
        | .event (.dispatchEnterRotation t) => t.core.isCompute
        | _ => false
      if deciding then s.after 1 (.event .fwuQuiesced)
      else
        let s := enqueueEntry s (lengthsman 0 0) (fwuEntry 2 (oldThread s).slot 0)
        (modFwu s fun f => { f with phase := 3 }).after 6000000 (.event (.fwuHandoverTimeout s.fwu.updn.toNat)))

/-- R419, phase 4. The new image's first thread. -/
def startImage (s : State) : State :=
  let b := s.fwu.tgt
  let t : ThreadId := ⟨lengthsman 0 0, if b then 8 else 0⟩
  let pc := (BitVec.ofNat 57 (execArea b + imageEntry s b)) &&& ~~~3#57
  match slotFree s t, freeRange s t.core 32 with
  | true, some base => startThread s t { Thread.blank with
      pc := pc, status := 0x10000#64, base := base, nregs := 32, started := true, dstamp := s.cyc, estamp := s.cyc } []
  | _, _ => s

/-- R419. DONE of the old update thread: the digest of the body goes into the header, the new image starts, and its time
for a heartbeat begins. A body that does not fit its area is digested as far as the area goes (PRESUMED, log 14). -/
def execFwuSigDone (t : ThreadId) (s : State) : Out :=
  .next (if s.fwu.phase ≠ 3 ∨ t ≠ oldThread s then s
    else
      let len := min (fieldAt (readBytes s (handArea + 4) 4) 0 4) (handSize - 40)
      let s := writeBytes s (handArea + 8) (sha256 (readBytes s (handArea + 40) len)) false
      let s := cancel s fun e => match e with
        | .fwuHandoverTimeout _ => true
        | _ => false
      let s := modFwu s fun f => { f with phase := 4, t0 := BitVec.ofNat 64 s.cyc }
      (startImage s).after 60000001 (.event (.fwuHeartbeatTimeout s.fwu.updn.toNat)))

/-- R419. FAIL of the old update thread: rollback at once. -/
def execFwuSigFail (t : ThreadId) (s : State) : Out :=
  .next (if s.fwu.phase ≠ 3 ∨ t ≠ oldThread s then s else fwuRollback s)

/-- R419. Neither DONE nor FAIL in time. -/
def execFwuHandoverTimeout (upd : Nat) (s : State) : Out :=
  .next (if s.fwu.phase = 3 ∧ s.fwu.updn.toNat = upd then fwuRollback s else s)

/-- R419, R421. A write of FW_HB: the first nonzero one of the new half in time commits the update. -/
def execFwHbWrite (t : ThreadId) (seq : BitVec 16) (s : State) : Out :=
  .next (if s.fwu.phase = 4 ∧ seq ≠ 0 ∧ inHalf s.fwu.tgt t = true ∧ s.cyc ≤ s.fwu.t0.toNat + 60000000 then fwuCommit s
    else s)

/-- R82, R419. No heartbeat in time. -/
def execFwuHeartbeatTimeout (upd : Nat) (s : State) : Out :=
  .next (if s.fwu.phase = 4 ∧ s.fwu.updn.toNat = upd then fwuRollback s else s)

/-! ## FW_WRITE (R28, R69, R82) -/

/-- Bytes of a slot written. -/
def putSlot (s : State) (b : Bool) (off : Nat) (data : List Byte) : State :=
  { s with nv := if b then { s.nv with slotB := putBytes s.nv.slotB off data }
    else { s.nv with slotA := putBytes s.nv.slotA off data } }

/-- R28, R69, R82. FW_WRITE: into the inactive slot, or into either while `CODE` is 1; 0x03 for the active slot and for a slot,
offset or length out of range, a length of no byte or of more than 4,032 among them (DESIGN CHOICE, log 84: R82 gives such a length no
answer); not served in MOORED. -/
def execFwWrite (slot : Byte) (off : Nat) (data : List Byte) (s : State) : Out :=
  let b := decide (slot = 1)
  let open_ := decide (b ≠ s.nv.activeB) || decide (s.power.state = .standby ∧ s.power.code = 1)
  .next (if s.power.state = .moored ∨ s.power.saved = true then regDone s 6
    else if 1 < slot.toNat ∨ data.isEmpty = true ∨ 4032 < data.length ∨ slotSize < off + data.length ∨ open_ = false then
      regDone s 3
    else regDone (putSlot s b off data) 0)

end Sys2Proof.Machine
end

