-- ==== Sys2Proof/Machine/Host.lean ====
section
/-! DEFINITION. The host's requests: registers (R28, R69, R72), launches (R73 to R75, R89, R93), attestation (R83 to R85). -/

namespace Sys2Proof.Machine

/-! ## Registers (R28, R69, R72) -/

/-- The die and offset that a device register address names; none beyond the eight blocks. -/
def regPlace (a : Word) : Option (Nat × Nat) :=
  if a.toNat < 2 ^ 31 then some (a.toNat / 2 ^ 28, a.toNat % 2 ^ 28) else none

/-- Is a register of the power block (R29)? -/
def powerReg (die off : Nat) : Bool := decide (die = 0 ∧ off < 0x800)

/-- Is it of an Ethernet configuration block (R44)? -/
def ethReg (off : Nat) : Bool := decide (0x80000 ≤ off ∧ off < 0x80200 ∨ off = 0x81000)

/-- R21, R28. Is an access served in the state the device is in? From step 5 of an entry to MOORED on the responder serves. -/
def regServed (s : State) (die off : Nat) (write : Bool) : Bool :=
  match s.power.state with
  | .off => false
  | .standby => powerReg die off || ethReg off
  | .moored => powerReg die off && (!write || decide (off = 0))
  | _ => if s.power.saved then powerReg die off && (!write || decide (off = 0)) else true

/-- R72, R418. Registers that die 0 alone has, whose offsets read zero and ignore writes in the other dies (DEDUCED, log 28). -/
def elsewhere (die off : Nat) : Bool :=
  decide (die ≠ 0 ∧ off % 8 = 0 ∧ (off < 0x800 ∨ 0x70000 ≤ off ∧ off < 0x70028))

/-- An answer REG_DATA. -/
def regData (s : State) (status : Nat) (v : Word) : State :=
  hostReply s 0 0x11 (BitVec.ofNat 8 status :: leBytes 8 v.toNat)

/-- R28, R69, R72. REG_READ. -/
def execRegRead (addr : Word) (s : State) : Out :=
  .next (match regPlace addr with
    | none => regData s (if s.power.state = .idle ∨ s.power.state = .run then 1 else 6) 0
    | some (die, off) =>
      if !regServed s die off false then regData s 6 0
      else if elsewhere die off then regData s 0 0
      else match dieRead s die off with
      | some v => regData s 0 v
      | none => regData s 1 0)

/-- R28, R69, R72. REG_WRITE; the write is performed at the end of the cycle. -/
def execRegWrite (addr v : Word) (s : State) : Out :=
  .next (match regPlace addr with
    | none => regDone s (if s.power.state = .idle ∨ s.power.state = .run then 1 else 6)
    | some (die, off) =>
      if !regServed s die off true then regDone s 6
      else if elsewhere die off then regDone s 0
      else if (dieRead s die off).isNone then regDone s 1
      else if !dieWritable off then regDone s 2
      else regDone (dieWrite s die off v none) 0)

/-! ## The checks of a launch record (R73 to R75, R89) -/

/-- Are the n bytes at an offset zero? -/
def zerosAt (r : List Byte) (o n : Nat) : Bool := decide (fieldAt r o n = 0)

/-- R74. Is a footprint block in order: reserved bytes zero, SLOTS 1 to 16? -/
def footOk (r : List Byte) (o : Nat) : Bool :=
  zerosAt r (o + 11) 5 && decide (1 ≤ fieldAt r (o + 10) 1 ∧ fieldAt r (o + 10) 1 ≤ 16)

/-- R74. Are a level entry's reserved bytes zero, its flags, variants and slots in range? -/
def levelOk (r : List Byte) (i : Nat) : Bool :=
  let o := lvOff i
  zerosAt r (o + 7) 1 && zerosAt r (o + 0x14) 4 && zerosAt r (o + 0x70) 16 && decide ((lvFlags r i).toNat < 16) &&
    decide (lvVariants r i ≤ 3) && footOk r (o + 0x18) && (List.range 3).all fun v =>
      if v < lvVariants r i then footOk r (o + 0x28 + 24 * v) else zerosAt r (o + 0x28 + 24 * v) 24

/-- R73, R75, R89, status 0x01. A field outside its range (LEVELS, PRIO, VARIANTS, SLOTS) is answered so too (DESIGN CHOICE, log 82:
no check of R75 names it). -/
def recordOk (r : List Byte) : Bool :=
  let n := lnLevels r
  decide (fieldAt r 0 4 = 0x4C41554E ∧ fieldAt r 4 2 = 1 ∧ 1 ≤ n ∧ n ≤ 8 ∧ lnPrio r ≤ 3 ∧ fieldAt r 8 4 = 64 + 128 * n ∧
      r.length = 64 + 128 * n) &&
    zerosAt r 0x0C 4 && zerosAt r 0x1A 6 && zerosAt r 0x3E 2 && (List.range n).all (levelOk r)

/-- R75, R88, R89, status 0x02. -/
def domainsOk (r : List Byte) : Bool :=
  (List.range (lnLevels r)).all fun i =>
    decide (lvDomain r i ≤ 6 ∧ (i = 0 ∨ lvDomain r i ≤ lvDomain r (i - 1))) &&
      (if lvDomain r i = 3 then decide (1 ≤ lvW r i ∧ lvW r i ≤ (lvParent r i).1 ∧ 1 ≤ lvH r i ∧ lvH r i ≤ (lvParent r i).2)
        else decide (lvW r i = 0 ∧ lvH r i = 0)) &&
      !decide (lvDomain r i = 6 ∧ lnFleet r = 0)

/-- R75, status 0x03. -/
def scopesOk (r : List Byte) : Bool :=
  (List.range (lnLevels r)).all fun i => decide (lvScope r i ≤ 6 ∧ (i = 0 ∨ lvScope r i ≤ lvScope r (i - 1)))

/-- Is a footprint no larger than another, field by field? -/
def footLe (a b : Foot) : Bool :=
  decide (a.sp ≤ b.sp ∧ a.ls ≤ b.ls ∧ a.reg ≤ b.reg ∧ a.ic ≤ b.ic ∧ a.slots ≤ b.slots)

/-- R75, status 0x04. -/
def variantsOk (r : List Byte) : Bool :=
  (List.range (lnLevels r)).all fun i => (List.range (lvVariants r i)).all fun v => footLe (lvFoot r i (v + 1)) (lvFoot r i v)

/-- R90. The corners of a level's nominal tiles on the mesh. -/
def tileCorners (r : List Byte) : Nat → List (Nat × Nat)
  | 0 => (List.range (lvTiles r 0)).map (tilePos r 0)
  | i + 1 => (tileCorners r i).flatMap fun (px, py) => (List.range (lvTiles r (i + 1))).map fun j =>
      (px + (tilePos r (i + 1) j).1, py + (tilePos r (i + 1) j).2)

/-- R75, status 0x05. Does every level fit some placement on the capacity registers, whatever is busy or masked? -/
def levelsFit (s : State) (r : List Byte) : Bool :=
  (List.range (lnLevels r)).all fun i => (List.range (1 + lvVariants r i)).any fun f =>
    (tileCorners r i).any fun (x, y) => fitsRect s (lvFoot r i f) (lvDomain r i) x y (lvRect r i).1 (lvRect r i).2

/-- The lowest free launch slot (R112). -/
def freeLaunch (s : State) : Option Nat := (List.range 64).find? fun n => (s.launches.find n).isNone

/-- R75. The status of the checks but the last, which needs the pool: the first that fails, or 0. -/
def launchStatus (s : State) (r : List Byte) : Nat :=
  if !recordOk r then 1
  else if !domainsOk r then 2
  else if !scopesOk r then 3
  else if !variantsOk r then 4
  else if !levelsFit s r then 5
  else if !(decide (s.power.state = .idle ∨ s.power.state = .run) && s.power.ready) then 6
  else if (freeLaunch s).isNone then 7
  else 0

/-- An answer LAUNCH_ACK. -/
def launchAck (s : State) (status num : Nat) : State :=
  hostReply s 2 0x21 (BitVec.ofNat 8 status :: leBytes 4 num)

/-- R75, R93. A launch is accepted in a slot: its initial packets are addressed to their teams, malformed ones counted, and the
teams that come to be are tried. One without a team is done at once. -/
def acceptLaunch (s : State) (r : List Byte) (n : Nat) (ps : List PendPkt) (bad : Nat) : State :=
  let num := (s.serial * 64 + n) % 2 ^ 32
  let s := { s with
    launches := s.launches.put n ⟨num, r, s.cyc, 0, 0, []⟩, serial := s.serial + 1, pending := s.pending ++ ps }
  let s := launchAck (countN s 0 9 bad) 0 num
  let s := ps.foldl (fun s p => ensureTeam s 9 p.key) s
  if s.teams.any fun (k, _) => decide (k.lslot = n) then retryTeams s fun k => decide (k.lslot = n) else launchDone s n

/-- R75, R93. Units of the initial packets of teams that a launch, accepted, would leave without a place. -/
def unplacedUnits (s : State) (n : Nat) : Nat :=
  let s := (List.range 8).foldl (fun s i =>
    (placeOrder (s.teams.filter fun (k, _) => decide (k.lslot = n ∧ k.level = i))).foldl (fun s (k, _) =>
      match execTeamPlacement k s with
      | .next s => s
      | _ => s) s) s
  let placed (k : TeamKey) : Bool := match s.teams.find k with
    | some t => decide (t.phase = .placed)
    | none => false
  ((s.pending.filter fun p => decide (p.key.lslot = n) && !placed p.key).map fun p => pkLen p.bytes).sum

/-- R73 to R75, R82, R89, R93. LAUNCH; held while an update runs (R421). -/
def execLaunch (rec : List Byte) (s : State) : Out :=
  .next (if updateHolds s then holdEvent s (.launch rec)
    else
      let refuse (s : State) (n : Nat) : State := launchAck (count s 0 48) n 0
      match launchStatus s rec, freeLaunch s with
      | 0, some n =>
        let (ps, bad) := initialPackets s rec n
        let pool := Config.poolHas s.free
        let full := decide (pendLimit < (ps.map fun p => pkLen p.bytes).sum) &&
          decide (pendLimit < unplacedUnits (acceptLaunch s.drawn rec n ps bad) n)
        if !pool || full then refuse s.drawn 8
        else acceptLaunch s.drawn rec n ps bad
      | c, _ => refuse s c)

/-! ## Attestation (R83 to R85; SPDM 1.3 as published, PRESUMED, log 15) -/

/-- A response of the attestation conversation. -/
def spdmReply (s : State) (bs : List Byte) : State := hostReply s 4 0x41 bs

/-- ERROR with a code and data. -/
def spdmError (s : State) (code data : Byte) : State := spdmReply s [0x13, 0x7F, code, data]

/-- R83. GET_VERSION: version 1.3 only. -/
def execGetVersion (s : State) : Out := .next (spdmReply s [0x10, 0x04, 0, 0, 0, 1, 0, 0x13])

/-- R83. GET_CAPABILITIES: CERT_CAP, CHAL_CAP, MEAS_CAP with signatures. The time exponent is free; a message carries at most
4,136 bytes. -/
def execGetCapabilities (s : State) : Out :=
  .next (spdmReply s.drawn ([0x13, 0x61, 0, 0, 0, Config.freeByte s.free, 0, 0] ++ leBytes 4 0x16 ++ leBytes 4 4136 ++ leBytes 4 4136))

/-- R83. NEGOTIATE_ALGORITHMS: SHA-256, and the extended algorithm for HSS/LMS of the IANA registry. -/
def execNegotiateAlgorithms (s : State) : Out :=
  .next (spdmReply s ([0x13, 0x63, 0, 0] ++ leBytes 2 40 ++ [1, 0] ++ leBytes 4 2 ++ leBytes 4 0 ++ leBytes 4 1
    ++ List.replicate 12 0 ++ [1, 0, 0, 0] ++ [4, 0] ++ leBytes 2 Config.hssAlgorithm.toNat))

/-- R83. GET_DIGESTS: the digest of slot 0's chain. -/
def execGetDigests (s : State) : Out := .next (spdmReply s ([0x13, 0x01, 1, 1] ++ sha256 Config.certChain))

/-- R83. GET_CERTIFICATE: a portion of slot 0's chain. -/
def execGetCertificate (slot off len : Nat) (s : State) : Out :=
  let c := Config.certChain
  .next (if slot % 16 ≠ 0 ∨ c.length ≤ off then spdmError s 1 0
    else
      let n := min (min len (c.length - off)) 4128
      spdmReply s ([0x13, 0x02, 0, 0] ++ leBytes 2 n ++ leBytes 2 (c.length - off - n) ++ (c.drop off).take n))

/-- R85. A response signed with the next leaf, the counter being advanced first; ERROR Unspecified once the leaves are spent. -/
def spdmSigned (s : State) (request response : List Byte) : State :=
  let n := s.nv.leaf
  if 1048576 ≤ n then spdmError (count s 0 49) 5 0
  else spdmReply { s with nv := { s.nv with leaf := n + 1 } } (response ++ Config.identitySign n (request ++ response))

/-- A nonce of the device: 32 free bytes. -/
def freeNonce (s : State) : State × List Byte :=
  ({ s with free := s.free + 32 }, (List.range 32).map fun i => Config.freeByte (s.free + i))

/-- R85. CHALLENGE: the requester's nonce of 32 bytes and, after it, its context, which the response returns. -/
def execChallenge (nonce : List Byte) (s : State) : Out :=
  let (s, n) := freeNonce s
  .next (spdmSigned s ([0x13, 0x83, 0, 0] ++ nonce)
    ([0x13, 0x03, 0, 1] ++ sha256 Config.certChain ++ n ++ leBytes 2 0 ++ nonce.drop 32))

/-- R84. The value type and value of a measurement. -/
def measured (s : State) (i : Nat) : Byte × List Byte :=
  match i with
  | 1 => (0, sha256 Config.bootRom)
  | 2 => (1, imageDigest s s.nv.activeB)
  | 3 => (1, if imagePasses s (!s.nv.activeB) then imageDigest s (!s.nv.activeB) else List.replicate 32 0)
  | 4 => (0x83, (if s.nv.activeB then 1 else 0) :: leBytes 4 s.nv.svnFloor)
  | _ => (3, sha256 Config.hostFlights)

/-- R84. A DMTF measurement block. -/
def measurementBlock (s : State) (i : Nat) : List Byte :=
  let (ty, v) := measured s i
  [BitVec.ofNat 8 i, 1] ++ leBytes 2 (3 + v.length) ++ [ty] ++ leBytes 2 v.length ++ v

/-- R84, R85. GET_MEASUREMENTS: the number of blocks, one block, or all; signed when asked. -/
def execGetMeasurements (index : Nat) (sign : Bool) (nonce : List Byte) (s : State) : Out :=
  .next (if 5 < index ∧ index ≠ 255 then spdmError s 1 0
    else
      let is := if index = 0 then [] else if index = 255 then [1, 2, 3, 4, 5] else [index]
      let record := is.flatMap (measurementBlock s)
      let (s, n) := freeNonce s
      let body : List Byte := [0x13, 0x60, if index = 0 then 5 else 0, 0, BitVec.ofNat 8 is.length] ++ leBytes 3 record.length
        ++ record ++ n ++ leBytes 2 0 ++ nonce.drop 32
      if sign then spdmSigned s ([0x13, 0xE0, 1, BitVec.ofNat 8 index] ++ nonce.take 32 ++ [0] ++ nonce.drop 32) body
      else spdmReply s body)

/-- R83. Any other request: ERROR UnsupportedRequest. -/
def execSpdmUnsupported (code : Byte) (s : State) : Out := .next (spdmError s 7 code)

end Sys2Proof.Machine
end

