-- ==== Sys2Proof/Machine/Links.lean ====
section
/-! DEFINITION. Die-to-die links (R38, R39), the Ethernet ports (R40 to R44), what enters the module through them (R62, R63,
R89, R196), and the module's number (R196). -/

namespace Sys2Proof.Machine

/-! ## Die-to-die links (R30, R38, R39) -/

/-- The lower-numbered die of an edge, whose counters count its links (DEDUCED, log 27). Edges 0 to 5 lie between horizontal
neighbours, 3 * row + column; edges 6 to 9 between vertical ones. -/
def edgeDie (e : Nat) : Nat := if e < 6 then 4 * (e / 3) + e % 3 else e - 6

/-- An edge. -/
def edgeOf (s : State) (e : Nat) : EdgeSt := s.edges.get e EdgeSt.initial

/-- Is there such a link? -/
def linkExists (e l : Nat) : Bool := decide (e < 10 ∧ l < 34)

/-- R38. A link is retrained: counted. Its traffic is held meanwhile. -/
def retrain (s : State) (edge link : Nat) : State :=
  let e := edgeOf s edge
  if e.training.contains link || e.failed.contains link then s
  else count { s with edges := s.edges.put edge { e with training := e.training ++ [link], replays := e.replays.del link } }
    (edgeDie edge) 2

/-- R38. A flit is replayed: counted. The eighth replay of a link to fail after the others retrains it; whether a replay that
follows another one tells of the failure of that other one is free. -/
def execDieLinkReplay (edge link : Nat) (s : State) : Out :=
  let e := edgeOf s edge
  let n := if Config.replayFails s.free then e.replays.get link 0 + 1 else 1
  .next (if !linkExists edge link then s
    else
      let s := count { s.drawn with edges := s.edges.put edge { e with replays := e.replays.put link n } } (edgeDie edge) 1
      if 8 ≤ n then retrain s edge link else s)

/-- R38. A link is retrained. -/
def execDieLinkRetrain (edge link : Nat) (s : State) : Out :=
  .next (if linkExists edge link then retrain s edge link else s)

/-- The router at which an address is reached from a node of column x: its own, or the column of a controller's row. -/
def nodeRouter (a : BitVec 32) (x : Nat) : Nat × Nat :=
  let c := addrCore a
  if addrNode a = 12 ∨ addrNode a = 13 then (c.x / 32 * 32 + x % 32, c.y) else (c.x, c.y)

/-- R39. The routes between a node and an endpoint's peer, or the port behind which that stands: does the one to the peer, and the
one from it, cross an edge? -/
def peerRoutes (s : State) (e : Nat) (c : CoreId) (peer : BitVec 32) : Bool × Bool :=
  let far := portCore ((fleetPort s (addrMod peer)).toNat % 16)
  let p := if addrMod peer = modSelf s then nodeRouter peer c.x else (far.x, far.y)
  (routeCrosses e (c.x, c.y) p, routeCrosses e p (c.x, c.y))

/-- R39, R216. An edge fails in service: endpoints that hold a conversation whose routes cross it close at their states, with a
notice where the route to the peer remains; so do the conversations of controllers and network interfaces; the edge is
reported. Toward a controller the routes are those of R35, and endpoints that have no peer yet have no route. -/
def edgeDown (s : State) (e : Nat) : State :=
  let talks (p : Endpoint) : Bool :=
    decide (p.est = .opened ∨ p.est = .delegin) || (decide (p.est = .delegated) && !p.fwdEnd)
  let hit := s.eps.filter fun ((c, _), p) => talks p && ((peerRoutes s e c p.peer).1 || (peerRoutes s e c p.peer).2)
  let s := hit.foldl (fun s ((c, n), p) =>
    if (peerRoutes s e c p.peer).1 then modEp (closeEp s c n 4 none) c n fun q => { q with ccause := 6 }
    else closeEp s c n 6 none) s
  let cut (v : Conv) : Bool :=
    let c := nodeOf s v.client
    ((peerRoutes s e c v.server).1 || (peerRoutes s e c v.server).2)
  let s := (s.convs.filter cut).foldl (fun s v => count s (addrDie v.server) 82) { s with convs := s.convs.filter fun v => !cut v }
  notify s 5 [BitVec.ofNat 8 e]

/-- How far apart two links are. -/
def linkGap (a b : Nat) : Nat := max a b - min a b

/-- R38. The working link nearest to another, the lower-numbered on a tie; a spare works in the place of a link alone. -/
def nearestLink (e : EdgeSt) (l : Nat) : Option Nat :=
  let works := (List.range 34).filter fun k => !e.failed.contains k
  works.foldl (fun best k => match best with
    | none => some k
    | some b => if linkGap l k < linkGap l b then some k else some b) none

/-- R38. A link whose carrier has failed is carried by a spare, if one remains, or folded onto the nearest working link: counted. -/
def carryLink (edge : Nat) (s : State) (l : Nat) : State :=
  let e := edgeOf s edge
  let spare := [32, 33].find? fun k => !e.failed.contains k && !(e.carriers.any fun x => decide (x.2 = k))
  match spare, nearestLink e l with
  | some k, _ => { s with edges := s.edges.put edge { e with carriers := e.carriers.put l k } }
  | none, some k => count { s with edges := s.edges.put edge { e with carriers := e.carriers.put l k } } (edgeDie edge) 3
  | none, none => s

/-- R38, R39. A retrain ends. What a link that failed it carried is carried by a spare or folded onto a working link; with all 34
failed the edge is down. -/
def execDieLinkRetrainEnd (edge link : Nat) (ok : Bool) (s : State) : Out :=
  let e := edgeOf s edge
  .next (if !e.training.contains link then s
    else
      let e := { e with training := e.training.filter (· ≠ link) }
      if ok then { s with edges := s.edges.put edge e }
      else
        let e := { e with failed := e.failed ++ [link] }
        let orphans := (List.range 32).filter fun l => decide (e.carriers.get l l = link)
        let s := orphans.foldl (carryLink edge) { s with edges := s.edges.put edge e }
        if e.failed.length = 34 then edgeDown s edge else s)

/-! ## Towline packets received (R62, R63) -/

/-- R196. A message from its bytes as it travels. -/
def parseMsg (b : List Byte) : Msg :=
  ⟨b.getD 0 0, fieldAt b 1 1 % 128, decide (128 ≤ fieldAt b 1 1), fieldAt b 2 2, BitVec.ofNat 32 (fieldAt b 4 4),
    BitVec.ofNat 32 (fieldAt b 8 4), BitVec.ofNat 32 (fieldAt b 12 4), b.getD 16 0, b.getD 17 0,
    BitVec.ofNat 48 (fieldAt b 18 6), (b.drop 24).take (fieldAt b 2 2)⟩

/-- R63. Is a packet well-formed? -/
def packetValid (b : List Byte) : Bool :=
  let len := fieldAt b 12 2
  let kind := fieldAt b 1 1
  decide (16 ≤ b.length ∧ fieldAt b 0 1 = 1 ∧ 1 ≤ kind ∧ kind ≤ 6 ∧ fieldAt b 2 1 < 8 ∧ fieldAt b 3 1 < 2 ∧
      fieldAt b 14 2 = 0 ∧ b.length = 16 + len) &&
    (if kind = 1 then decide (64 ≤ len ∧ len ≤ 4160 ∧ len % 64 = 0) else decide (len = 0))

/-- R43, R62, R64 to R66. A packet of a session at its port: a CE mark that it bears is passed to Towline, unless the packet leaves
no state. -/
def towPacketIn (s : State) (k : Nat) (ce : Bool) (b : List Byte) : State :=
  let kind := fieldAt b 1 1
  let ack := BitVec.ofNat 32 (fieldAt b 8 4)
  let ece := decide (fieldAt b 3 1 = 1)
  let m := parseMsg (b.drop 16)
  let marks := ce && sessionOpen s k && (decide (kind = 1) && !mooredRefuses s k m || decide (kind = 2))
  let s := if marks then modSession s k fun n => { n with ece := true } else s
  match kind with
  | 1 => soon s (.towlineData k (BitVec.ofNat 32 (fieldAt b 4 4)) ack ece m)
  | 2 => soon s (.towlineAck k ack ece)
  | 3 => soon s (.towlineOpen k)
  | 5 => soon s (.towlineReset k)
  | 6 => soon s (.towlineMooredReceive k)
  | _ => s

/-- R62, R196. The session of a packet: on the host port the one its SESSION byte names; on another port one of the module that the
fleet table names with this port and its source address, where there is one. -/
def sessionAt (s : State) (port : Nat) (src : BitVec 128) (n : Nat) : Option Nat :=
  if port = s.hostPort then some n
  else ((List.range 256).find? fun m =>
    decide ((fleetPort s (BitVec.ofNat 8 m)).toNat = port ∧ fleetIp s (BitVec.ofNat 8 m) = src)).map fun m => moduleSession (BitVec.ofNat 8 m) n

/-! ## Frames (R41 to R43) -/

/-- R43, R44. Is this an IPv4, or IPv6, address that a port answers at? -/
def ownIp4 (s : State) (port : Nat) (ip : BitVec 32) : Bool :=
  (ethCfg (framesSee s port) port).getLsbD 0 && decide ((ethRead (framesSee s port) port 8).extractLsb' 0 32 = ip)
/-- The same of IPv6. -/
def ownIp6 (s : State) (port : Nat) (ip : BitVec 128) : Bool :=
  (ethCfg (framesSee s port) port).getLsbD 1 &&
    decide (ethRead (framesSee s port) port 0x18 ++ ethRead (framesSee s port) port 0x10 = ip)

/-- R62. A UDP datagram from an address and port, which its answer goes to. One of a module that the fleet table does not name is of
no session. -/
def datagramIn (s : State) (port : Nat) (src : BitVec 128) (sport udp : Nat) (ce : Bool) (b : List Byte) : State :=
  if udp ≠ (if port = s.hostPort then 19470 else 19471) then s
  else if !packetValid b then portCount s port 5
  else match sessionAt s port src (fieldAt b 2 1) with
  | none => s
  | some k => towPacketIn (modPort s port fun p => { p with peers := p.peers.put k (src, sport) }) k ce b

/-- R43. The content of a frame. -/
def bodyIn (s : State) (port : Nat) (ce : Bool) (b : FrameBody) : State :=
  match b with
  | .ipv4 src dst options fragment udp sport dport ok payload =>
    if !ownIp4 s port dst then s
    else if options || fragment then portCount s port 1
    else if !udp then s
    else if !ok then portCount s port 3
    else datagramIn s port (mapped4 src) sport dport ce payload
  | .ipv6 src dst ext udp sport dport zero ok payload =>
    if !ownIp6 s port dst then s
    else if ext then portCount s port 2
    else if !udp then s
    else if zero || !ok then portCount s port 3
    else datagramIn s port src sport dport ce payload
  | .icmp => portCount s port 4
  | .other => s

/-- Is a port in service? -/
def portUp (s : State) (port : Nat) : Bool :=
  decide (port < 16 ∧ s.power.state ≠ .off) && (ethPort s port).link

/-- R41 to R43. A frame: too long, or of a lossy priority whose share is full (R42, R77), or looked into. -/
def execEthFrameReceive (port : Nat) (f : EthFrame) (s : State) : Out :=
  let full := decide (portShare < (ethPort s port).held.getD f.pcp 0 + f.len)
  .next (if !portUp s port || decide (9216 < f.len) then s
    else if !lossless s port f.pcp && full then portCount s port 0
    else bodyIn s port f.ce f.body)

/-- Priorities of a port are no longer paused: what waited for priority 3 is sent. -/
def unpause (s : State) (port : Nat) (bits : Byte) : State :=
  let p := ethPort s port
  let s := modPort s port fun q => { q with paused := q.paused &&& ~~~bits, queued := if bits.getLsbD 3 then [] else q.queued }
  if bits.getLsbD 3 then p.queued.foldl (fun s d => s.emit (.datagram port d)) s else s

/-- R42. A received pause frame, obeyed for a lossless priority; when it ends, what waited is sent. -/
def execPfcPauseReceive (port prio : Nat) (pause : Bool) (s : State) : Out :=
  .next (if !portUp s port || decide (8 ≤ prio) || pause && !lossless s port prio then s
    else if pause then modPort s port fun p => { p with paused := p.paused ||| 1#8 <<< prio }
    else unpause s port (1#8 <<< prio))

/-- A port's MAC address (R44). -/
def macOf (s : State) (port : Nat) : Nat := (ethRead (framesSee s port) port 0).toNat

/-- R43. An ARP request is answered with the port's MAC address. -/
def execArpRequest (port : Nat) (ip : BitVec 32) (s : State) : Out :=
  .next (if portUp s port && ownIp4 s port ip then s.emit (.code "ARP reply" (port * 2 ^ 48 + macOf s port)) else s)

/-- R43. A neighbour solicitation is answered in the same way. -/
def execNeighbourSolicitation (port : Nat) (ip : BitVec 128) (s : State) : Out :=
  .next (if portUp s port && ownIp6 s port ip then
      s.emit (.code "neighbour advertisement" (port * 2 ^ 48 + macOf s port))
    else s)

/-- R43, R44. A link comes up: one gratuitous ARP, or for a port with IPv6 alone an unsolicited advertisement. -/
def execEthLinkUp (port : Nat) (s : State) : Out :=
  .next (if 16 ≤ port ∨ s.power.state = .off then s
    else
      let s := modPort s port fun p => { p with link := true }
      let v := port * 2 ^ 48 + macOf s port
      if (ethCfg (framesSee s port) port).getLsbD 0 then s.emit (.code "gratuitous ARP" v)
      else if (ethCfg (framesSee s port) port).getLsbD 1 then s.emit (.code "unsolicited advertisement" v)
      else s)

/-- R41, R44. A link goes down: what was kept for a paused priority is lost with it, as is what is sent meanwhile; Towline
retransmits (R65). -/
def execEthLinkDown (port : Nat) (s : State) : Out :=
  .next (if 16 ≤ port then s else modPort s port fun p => { p with link := false, paused := 0, queued := [] })

/-! ## Registers (R44, R196) -/

/-- R42, R44. A write of ETH_CFG; one that breaks the ranges of XON and XOFF is ignored. A priority that is lossy from the next
cycle on is no longer paused then. -/
def execEthCfgWrite (port : Nat) (v : Word) (s : State) : Out :=
  let xon := (v.extractLsb' 24 8).toNat
  let xoff := (v.extractLsb' 16 8).toNat
  .next (if port < 16 ∧ 1 ≤ xon ∧ xon ≤ 98 ∧ xon < xoff ∧ xoff ≤ 99 then
      (List.range 8).foldl (fun s q =>
        if (ethPort s port).paused.getLsbD q && !v.getLsbD (8 + q) then s.wallAfter 1 (.pfcPauseReceive port q false) else s)
        (ethPut s port 0x20 (v &&& 0x0000FFF0FFFFFF03#64))
    else s)

/-- R44. PERSIST: the host port's addresses and enables become their reset values. -/
def execEthHostPersist (s : State) : Out :=
  let p := s.hostPort
  .next { s with nv := { s.nv with
    ip4 := ethRead s p 8, ip6lo := ethRead s p 0x10, ip6hi := ethRead s p 0x18, enables := (ethCfg s p).extractLsb' 0 2 } }

/-- R40, R44. PORT: the host port of the next cold bring-up. -/
def execEthHostPortWrite (p : BitVec 4) (s : State) : Out := .next { s with nv := { s.nv with hostPort := p } }

/-- R196. MOD_SELF, unless a launch is accepted and not done. -/
def execModSelfWrite (m : Byte) (s : State) : Out :=
  let own (a : BitVec 32) : BitVec 32 := if addrMod a = modSelf s then m ++ a.extractLsb' 0 24 else a
  .next (if s.launches.isEmpty then
      putDie { s with convs := s.convs.map fun c => { c with server := own c.server, client := own c.client } } 0 0x52000
        (m.setWidth 64)
    else s)

end Sys2Proof.Machine
end

