-- ==== Sys2Proof/Machine/Sluice.lean ====
section
/-! DEFINITION. Sluicing (R126 to R131): retirement requests, the states of a creel's sluicing engine, the copy of units, the
commit of a new bank map; soft errors (R142). -/

namespace Sys2Proof.Machine

/-! ## The engine's state (R122, R151) -/

/-- The engine of a creel in a phase, with the trace record of the change; 0 is idle. -/
def sluicePhaseTo (s : State) (k : CreelId) (u : Sluice) (p : Nat) : State :=
  let s := modCreel s k fun c => { c with sluice := if p = 0 then none else some { u with phase := p } }
  traceRec s ⟨⟨k.x, k.y, u.req.core⟩, 0⟩ 8
    ([BitVec.ofNat 8 u.req.store, BitVec.ofNat 8 u.req.bank, BitVec.ofNat 8 p] ++ leBytes 2 (sluiceLeft (creelOf s k))
      ++ List.replicate 11 0)

/-! ## LOWER (R123, R127, R133) -/

/-- R123. The capacity field of a request's store lowered by one bank, with the versions. -/
def lowerField (s : State) (k : CreelId) (r : BankReq) : State :=
  let core (f : CapCore → CapCore) : State :=
    modCreel s k fun c => { c with capCore := c.capCore.put r.core (f (c.capCore.get r.core CapCore.initial)) }
  let s := match r.store with
    | 1 => modCreel s k fun c => { c with spBytes := c.spBytes - 8192 }
    | 2 => core fun p => { p with lsBytes := p.lsBytes - 8192 }
    | 3 => core fun p => { p with regN := p.regN - 128 }
    | _ => core fun p => { p with icBytes := p.icBytes - 4096 }
  let s := modCreel s k fun c => { c with capVer := c.capVer + 1 }
  { s with capDver := s.capDver + 1 }

/-- R75, R127. The teams on a creel whose footprint in force no longer fits it, outermost first. -/
def misfits (s : State) (k : CreelId) : List (TeamKey × TeamSt) :=
  ((teamsAt s k).filter fun (q, _) => !fitsCreel s (teamFoot s q) k).reverse

/-- R133. The over-capacity fault: a save with deadline 0, counted. -/
def overCapacity (s : State) (k : CreelId) (q : TeamKey) : State := (preempt (count s k.die 69) q (some 0) 1).1

/-- R122, R126. A write of RET_CTL: THRESH, and with GO a request, whose result LAST gives. -/
def execRetCtlRetire (c : CreelId) (v : Word) (s : State) : Out :=
  let s := modCreel s c fun k => { k with thresh := v.extractLsb' 32 16 }
  .next (if v.getLsbD 0 then
      let (s, n) := requestBank s c
        ⟨(v.extractLsb' 2 3).toNat, (v.extractLsb' 5 3).toNat, (v.extractLsb' 8 8).toNat, false⟩
      modCreel s c fun k => { k with lastRet := BitVec.ofNat 8 n }
    else s)

/-- R127. LOWER: the field is lowered, teams that no longer fit take the over-capacity fault; then WAITFIT. -/
def execSluiceStart (c : CreelId) (s : State) : Out :=
  let k := creelOf s c
  .next (match k.sluice, k.sluiceQ with
    | none, r :: rest =>
      if mooringHolds s then s
      else
        let u : Sluice := ⟨r, 1, [], none, []⟩
        let s := sluicePhaseTo (modCreel s c fun k => { k with sluiceQ := rest }) c u 1
        let s := lowerField s c r
        let s := (misfits s c).foldl (fun s (q, _) => overCapacity s c q) s
        sluiceWake (sluicePhaseTo s c u 2) c
    | _, _ => s)

/-! ## WAITFIT and PIN (R127, R131) -/

/-- R131. Cores of a creel whose static regions a request concerns. -/
def pinCores (k : CreelId) (r : BankReq) (c : CoreId) : Bool :=
  decide (c.creel = k) && (decide (r.store = 1) || decide (c.node = r.core))

/-- R131. Is the bank of a request pinned? -/
def bankPinned (s : State) (k : CreelId) (r : BankReq) : Bool :=
  if r.store = 4 then
    (coreOf s ⟨k.x, k.y, r.core⟩).icache.any fun l => decide (l.way = r.bank) && l.lock.isSome
  else s.threads.any fun (t, th) => pinCores k r t.core && th.region.isSome

/-- R127, R131. Every faulted team has left: PIN. For an uncorrectable error the threads in static regions concerned take a
CAPACITY trap at their next issue, and PIN does not wait. -/
def execSluiceWaitfitDone (c : CreelId) (s : State) : Out :=
  .next (match (creelOf s c).sluice with
    | some u =>
      if u.phase = 2 ∧ (misfits s c).isEmpty = true then
        let s := sluicePhaseTo s c u 3
        let hit := s.threads.filter fun (t, th) => u.req.forError && pinCores c u.req t.core && th.region.isSome
        let s := hit.foldl (fun s (t, _) => modThread s t fun th => { th with
          trap := match th.trap with
            | some tr => some tr
            | none => some ⟨8, 3⟩ }) s
        sluiceWake s c
      else s
    | none => s)

/-! ## ALLOC (R125, R130) -/

/-- R125. Words of the scratchpad that leave a bank, in increasing order; `n` is the new size in words. -/
def scratchMoves (k : CreelSt) (bank n : Nat) : List Nat :=
  let natural := ((List.range (n / 64 + 1)).map fun i => 64 * i + bank).filter fun w =>
    decide (w < n) && (k.spMap.find w).isNone
  let again := (k.spMap.filter fun (w, slot) => decide (w < n ∧ slot % 64 = bank)).map (·.1)
  (natural ++ again).mergeSort (fun a b => decide (a ≤ b))

/-- R125. The free slots they go to, in increasing (index, bank) order. -/
def scratchFree (k : CreelSt) (bank n : Nat) : List Nat :=
  (((List.range 1024).map fun i => scratchSlot k (n + i)).filter fun slot => slot % 64 ≠ bank).mergeSort
    (fun a b => decide (a ≤ b))

/-- R130. The threads of a core in increasing order of their bases. -/
def byBase (s : State) (c : CoreId) : List (ThreadId × Thread) :=
  (s.threads.filter fun (t, _) => decide (t.core = c)).mergeSort fun a b => decide (a.2.base ≤ b.2.base)

/-- R128. The units of a sluice in the order of their copy; for a register file the entries, whose new positions rise with
the old (R130). -/
def sluiceUnits (s : State) (k : CreelId) (r : BankReq) : List Nat :=
  match r.store with
  | 1 => scratchMoves (creelOf s k) r.bank ((creelOf s k).spBytes / 8)
  | 2 => (List.range ((capOf s ⟨k.x, k.y, r.core⟩).lsBytes / 8)).reverse
  | 3 => (byBase s ⟨k.x, k.y, r.core⟩).flatMap fun (_, th) => (List.range th.nregs).map fun i => th.base + i
  | _ => []

/-- Is a team on its way out already, by a save or discard whose deadline has come? -/
def disturbed (s : State) (t : TeamSt) : Bool :=
  match t.phase with
  | .placed => false
  | .leaving 0 => false
  | .leaving 3 => decide (t.asked ≠ 0 ∧ t.deadline ≤ s.cyc)
  | .leaving _ => decide (t.deadline ≤ s.cyc)
  | _ => true

/-- R130. Live ranges that the lowered register file cannot hold: the team that holds the range of the highest base takes the
over-capacity fault, unless it is leaving already; none where the ranges fit. -/
def regsMisfit (s : State) (k : CreelId) (r : BankReq) : Option State :=
  let c : CoreId := ⟨k.x, k.y, r.core⟩
  if r.store ≠ 3 ∨ liveRegs s c ≤ (capOf s c).regN then none
  else
    let top := ((byBase s c).filterMap fun (_, th) => th.key).getLast?
    some (match top with
      | some q =>
        (match s.teams.find q with
        | some t => if disturbed s t then s else overCapacity s k q
        | none => s)
      | none => s)

/-! ## COMMIT (R125, R127, R130) -/

/-- Cells of a list that lie in a store at or above its size are dropped. -/
def dropAbove (m : List Host.Cell) (scale base size top : Nat) : List Host.Cell :=
  m.filter fun x => !decide (base + size ≤ scale * x.1 ∧ scale * x.1 < base + top)

/-- The positions of a store at or above its new size are gone. -/
def dropPositions (s : State) (base size top : Nat) : State :=
  { s with
    mem := dropAbove s.mem 1 base size top
    bits := dropAbove s.bits 8 base size top
    err := dropAbove s.err 1 base size top }

/-- R130. Where the live ranges of a core go: laid out from entry 0 in increasing order of their bases. -/
def regPlaces (s : State) (c : CoreId) : List (ThreadId × Nat × Nat × Nat) :=
  ((byBase s c).foldl (fun (l, n) (t, th) => (l ++ [(t, th.base, n, th.nregs)], n + th.nregs))
    (([] : List (ThreadId × Nat × Nat × Nat)), 0)).1

/-- R130. The ranges that still live go to the places of ALLOC, bases and entries at once; one that began since stands clear of
them (R101) and stays. -/
def compactRegs (s : State) (c : CoreId) (places : List (ThreadId × Nat × Nat × Nat)) : State :=
  let goes (t : ThreadId) (th : Thread) : Nat :=
    match places.find? fun p => decide (p.1 = t ∧ p.2.1 = th.base ∧ p.2.2.2 = th.nregs) with
    | some p => p.2.2.1
    | none => th.base
  let live := (byBase s c).map fun (t, th) => (t, th.base, goes t th, th.nregs)
  let old := s.regs
  let kept := s.regs.filter fun ((d, _), _) => decide (d ≠ c)
  let moved := live.flatMap fun (_, b, n, len) => (List.range len).filterMap fun i =>
    (old.find (c, b + i)).map fun e => ((c, n + i), e)
  let s := { s with regs := kept ++ moved }
  live.foldl (fun s (t, _, n, _) => modThread s t fun th => { th with base := n }) s

/-- R125. The new map of a store. -/
def newMap (s : State) (k : CreelId) (u : Sluice) : State :=
  let r := u.req
  let c : CoreId := ⟨k.x, k.y, r.core⟩
  match r.store with
  | 1 =>
    let n := (creelOf s k).spBytes / 8
    let moves := (scratchMoves (creelOf s k) r.bank n).zip (scratchFree (creelOf s k) r.bank n)
    let s := modCreel s k fun q => { q with
      spMap := moves.foldl (fun m (w, slot) => SMap.put m w slot) (q.spMap.filter fun (w, _) => decide (w < n)) }
    dropPositions s (windowBase k) (8 * n) 0x80000
  | 2 => dropPositions s (windowBase k + 0x80000 + 0x10000 * r.core) (capOf s c).lsBytes 0x10000
  | 3 => compactRegs s c u.places
  | _ => modCore s c fun q => { q with icache := q.icache.filter fun l => l.way ≠ r.bank }

/-- R127. COMMIT: the new map replaces the old, the bank is marked retired, MAPV and counter 68 go up; SRBEGINs that waited go
on (R131), and the next request is taken. -/
def sluiceCommit (s : State) (k : CreelId) (u : Sluice) : State :=
  let r := u.req
  let s := newMap (sluicePhaseTo s k { u with units := [], copying := none } 6) k u
  let s := modCreel s k fun q =>
    let q := { q with mapv := q.mapv + 1 }
    if r.store = 1 then { q with spRet := q.spRet ||| (1#64 <<< r.bank) }
    else
      let p := q.capCore.get r.core CapCore.initial
      { q with capCore := q.capCore.put r.core { p with ret := p.ret ||| (1#24 <<< bankBit r) } }
  let s := sluicePhaseTo (count s k.die 68) k u 0
  let s := (List.range 7).foldl (fun s n => wake s ⟨k.x, k.y, n⟩ fun q => decide (q = .region)) s
  kickSluice s k

/-- R128. The copy of the next unit awaits cycles in which its two banks serve no other access, a free time (DESIGN CHOICE, log
51); after the last one the map is committed. -/
def nextCopy (s : State) (k : CreelId) (u : Sluice) : State :=
  match u.units with
  | [] => sluiceCommit s k u
  | _ => (modCreel s.drawn k fun q => { q with sluice := some { u with copying := none } }).after (1 + Config.delay s.free)
      (.event (.sluiceUnitCopy k))

/-- R127, R130, R131. No static region pins the bank: ALLOC, then COPY; an instruction-cache bank commits at once. -/
def execSluicePinDone (c : CreelId) (s : State) : Out :=
  .next (match (creelOf s c).sluice with
    | some u =>
      if u.phase = 4 ∨ (u.phase = 3 ∧ (u.req.forError ∨ bankPinned s c u.req = false)) then
        let s := if u.phase = 3 then sluicePhaseTo s c u 4 else s
        match regsMisfit s c u.req with
        | some s => s
        | none =>
          if u.req.store = 4 then sluiceCommit s c u
          else
            let u := { u with
              units := sluiceUnits s c u.req
              places := if u.req.store = 3 then regPlaces s ⟨c.x, c.y, u.req.core⟩ else [] }
            nextCopy (sluicePhaseTo s c u 5) c { u with phase := 5 }
      else s
    | none => s)

/-- The physical address of a unit; a register entry has none. -/
def unitPlace (k : CreelId) (r : BankReq) (w : Nat) : Option Nat :=
  match r.store with
  | 1 => some (windowBase k + 8 * w)
  | 2 => some (windowBase k + 0x80000 + 0x10000 * r.core + 8 * w)
  | _ => none

/-- R128. A unit's copy begins, for two cycles; or it has been copied with its tag, sticky and check bits: one that fails its
check stays so (R142). -/
def execSluiceUnitCopy (c : CreelId) (s : State) : Out :=
  .next (match (creelOf s c).sluice with
    | some u =>
      match u.copying, u.units with
      | some w, _ =>
        let s := match unitPlace c u.req w with
          | some pa => noteRead s pa 8
          | none => s
        nextCopy s c { u with copying := none }
      | none, w :: r => (modCreel s c fun q => { q with sluice := some { u with units := r, copying := some w } }).after 2
          (.event (.sluiceUnitCopy c))
      | none, [] => s
    | none => s)

/-! ## Soft errors (R142) -/

/-- R142, R424. A soft error makes a check unit hold a corrected or an uncorrectable error, or changes an entry's stored bits; a
corrected one is counted as it comes (DEDUCED, log 49). -/
def execSoftError (site : ErrorSite) (s : State) : Out :=
  .next (match site with
    | .memory pa bad =>
      if (homeOf s pa).isNone then s
      else
        let a := pa / unitLen pa * unitLen pa
        if bad then { s with err := cellSet s.err a 2 }
        else if unitState s pa = 2 then s
        else corrected { s with err := cellSet s.err a 1 } a
    | .bank core store bank bad =>
      let r : BankReq := ⟨store, core.node, bank, true⟩
      if (store ≠ 3 ∧ store ≠ 4) ∨ !bankValid r ∨ !creelThere s core.creel ∨ bankRetired (creelOf s core.creel) r then s
      else if bad then (requestBank (count s core.die 8) core.creel r).1
      else correctedAt (count s core.die 7) core.creel r
    | .register core entry flip =>
      let e := s.regs.get (core, entry) RegEntry.zero
      if 2048 ≤ entry then s else { s with regs := s.regs.put (core, entry) { e with d := e.d ^^^ flip } })

end Sys2Proof.Machine
end

