-- ==== Sys2Proof/Machine/Power.lean ====
section
/-! DEFINITION. Power: pins, states and commands (R10 to R14, R21, R29), the enable mask (R15, R16), the power trip (R17),
mooring and resumption (R18 to R23), and bring-up (R25 to R28, R39). -/

namespace Sys2Proof.Machine

/-- The power block changed. -/
def modPower (s : State) (f : PowerSt → PowerSt) : State := { s with power := f s.power }

/-- R10, R71. READY changes: the pin, and notice 0x02, whose detail is the new level (PRESUMED, log 15). -/
def setReady (s : State) (b : Bool) : State :=
  if s.power.ready = b then s
  else
    let n := if b then 1 else 0
    notify ((modPower s fun p => { p with ready := b }).emit (.code "READY" n)) 2 [BitVec.ofNat 8 n]

/-- LAST_RESULT (R29). -/
def lastResult (s : State) (n : Nat) : State := modPower s fun p => { p with lastResult := BitVec.ofNat 8 n }

/-- The cycle of the next rotation boundary (R14). -/
def nextBoundaryCycle (s : State) : Nat := boundaryEve s.cyc + 1

/-! ## Gated clocks (R14) -/

/-- R14. Does a happening belong to a core, matrix unit, engine or queue whose clock IDLE gates? -/
def gatedEvent (e : Event) : Bool :=
  match e with
  | .engineCommandComplete c _ _ => decide (c.x < 128)
  | .matrixAccept _ => true
  | .matrixCommit _ => true
  | .bargeTake _ => true
  | .queueExamination _ => true
  | .sluiceStart _ => true
  | .sluiceWaitfitDone _ => true
  | .sluicePinDone _ => true
  | .sluiceUnitCopy _ => true
  | .sampleTick _ => true
  | .autloadComplete t => !t.core.isLengthsman || decide (t.core.die ≠ 0)
  | _ => false

/-- Is an agenda entry gated? -/
def gatedDue (d : Due) : Bool := match d.act with
  | .event e => gatedEvent e
  | _ => false

/-- R14. The clocks are gated: what they drive keeps the time it has left. -/
def gate (s : State) : State :=
  { s with
    gated := (s.agenda.filter gatedDue).map fun d => { d with at_ := d.at_ - s.cyc }
    gatedAt := s.cyc
    agenda := s.agenda.filter fun d => !gatedDue d }

/-- R14. The clocks return. -/
def ungate (s : State) : State :=
  let n := s.cyc - s.gatedAt
  let late (r : MResult) : MResult :=
    { r with started := r.started + n, finish := if r.finish = 0 then 0 else r.finish + n }
  let cores := s.cores.map fun (c, k) => (c, { k with mrun := k.mrun.map late })
  let held := s.gated
  let s := if s.power.state = .idle then { s with cores := cores, gated := [] } else { s with gated := [] }
  held.foldl (fun s d => s.at (s.cyc + d.at_) d.act) s

/-! ## The enable mask (R15, R16) -/

/-- R16, R120. Teams on creels that lose their bits are pre-empted, outermost of each creel, with a deadline of 1 ms. -/
def preemptCleared (s : State) (cs : List CreelId) : State :=
  cs.foldl (fun s c =>
    match (teamsAt s c).getLast? with
    | some (k, _) => (preempt s k (some 600000) 0).1
    | none => s) s

/-- The creels whose bits are set in a word of the mask. -/
def maskCreels (s : State) (n : Nat) (w : Word) : List CreelId :=
  ((List.range 64).filter fun i => w.getLsbD i).map (fun i => (⟨64 * (n % 2) + i, n / 2⟩ : CreelId)) |>.filter (creelThere s)

/-- R16. A word of the mask takes effect: cleared bits pre-empt, set bits let dispatch resume. -/
def applyMask (s : State) (n : Nat) (v : Word) : State :=
  let old := s.power.mask.get n (BitVec.allOnes 64)
  let s := modPower s fun p => { p with mask := p.mask.put n v, stored := p.stored.del n }
  let cleared := maskCreels s n (old &&& ~~~v)
  let set := maskCreels s n (v &&& ~~~old)
  let s := set.foldl maskUngate (cleared.foldl maskGate (preemptCleared s cleared))
  if set.isEmpty then s else retryPlacements (set.foldl wakeQueue s)

/-- R16. A write of PWR_MASK; outside RUN it is stored. -/
def execPwrMaskWrite (n : Nat) (v : Word) (s : State) : Out :=
  .next (if s.power.state = .run ∧ s.power.trans = .none then applyMask s n v
    else modPower s fun p => { p with stored := p.stored.put n v })

/-! ## What STANDBY loses (R11) -/

/-- R11, R29. What is left when everything but the host port and the always-on islands loses power: the power block, the
failed units it reports, the Ethernet block and the sessions of the host port with the management conversation, MOD_SELF, by
which their addresses are formed, non-volatile storage, and the model's own fields. -/
def losePower (s : State) : State :=
  let kept (k : Nat × Nat) : Bool := decide (0x80000 ≤ k.2 ∧ k.2 ≤ 0x81000 ∨ k.2 = 0x52000)
  { State.reset with
    cyc := s.cyc, inputs := s.inputs, free := s.free, token := s.token, out := s.out, wall := s.wall
    wallAgenda := s.wallAgenda, power := s.power, eth := s.eth, nv := s.nv
    sessions := s.sessions.filter fun x => decide (x.1 < 8)
    convs := s.convs.filter fun c => decide (serviceOf c.server = some 0)
    hbmFail := s.hbmFail, lpFail := s.lpFail, dieExcl := s.dieExcl, fused := s.fused, edges := s.edges
    dieRegs := s.dieRegs.filter fun (k, _) => kept k
    hostPort := s.hostPort }

/-! ## Bring-up (R25 to R28, R39) -/

/-- A bring-up begins at a phase. -/
def startBringup (s : State) (phase : Nat) : State :=
  modPower s fun p => { p with trans := .bringup, phase := phase, again := false }

/-- Edges of the dimension-ordered route between two dies (R30, R33): 3 * row + column along x, 6 + column along y. -/
def dieRoute (a b : Nat) : List Nat :=
  let lo := min (a % 4) (b % 4)
  let n := max (a % 4) (b % 4) - lo
  (List.range n).map (fun i => 3 * (a / 4) + lo + i) ++ (if a / 4 = b / 4 then [] else [6 + b % 4])

/-- Number of dies in a set. -/
def dieCount (m : Nat) : Nat := ((List.range 8).filter fun d => m.testBit d).length

/-- R39. Do routes between dies outside a set use working edges only? -/
def routesWork (failed : Nat → Bool) (m : Nat) : Bool :=
  (List.range 8).all fun a => (List.range 8).all fun b => m.testBit a || m.testBit b || (dieRoute a b).all fun e => !failed e

/-- R39. The dies to exclude: the smallest set, of several the one with the highest-numbered dies. -/
def excludedDies (failed : Nat → Bool) : Nat :=
  ((List.range 256).filter (routesWork failed)).foldl (fun best m =>
    if dieCount m < dieCount best ∨ (dieCount m = dieCount best ∧ best < m) then m else best) 255

/-- Has an edge failed (R39)? -/
def edgeFailed (s : State) (e : Nat) : Bool := decide (34 ≤ (s.edges.get e EdgeSt.initial).failed.length)

/-- R25, phase 2. The units that failed training twice. -/
def trained (s : State) (r : PhaseReport) : State :=
  let edges := (List.range 10).map fun e => (e, if r.edgeFail.getLsbD e then { EdgeSt.initial with failed := List.range 34 }
    else EdgeSt.initial)
  modPower { s with hbmFail := r.hbmFail, lpFail := r.lpFail, edges := edges } fun p => { p with ethFail := r.ethFail }

/-- R26. Memory initialisation, with the global cycle counter at zero and every bit of PWR_MASK set. Notices held stay, and the
boot units, whose registers a cold bring-up alone resets (R411). -/
def initialised (s : State) : State :=
  modPower { losePower s with cyc := 0, notices := s.notices, boot := s.boot.map fun (d, b) => (d, { b with busy := false }) } fun p => { p with mask := [], stored := [] }

/-- R126. A bank that fails the self-test is retired without sluicing. -/
def retireNow (s : State) (b : BankRef) : State :=
  let r : BankReq := ⟨b.store, b.core, b.bank, false⟩
  if !creelThere s b.creel || !bankValid r || bankRetired (creelOf s b.creel) r then s
  else sluiceCommit (lowerField s b.creel r) b.creel ⟨r, 5, [], none, []⟩

/-- R25, R27, R39, phase 5. Dies are excluded, banks that failed the self-test are retired, and the result is recorded. -/
def finished (s : State) (r : PhaseReport) : State :=
  let s := { s with dieExcl := BitVec.ofNat 8 (excludedDies (edgeFailed s)) }
  let s := r.badBanks.foldl retireNow s
  let worse := decide (s.hbmFail ≠ 0 ∨ s.lpFail ≠ 0 ∨ s.dieExcl ≠ 0 ∨ s.power.ethFail ≠ 0)
  modPower s fun p => { p with code := if worse then 3 else 0 }

/-- The work of a phase; none where bring-up ends in STANDBY, with the code. -/
def phaseWork (s : State) (r : PhaseReport) : Except Nat State :=
  match s.power.phase with
  | 0 => (match bootImage s with
    | some s => .ok (modPower s fun p => { p with code := 0 })
    | none => .error 1)
  | 1 => if r.hostPortOk then .ok { s with hostPort := s.nv.hostPort.toNat } else .error 2
  | 2 => .ok (trained s r)
  | 3 => .ok (initialised s)
  | 4 => .ok s
  | _ => .ok (finished s r)

/-- R23, R25, R27. A phase of bring-up ends, phase 4 not before its floods: a failed image or host port leaves the device in
STANDBY; a holder stops bring-up there; after phase 5 the device is in IDLE, and READY rises. A holder that is released before
the boundary leaves bring-up as it was: it neither stops nor begins again (DESIGN CHOICE, log 76). -/
def execBringupPhaseComplete (r : PhaseReport) (s : State) : Out :=
  let k := s.power.phase
  .next (if s.power.trans ≠ .bringup then s
    else if decide (k = 4) && floodsDue s then s.wallAfter 600 (.bringupPhaseComplete r)
    else match phaseWork s r with
    | .error c => modPower s fun p => { p with trans := .none, code := c }
    | .ok s =>
      let s := modPower s fun p => { p with donePhase := k }
      if holders s.power then modPower s fun p => { p with trans := .none, again := true }
      else if k < 5 then
        let s := modPower s fun p => { p with phase := k + 1 }
        if k = 3 then startFloods s else s
      else setReady (gate (modPower s fun p => { p with state := .idle, trans := .none, goAt := 0 })) true)

/-- R40, R44. The Ethernet block at power-good: the host port's addresses and enables as stored. -/
def storedPort (s : State) : SMap (Nat × Nat) Word :=
  let p := s.nv.hostPort.toNat
  let at_ (off : Nat) : Nat × Nat := (p / 2, 0x80000 + 0x100 * (p % 2) + off)
  [(at_ 8, s.nv.ip4), (at_ 0x10, s.nv.ip6lo), (at_ 0x18, s.nv.ip6hi),
    (at_ 0x20, 0x324B4800#64 ||| s.nv.enables.setWidth 64)]

/-- R13, R25. Power-good: a cold bring-up begins at phase 0. -/
def execPowerGood (s : State) : Out :=
  .next (if s.power.state = .off then { s with power := PowerSt.initial, dieRegs := storedPort s } else s)

/-- R11, R13. The supply is removed: only non-volatile storage is left. -/
def execSupplyRemoved (s : State) : Out :=
  let t := if s.power.ready then s.emit (.code "READY" 0) else s
  .next { State.reset with
    inputs := s.inputs, free := s.free, token := s.token, out := t.out, wall := s.wall, nv := s.nv, fused := s.fused
    power := { PowerSt.initial with state := .off, trans := .none, coldFlag := false } }

/-! ## Mooring (R18 to R23) -/

/-- R148. Creels that are halted halt again after resumption. -/
def haltAgain (s : State) : State :=
  { s with creels := s.creels.map fun (k, c) => (k, { c with rehalt := c.rehalt || c.halt.isSome }) }

/-- R19. Entry to MOORED begins: an update is rolled back (R82), a transition is given up, READY falls, clocks return, every
resident team is pre-empted by save, and threads stop from the next rotation boundary on. The cycle counter is saved at a free
time within 1 ms (DESIGN CHOICE, log 6). -/
def startMooring (s : State) : State :=
  let s := if 2 ≤ s.fwu.phase then fwuRollback s else s
  let s := wallCancel s fun e => match e with
    | .standbyEntryComplete => true
    | .idleEntryComplete => true
    | .runEntryComplete => true
    | _ => false
  let s := ungate s
  let b := nextBoundaryCycle s
  setReady (moorTeams (modPower s.drawn fun p => { p with
    trans := .mooring, before := p.state, goAt := if p.state = .idle then b else p.goAt
    entryAt := s.wall, saveAt := s.wall + 1 + Config.delay s.free % 600000, saved := false })) false

/-- R18, R23. A holder is added: the first one moors the device in IDLE or RUN. -/
def addHolder (s : State) (f : PowerSt → PowerSt) : State :=
  let first := !holders s.power
  let s := modPower s f
  if first && decide ((s.power.state = .idle ∨ s.power.state = .run) ∧ s.power.trans ≠ .mooring) then startMooring s else s

/-- R41. The host port drops its link and starts up again, on one lane at step 5 of R19 and at its full rate at step 3 of R22: the
link is up again after a free time of at most 500 ms. -/
def restartHostPort (s : State) : State :=
  let p := s.hostPort
  if !(ethPort s p).link then s
  else (modPort s p fun e => { e with link := false }).drawn.wallAfter (1 + Config.delay s.free % 300000000) (.ethLinkUp p)

/-- R22. Resumption begins, and the moored stay is measured in ticks of 100 ns; the host port starts up at its full rate. -/
def startResume (s : State) : State :=
  modPower (restartHostPort s) fun p => { p with trans := .resuming, moorDur := BitVec.ofNat 64 ((s.wall - p.moorAt) / 60) }

/-- R18, R23. Holders are released: with none left a moored device resumes, and a stopped bring-up begins again from phase 2;
where phase 1 was not reached, the choice of host port is read now (DESIGN CHOICE, log 6). -/
def dropHolder (s : State) (f : PowerSt → PowerSt) : State :=
  let s := modPower s f
  if holders s.power then s
  else if s.power.state = .moored ∧ s.power.trans = .none then startResume s
  else if s.power.state = .standby ∧ s.power.again = true then
    startBringup (if s.power.donePhase = 0 then { s with hostPort := s.nv.hostPort.toNat } else s) 2
  else s

/-- R10, R18. The pin counts as 1. -/
def execMoorReqRise (s : State) : Out :=
  .next (if s.power.state = .off then s else addHolder s fun p => { p with pin := true })

/-- R10, R18. The pin counts as 0. -/
def execMoorReqFall (s : State) : Out :=
  .next (if s.power.state = .off then s else dropHolder s fun p => { p with pin := false })

/-- R48. Does an address name an on-chip store? -/
def onChip (a : Nat) : Bool := decide (2 ^ 44 ≤ a)

/-- R19 steps 4 and 5, R20. The on-chip state is in the moorage region, and what stood on chip is lost with its power;
translation and instruction caches are not preserved. -/
def storeChip (s : State) : State :=
  let cores := s.cores.map fun (c, k) => (c, { k with icache := [] })
  let creels := s.creels.map fun (c, k) => (c, { k with tlb := [] })
  { s with
    moorage := some {
      mem := s.mem.filter fun x => onChip x.1
      bits := s.bits.filter fun x => onChip (8 * x.1)
      err := s.err.filter fun x => onChip x.1
      regs := s.regs, threads := s.threads, eps := s.eps, cores := cores, creels := creels, waiters := s.waiters }
    mem := s.mem.filter fun x => !onChip x.1
    bits := s.bits.filter fun x => !onChip (8 * x.1)
    err := s.err.filter fun x => !onChip x.1
    regs := [], threads := [], eps := [], cores := [], creels := [], waiters := [] }

/-- R22 step 5. The on-chip state as the moorage region holds it. -/
def restoreChip (s : State) : State :=
  match s.moorage with
  | none => s
  | some m => { s with
    moorage := none
    mem := cellsPut (s.mem.filter fun x => !onChip x.1) m.mem
    bits := cellsPut (s.bits.filter fun x => !onChip (8 * x.1)) m.bits
    err := cellsPut (s.err.filter fun x => !onChip x.1) m.err
    regs := m.regs, threads := m.threads, eps := m.eps, cores := m.cores, creels := m.creels, waiters := m.waiters }

/-- R20. MOORED is reached: the cycle counter stands. Without a holder resumption begins at once (R23). -/
def reachMoored (s : State) : State :=
  let s := modPower (restartHostPort (storeChip s)) fun p => { p with state := .moored, trans := .none, moorAt := s.wall }
  if holders s.power then s else startResume s

/-- R19. Entry ends once every thread has stopped, messages have been delivered, and the images are saved. -/
def execMoorEntryComplete (s : State) : Out :=
  .next (if s.power.trans ≠ .mooring then s
    else if s.power.saved then reachMoored s
    else s.wallAfter 16 .moorEntryComplete)

/-- R23. Entry is not complete at 2 ms, an earlier end of the time being none: the unwritten images are abandoned, those of
teams that have not stopped among them, LOSS is set, and their teams are dealt with on resumption. -/
def execMoorEntryTimeout (lost : List TeamKey) (s : State) : Out :=
  .next (if s.power.trans ≠ .mooring ∨ s.wall < s.power.entryAt + 1200000 then s
    else
      let s := wallCancel s fun e => decide (e = .moorEntryComplete)
      let s := if s.power.saved then s else moorSave s
      let gone := (s.teams.filter fun (k, t) => decide (t.phase = .leaving 4) || lost.contains k).map (·.1)
      reachMoored (modPower s fun p => { p with lossFlag := true, lost := gone }))

/-- R22. Threads of no team that the mooring stopped issue again from the next rotation boundary. -/
def resumeAll (s : State) : State :=
  (s.threads.filter fun (t, th) => th.stopping && moorStops t th).foldl (fun s (t, _) => resumeThread s t) s

/-- R22, R23. Resumption ends: the on-chip state returns, teams whose image was lost are relaunched or report CAPACITY, the
others resume in place from their images, banks that failed their check are retired, the state before mooring returns, READY
rises, and held retirements are taken up. A holder that appeared meanwhile starts entry 1 µs later. Writes of the mask stored
while the device was moored wait for the next RUN command to complete: the end of a resumption is not taken as an entry to RUN
(DESIGN CHOICE, log 74). -/
def resumed (s : State) (bad : List BankRef) : State :=
  let s := restoreChip s
  let b := nextBoundaryCycle s
  let gone := s.power.lost
  let s := modPower s fun p => { p with
    state := p.before, trans := .none, moorCount := p.moorCount + 1, goAt := if p.before = .run then b else 0, lost := []
    saved := false }
  let lost := (s.teams.filter fun (k, t) => gone.contains k && resident t).map (·.1)
  let s := lost.foldl saveFailed s
  let s := haltAgain (resumeAll (moorRestores s))
  let s := bad.foldl (fun s r => (requestBank s r.creel ⟨r.store, r.core, r.bank, true⟩).1) s
  let s := (s.creels.map (·.1)).foldl kickSluice s
  let s := retryPlacements s
  let s := if s.power.state = .idle then gate s else wakeAll s
  let s := setReady s true
  if holders s.power then s.wallAfter 600 (.resumptionComplete []) else s

/-- Is any die-to-die link being retrained (R38)? -/
def linksTrain (s : State) : Bool := s.edges.any fun (_, e) => !e.training.isEmpty

/-- R22, R23. The end of a resumption, not before the links that failed their check, those that retrain, have ended their
training (step 3); or, 1 µs after it, the entry that a holder which appeared meanwhile starts. -/
def execResumptionComplete (bad : List BankRef) (s : State) : Out :=
  .next (if s.power.trans = .resuming then (if linksTrain s then s.wallAfter 16 (.resumptionComplete bad) else resumed s bad)
    else if (s.power.state = .idle ∨ s.power.state = .run) ∧ s.power.trans = .none ∧ holders s.power = true then
      startMooring s
    else s)

/-! ## Commands (R13, R21, R29) -/

/-- R21, R23, R29. The rejection of a command that holders, mooring or another transition bar; 0 for none. -/
def barred (s : State) : Nat :=
  let p := s.power
  if p.state = .moored ∨ p.trans = .mooring ∨ p.trans = .resuming ∨ holders p = true then 2
  else if p.trans ≠ .none then 4
  else 0

/-- A transition that a command starts, complete after a free time of at most n units of wall time (DESIGN CHOICE, log 6). -/
def startTrans (s : State) (t : Trans) (n : Nat) (e : Event) : State :=
  let s := setReady (lastResult (modPower s fun p => { p with trans := t }) 0) false
  s.drawn.wallAfter (1 + Config.delay s.free % n) e

/-- R13. STANDBY. -/
def execPwrCmdStandby (s : State) : Out :=
  .next (if s.power.state = .off then s
    else if barred s ≠ 0 then lastResult s (barred s)
    else if s.power.state = .standby then lastResult s 4
    else if s.teams.any fun (_, t) => resident t then lastResult s 1
    else startTrans s .toStandby 30000000 .standbyEntryComplete)

/-- R13, R28. WAKE. -/
def execPwrCmdWake (s : State) : Out :=
  .next (if s.power.state = .off then s
    else if barred s ≠ 0 then lastResult s (barred s)
    else if s.power.state ≠ .standby then lastResult s 4
    else startBringup (lastResult s 0) (if s.power.code = 1 then 0 else 2))

/-- R13, R14. IDLE: issue on the cores it gates stops at the next rotation boundary. -/
def execPwrCmdIdle (s : State) : Out :=
  .next (if s.power.state = .off then s
    else if barred s ≠ 0 then lastResult s (barred s)
    else if s.power.state ≠ .run then lastResult s 4
    else
      let b := nextBoundaryCycle s
      startTrans (modPower s fun p => { p with stopAt := b }) .toIdle 12000 .idleEntryComplete)

/-- R13, R14. RUN. -/
def execPwrCmdRun (s : State) : Out :=
  .next (if s.power.state = .off then s
    else if barred s ≠ 0 then lastResult s (barred s)
    else if s.power.state ≠ .idle then lastResult s 4
    else startTrans s .toRun 600 .runEntryComplete)

/-- R13, R18, R21. MOOR adds the CMD holder. -/
def execPwrCmdMoor (s : State) : Out :=
  .next (if s.power.state = .off then s else addHolder (lastResult s 0) fun p => { p with cmd := true })

/-- R18, R21, R23. RESUME releases CMD and TRIP; it is not valid where nothing holds and nothing is moored. -/
def execPwrCmdResume (s : State) : Out :=
  .next (if s.power.state = .off then s
    else if holders s.power || decide (s.power.state = .moored ∨ s.power.trans = .mooring ∨ s.power.trans = .resuming) then
      dropHolder (lastResult s 0) fun p => { p with cmd := false, trip := false }
    else lastResult s 4)

/-- R21, R29. Any other value. -/
def execPwrCmdInvalid (_ : Byte) (s : State) : Out :=
  .next (if s.power.state = .off then s else lastResult s (if s.power.state = .moored then 2 else 3))

/-- R29. A write of PWR_LIMIT. -/
def execPwrLimitWrite (v : Word) (s : State) : Out :=
  let n := v.extractLsb' 0 12
  .next (if 125 ≤ n.toNat ∧ n.toNat ≤ 525 then lastResult (modPower s fun p => { p with limit := n }) 0
    else lastResult s 5)

/-- R17. The end of a window of 1 ms; the trip notice carries the average (PRESUMED, log 15). -/
def execPowerWindowEnd (watts : BitVec 16) (s : State) : Out :=
  .next (if s.power.state = .off then s
    else
      let s := modPower s fun p => { p with watts := watts }
      if watts.toNat ≤ 8 * s.power.limit.toNat then s
      else
        let s := modPower s fun p => { p with
          tripFlag := true, tripCount := if p.tripCount = 0xFFFF then p.tripCount else p.tripCount + 1 }
        addHolder (notify s 1 (leBytes 2 watts.toNat)) fun p => { p with trip := true })

/-! ## The ends of transitions (R13, R14) -/

/-- R11, R13. STANDBY is reached, once the answers on their way to the host have left: what it does not preserve is lost. -/
def execStandbyEntryComplete (s : State) : Out :=
  .next (if s.power.trans ≠ .toStandby then s
    else if messageInFlight s then s.wallAfter 16 .standbyEntryComplete
    else losePower (modPower s fun p => { p with state := .standby, trans := .none }))

/-- R13, R14. IDLE is reached once flits in flight are delivered, within its bound of 20 µs: the clocks are gated. -/
def execIdleEntryComplete (s : State) : Out :=
  .next (if s.power.trans ≠ .toIdle then s
    else if meshBusy s && decide (s.cyc < s.power.stopAt + 11900) || decide (s.cyc < s.power.stopAt) then s.wallAfter 16 .idleEntryComplete
    else setReady (gate (modPower s fun p => { p with state := .idle, trans := .none })) true)

/-- R14. Messages held at the host port are delivered, and a priority that was paused for them is resumed (R42). -/
def releaseHeld (s : State) : State :=
  let ms := s.idleHeld
  let p := ethPort s s.hostPort
  let s := if p.pausing.getLsbD 3 then s.emit (.pause s.hostPort 3 false) else s
  let s := if ms.isEmpty then s else modPort s s.hostPort fun p => { p with
    held := p.held.set 3 0, pausing := p.pausing &&& 0xF7 }
  ms.foldl fromHost { s with idleHeld := [] }

/-- R14, R16. RUN is reached: issue resumes at the first rotation boundary, stored writes of the mask take effect, and held
messages are delivered. -/
def execRunEntryComplete (s : State) : Out :=
  .next (if s.power.trans ≠ .toRun then s
    else
      let b := nextBoundaryCycle s
      let s := modPower (ungate s) fun p => { p with state := .run, trans := .none, goAt := b }
      let s := s.power.stored.foldl (fun s (n, v) => applyMask s n v) s
      releaseHeld (setReady (wakeAll (retryPlacements s)) true))

end Sys2Proof.Machine
end

