-- ==== Sys2Proof/Machine/Scalar.lean ====
section
/-! DEFINITION. Integer instructions, constants, branches, jumps and loops: majors 0 to 19 and 40 to 42 (R284 to R293),
and the compact instructions that stand for them (R264). -/

namespace Sys2Proof.Machine

/-! ## Functions of operand values -/

/-- The natural product's or signed product's upper half (R287). -/
def mulHigh (a b : Int) : Word := BitVec.ofInt 64 (a * b / 2 ^ 64)

/-- Signed quotient (R258): all ones for a zero divisor, -2^63 / -1 wraps, otherwise truncated. -/
def divSigned (a b : Word) : Word := if b = 0 then BitVec.allOnes 64 else BitVec.ofInt 64 (a.toInt.tdiv b.toInt)

/-- Signed remainder (R258). -/
def remSigned (a b : Word) : Word := if b = 0 then a else BitVec.ofInt 64 (a.toInt.tmod b.toInt)

/-- Natural quotient (R287). -/
def divNat (a b : Word) : Word := if b = 0 then BitVec.allOnes 64 else BitVec.ofNat 64 (a.toNat / b.toNat)

/-- Natural remainder (R287). -/
def remNat (a b : Word) : Word := if b = 0 then a else BitVec.ofNat 64 (a.toNat % b.toNat)

/-- 1 when a condition holds, else 0. -/
def bool1 (b : Bool) : Word := if b then 1 else 0

/-- The lesser of two words under a relation. -/
def pick (le : Bool) (a b : Word) : Word := if le then a else b

/-- Trailing zeros of the low n bits. -/
def ctzN (a : Word) : Nat → Nat → Nat
  | 0, i => i
  | n + 1, i => if a.getLsbD i then i else ctzN a n (i + 1)

/-- Set bits among the low n. -/
def popN (a : Word) : Nat → Nat
  | 0 => 0
  | n + 1 => (if a.getLsbD n then 1 else 0) + popN a n

/-- Leading zeros (R288). -/
def clzWord (a : Word) : Word := BitVec.ofNat 64 (64 - bitLen a.toNat)

/-- Bit i := bit 63 - i (R288). -/
def brevWord (a : Word) : Word := BitVec.ofNat 64 ((List.range 64).foldl (fun r i => 2 * r + (if a.getLsbD i then 1 else 0)) 0)

/-- Byte i := byte 7 - i (R288). -/
def bswapWord (a : Word) : Word := BitVec.ofNat 64 (leNat (leBytes 8 a.toNat).reverse)

/-- The low w bits, w from 1 to 64, extended by their top bit or by zeros (R288). -/
def extract (a : Word) (w : Nat) (signed : Bool) : Word :=
  if signed then BitVec.ofInt 64 (signedOf w (a.toNat % 2 ^ w)) else BitVec.ofNat 64 (a.toNat % 2 ^ w)

/-- A mask of n ones at position p. -/
def maskAt (p n : Nat) : Word := BitVec.ofNat 64 ((2 ^ n - 1) * 2 ^ p)

/-! ## Shapes of instruction -/

/-- An instruction that writes g(d), with S clear, from g(a) and g(b). -/
def rr (s : State) (b a d : BitVec 7) (f : Word → Word → Word) : Out :=
  issue s [a, b] [d] true fun s => retire (s.setG d (f (s.g a) (s.g b))) false 1

/-- The same taking several beats. -/
def rrBeats (s : State) (b a d : BitVec 7) (n : Nat) (f : Word → Word → Word) : Out :=
  issue s [a, b] [d] true fun s => lastBeat s n fun s => retire (s.setG d (f (s.g a) (s.g b))) false 1

/-- An instruction that writes g(d) from g(a), under a check on its fields. -/
def r1 (s : State) (a d : BitVec 7) (ok : Bool) (f : Word → Word) : Out :=
  issue s [a] [d] ok fun s => retire (s.setG d (f (s.g a))) false 1

/-- A compact instruction that writes g(d) from g(x) and g(y) (R264). -/
def crr (s : State) (x y d : BitVec 7) (f : Word → Word → Word) : Out :=
  issue s [x, y] [d] true fun s => retire (s.setG d (f (s.g x) (s.g y))) true 1

/-- A compact instruction that writes g(d) from itself (R264). -/
def cr1 (s : State) (d : BitVec 7) (f : Word → Word) : Out :=
  issue s [d] [d] true fun s => retire (s.setG d (f (s.g d))) true 1

/-- A conditional branch on g(a) (R291). -/
def branch (s : State) (cp : Bool) (a : BitVec 7) (disp : Int) (test : Word → Bool) : Out :=
  issue s [a] [] true fun s => if test (s.g a) then jumpTo s (branchTo s.th.pc disp) else retire s cp 1

/-- R292. A jump to an address in a register: ALIGN when it is no slot, TRANSLATION with cause 1 when it is out of
range; then gd := the next slot's address. -/
def jumpReg (s : State) (a d : BitVec 7) (off : Word) : Out :=
  issue s [a] [d] true fun s =>
    let t := s.g a + off
    if t.toNat % 4 ≠ 0 then raise s (trapAlign t.toNat)
    else if 2 ^ 57 ≤ t.toNat then raise s (trapTranslation 1 t.toNat)
    else
      let link := (nextSlot s.th.pc).setWidth 64
      jumpTo (s.setG d link) (t.extractLsb' 0 57)

/-! ## Majors 0 and 1 (R286, R287) -/

/-- R286. ADD. -/
def execAdd (b a d : BitVec 7) (s : State) : Out :=
  rr s b a d fun a b => a + b

/-- R286. SUB. -/
def execSub (b a d : BitVec 7) (s : State) : Out :=
  rr s b a d fun a b => a - b

/-- R286. AND. -/
def execAnd (b a d : BitVec 7) (s : State) : Out :=
  rr s b a d fun a b => a &&& b

/-- R286. OR. -/
def execOr (b a d : BitVec 7) (s : State) : Out :=
  rr s b a d fun a b => a ||| b

/-- R286. XOR. -/
def execXor (b a d : BitVec 7) (s : State) : Out :=
  rr s b a d fun a b => a ^^^ b

/-- R286. ANDN. -/
def execAndn (b a d : BitVec 7) (s : State) : Out :=
  rr s b a d fun a b => a &&& ~~~b

/-- R286. ORN. -/
def execOrn (b a d : BitVec 7) (s : State) : Out :=
  rr s b a d fun a b => a ||| ~~~b

/-- R286. SHL. -/
def execShl (b a d : BitVec 7) (s : State) : Out :=
  rr s b a d fun a b => a <<< (b.toNat % 64)

/-- R286. SHR. -/
def execShr (b a d : BitVec 7) (s : State) : Out :=
  rr s b a d fun a b => a >>> (b.toNat % 64)

/-- R286. SAR. -/
def execSar (b a d : BitVec 7) (s : State) : Out :=
  rr s b a d fun a b => a.sshiftRight (b.toNat % 64)

/-- R286. ROL. -/
def execRol (b a d : BitVec 7) (s : State) : Out :=
  rr s b a d fun a b => a.rotateLeft (b.toNat % 64)

/-- R286. MIN. -/
def execMin (b a d : BitVec 7) (s : State) : Out :=
  rr s b a d fun a b => pick (a.sle b) a b

/-- R286. MAX. -/
def execMax (b a d : BitVec 7) (s : State) : Out :=
  rr s b a d fun a b => pick (a.sle b) b a

/-- R286. MINN. -/
def execMinn (b a d : BitVec 7) (s : State) : Out :=
  rr s b a d fun a b => pick (a.ule b) a b

/-- R286. MAXN. -/
def execMaxn (b a d : BitVec 7) (s : State) : Out :=
  rr s b a d fun a b => pick (a.ule b) b a

/-- R286. SEL: ga if gd is not 0, otherwise gb, with D and S of the chosen operand. -/
def execSel (b a d : BitVec 7) (s : State) : Out :=
  issue s [a, b, d] [d] true fun s =>
    let x := if s.g d ≠ 0 then a else b
    retire (s.setGS d (s.g x) (s.gS x)) false 1

/-- R287. MUL: bits [63:0] of the product. -/
def execMul (b a d : BitVec 7) (s : State) : Out :=
  rr s b a d fun a b => a * b

/-- R287, R285. MULH: two beats. -/
def execMulh (b a d : BitVec 7) (s : State) : Out :=
  rrBeats s b a d 2 fun a b => mulHigh a.toInt b.toInt

/-- R287, R285. MULHN: two beats. -/
def execMulhn (b a d : BitVec 7) (s : State) : Out :=
  rrBeats s b a d 2 fun a b => mulHigh a.toNat b.toNat

/-- R287, R258, R285. DIV: four beats. -/
def execDiv (b a d : BitVec 7) (s : State) : Out :=
  rrBeats s b a d 4 divSigned

/-- R287, R258, R285. DIVN: four beats. -/
def execDivn (b a d : BitVec 7) (s : State) : Out :=
  rrBeats s b a d 4 divNat

/-- R287, R258, R285. REM: four beats. -/
def execRem (b a d : BitVec 7) (s : State) : Out :=
  rrBeats s b a d 4 remSigned

/-- R287, R258, R285. REMN: four beats. -/
def execRemn (b a d : BitVec 7) (s : State) : Out :=
  rrBeats s b a d 4 remNat

/-- R287. SLT. -/
def execSlt (b a d : BitVec 7) (s : State) : Out :=
  rr s b a d fun a b => bool1 (a.slt b)

/-- R287. SLTN. -/
def execSltn (b a d : BitVec 7) (s : State) : Out :=
  rr s b a d fun a b => bool1 (a.ult b)

/-- R287. SEQ. -/
def execSeq (b a d : BitVec 7) (s : State) : Out :=
  rr s b a d fun a b => bool1 (decide (a = b))

/-! ## Shift-add, unary and bit-field (R288) -/

/-- R288. LEA: ga + gb shifted left by h. -/
def execLea (h : BitVec 4) (b a d : BitVec 7) (s : State) : Out :=
  rr s b a d fun a b => a + (b <<< h.toNat)

/-- R288. CLZ: leading zeros. -/
def execClz (a d : BitVec 7) (s : State) : Out :=
  r1 s a d true clzWord

/-- R288. CTZ: trailing zeros. -/
def execCtz (a d : BitVec 7) (s : State) : Out :=
  r1 s a d true (fun a => BitVec.ofNat 64 (ctzN a 64 0))

/-- R288. POPC: set bits. -/
def execPopc (a d : BitVec 7) (s : State) : Out :=
  r1 s a d true (fun a => BitVec.ofNat 64 (popN a 64))

/-- R288. BREV: bits reversed. -/
def execBrev (a d : BitVec 7) (s : State) : Out :=
  r1 s a d true brevWord

/-- R288. BSWAP: bytes reversed. -/
def execBswap (a d : BitVec 7) (s : State) : Out :=
  r1 s a d true bswapWord

/-- R288, R270. EXTS: width is the b field plus one, at most 64. -/
def execExts (w a d : BitVec 7) (s : State) : Out :=
  r1 s a d (decide (w.toNat < 64)) fun a => extract a (w.toNat + 1) true

/-- R288, R270. EXTZ: width is the b field plus one, at most 64. -/
def execExtz (w a d : BitVec 7) (s : State) : Out :=
  r1 s a d (decide (w.toNat < 64)) fun a => extract a (w.toNat + 1) false

/-- R288. BFX. -/
def execBfx (l : BitVec 5) (p : BitVec 6) (a d : BitVec 7) (s : State) : Out :=
  r1 s a d (okBitField l p) fun a => (a >>> p.toNat) &&& maskAt 0 (l.toNat + 1)

/-- R288. BFI: gd with a field replaced by the low bits of ga. -/
def execBfi (l : BitVec 5) (p : BitVec 6) (a d : BitVec 7) (s : State) : Out :=
  issue s [a, d] [d] (okBitField l p) fun s =>
    let m := maskAt p.toNat (l.toNat + 1)
    retire (s.setG d ((s.g d &&& ~~~m) ||| ((s.g a <<< p.toNat) &&& m))) false 1

/-! ## Immediates and constants (R289, R290) -/

/-- R289. ADDI. -/
def execAddi (i : BitVec 11) (a d : BitVec 7) (s : State) : Out :=
  r1 s a d true fun a => a + sx i

/-- R289. ANDI. -/
def execAndi (i : BitVec 11) (a d : BitVec 7) (s : State) : Out :=
  r1 s a d true fun a => a &&& sx i

/-- R289. ORI. -/
def execOri (i : BitVec 11) (a d : BitVec 7) (s : State) : Out :=
  r1 s a d true fun a => a ||| sx i

/-- R289. XORI. -/
def execXori (i : BitVec 11) (a d : BitVec 7) (s : State) : Out :=
  r1 s a d true fun a => a ^^^ sx i

/-- R289. SLTI. -/
def execSlti (i : BitVec 11) (a d : BitVec 7) (s : State) : Out :=
  r1 s a d true fun a => bool1 (a.slt (sx i))

/-- R289. SLTNI. -/
def execSltni (i : BitVec 11) (a d : BitVec 7) (s : State) : Out :=
  r1 s a d true fun a => bool1 (a.ult (sx i))

/-- R289. MULI. -/
def execMuli (i : BitVec 11) (a d : BitVec 7) (s : State) : Out :=
  r1 s a d true fun a => a * sx i

/-- R289. SHLI. -/
def execShli (n : BitVec 6) (a d : BitVec 7) (s : State) : Out :=
  r1 s a d true fun a => a <<< n.toNat

/-- R289. SHRI. -/
def execShri (n : BitVec 6) (a d : BitVec 7) (s : State) : Out :=
  r1 s a d true fun a => a >>> n.toNat

/-- R289. SARI. -/
def execSari (n : BitVec 6) (a d : BitVec 7) (s : State) : Out :=
  r1 s a d true fun a => a.sshiftRight n.toNat

/-- R290. LI. -/
def execLi (i : BitVec 18) (d : BitVec 7) (s : State) : Out :=
  issue s [] [d] true fun s => retire (s.setG d (sx i)) false 1

/-- R290. LIX: gd times 2^18 plus a natural immediate. -/
def execLix (i : BitVec 18) (d : BitVec 7) (s : State) : Out :=
  issue s [d] [d] true fun s => retire (s.setG d ((s.g d <<< 18) + zx i)) false 1

/-- R290. ADDPC: the address of the slot plus four times the immediate. -/
def execAddpc (i : BitVec 18) (d : BitVec 7) (s : State) : Out :=
  issue s [] [d] true fun s =>
    retire (s.setG d ((slotAddr s.th.pc).setWidth 64 + BitVec.ofInt 64 (4 * i.toInt))) false 1

/-! ## Branches, jumps and loops (R291 to R293) -/

/-- R291. BZ. -/
def execBz (i : BitVec 16) (a : BitVec 7) (s : State) : Out :=
  branch s false a i.toInt fun v => decide (v = 0)

/-- R291. BNZ. -/
def execBnz (i : BitVec 16) (a : BitVec 7) (s : State) : Out :=
  branch s false a i.toInt fun v => decide (v ≠ 0)

/-- R291. BLTZ. -/
def execBltz (i : BitVec 16) (a : BitVec 7) (s : State) : Out :=
  branch s false a i.toInt fun v => v.msb

/-- R291. BGEZ. -/
def execBgez (i : BitVec 16) (a : BitVec 7) (s : State) : Out :=
  branch s false a i.toInt fun v => !v.msb

/-- R292. JAL. -/
def execJal (i : BitVec 18) (d : BitVec 7) (s : State) : Out :=
  issue s [] [d] true fun s =>
    let pc := s.th.pc
    jumpTo (s.setG d ((nextSlot pc).setWidth 64)) (branchTo pc i.toInt)

/-- R292. JALR. -/
def execJalr (i : BitVec 11) (a d : BitVec 7) (s : State) : Out :=
  jumpReg s a d (BitVec.ofInt 64 (4 * i.toInt))

/-- R293. LOOP: ga := ga - 1, and a branch while it is not zero; a = 0 raises ILLEGAL. -/
def execLoop (i : BitVec 16) (a : BitVec 7) (s : State) : Out :=
  issue s [a] [a] (okLoop a) fun s =>
    let v := s.g a - 1
    let s' := s.setG a v
    if v ≠ 0 then jumpTo s' (branchTo s.th.pc i.toInt) else retire s' false 1

/-! ## Compact instructions (R264) -/

/-- R264. c.mov: OR gd, ga, g0. -/
def execCMov (a d : BitVec 5) (s : State) : Out :=
  crr s (r5 a) 0 (r5 d) fun x y => x ||| y

/-- R264. c.add: ADD gd, gd, ga. -/
def execCAdd (a d : BitVec 5) (s : State) : Out :=
  crr s (r5 d) (r5 a) (r5 d) fun x y => x + y

/-- R264. c.sub: SUB gd, gd, ga. -/
def execCSub (a d : BitVec 5) (s : State) : Out :=
  crr s (r5 d) (r5 a) (r5 d) fun x y => x - y

/-- R264. c.and: AND gd, gd, ga. -/
def execCAnd (a d : BitVec 5) (s : State) : Out :=
  crr s (r5 d) (r5 a) (r5 d) fun x y => x &&& y

/-- R264. c.or: OR gd, gd, ga. -/
def execCOr (a d : BitVec 5) (s : State) : Out :=
  crr s (r5 d) (r5 a) (r5 d) fun x y => x ||| y

/-- R264. c.xor: XOR gd, gd, ga. -/
def execCXor (a d : BitVec 5) (s : State) : Out :=
  crr s (r5 d) (r5 a) (r5 d) fun x y => x ^^^ y

/-- R264. c.shl: SHL gd, gd, ga. -/
def execCShl (a d : BitVec 5) (s : State) : Out :=
  crr s (r5 d) (r5 a) (r5 d) fun x y => x <<< (y.toNat % 64)

/-- R264. c.shr: SHR gd, gd, ga. -/
def execCShr (a d : BitVec 5) (s : State) : Out :=
  crr s (r5 d) (r5 a) (r5 d) fun x y => x >>> (y.toNat % 64)

/-- R264. c.sar: SAR gd, gd, ga. -/
def execCSar (a d : BitVec 5) (s : State) : Out :=
  crr s (r5 d) (r5 a) (r5 d) fun x y => x.sshiftRight (y.toNat % 64)

/-- R264. c.slt: SLT gd, gd, ga. -/
def execCSlt (a d : BitVec 5) (s : State) : Out :=
  crr s (r5 d) (r5 a) (r5 d) fun x y => bool1 (x.slt y)

/-- R264. c.seq: SEQ gd, gd, ga. -/
def execCSeq (a d : BitVec 5) (s : State) : Out :=
  crr s (r5 d) (r5 a) (r5 d) fun x y => bool1 (decide (x = y))

/-- R264. c.min: MIN gd, gd, ga. -/
def execCMin (a d : BitVec 5) (s : State) : Out :=
  crr s (r5 d) (r5 a) (r5 d) fun x y => pick (x.sle y) x y

/-- R264. c.max: MAX gd, gd, ga. -/
def execCMax (a d : BitVec 5) (s : State) : Out :=
  crr s (r5 d) (r5 a) (r5 d) fun x y => pick (x.sle y) y x

/-- R264. c.addi. -/
def execCAddi (i d : BitVec 5) (s : State) : Out :=
  cr1 s (r5 d) fun x => x + sx i

/-- R264. c.andi. -/
def execCAndi (i d : BitVec 5) (s : State) : Out :=
  cr1 s (r5 d) fun x => x &&& sx i

/-- R264. c.shli. -/
def execCShli (n d : BitVec 5) (s : State) : Out :=
  cr1 s (r5 d) fun x => x <<< n.toNat

/-- R264. c.shri. -/
def execCShri (n d : BitVec 5) (s : State) : Out :=
  cr1 s (r5 d) fun x => x >>> n.toNat

/-- R264. c.sari. -/
def execCSari (n d : BitVec 5) (s : State) : Out :=
  cr1 s (r5 d) fun x => x.sshiftRight n.toNat

/-- R264. c.li. -/
def execCLi (i d : BitVec 5) (s : State) : Out :=
  issue s [] [r5 d] true fun s => retire (s.setG (r5 d) (sx i)) true 1

/-- R264. c.neg: SUB gd, g0, ga. -/
def execCNeg (a d : BitVec 5) (s : State) : Out :=
  crr s 0 (r5 a) (r5 d) fun x y => x - y

/-- R264. c.not: ORN gd, g0, ga. -/
def execCNot (a d : BitVec 5) (s : State) : Out :=
  crr s 0 (r5 a) (r5 d) fun x y => x ||| ~~~y

/-- R264, R291. c.bz. -/
def execCBz (i d : BitVec 5) (s : State) : Out :=
  branch s true (r5 d) i.toInt fun v => decide (v = 0)

/-- R264, R291. c.bnz. -/
def execCBnz (i d : BitVec 5) (s : State) : Out :=
  branch s true (r5 d) i.toInt fun v => decide (v ≠ 0)

/-- R264. c.j: JAL g0 with a 10-bit displacement. -/
def execCJ (i : BitVec 10) (s : State) : Out :=
  issue s [] [] true fun s => jumpTo s (branchTo s.th.pc i.toInt)

/-- R264. c.jr: JALR g0, ga, 0. -/
def execCJr (a : BitVec 5) (s : State) : Out := jumpReg s (r5 a) 0 0

end Sys2Proof.Machine
end

