-- ==== Sys2Proof/Machine/Service.lean ====
section
/-! DEFINITION. The built-in services of controllers and network interfaces: tile read, tile write (R208, R406) and bulk
memory (R70). -/

namespace Sys2Proof.Machine

/-! ## Servers -/

/-- The home a server serves: its controller; or the local store of its core and the scratchpad of its creel. -/
def servesHome (server : BitVec 32) (h : Home) : Bool :=
  let c := addrCore server
  match h with
  | .control d cap north =>
    decide (d = addrDie server ∧ addrNode server = (if cap then 13 else 12) ∧ addrLocalY server = (if north then 31 else 0))
  | .store o => addrNis server && decide (o = c)
  | .scratch k => addrNis server && !c.isLengthsman && decide (k = c.creel)
  | .device _ => false

/-- A server's answer to a request, POISON set where it delivers data with an uncorrectable error (R47). -/
def answerRequest (s : State) (server client : BitVec 32) (ty lfmt : Byte) (poison : Bool) (payload : List Byte) : State :=
  match convFind s server client with
  | none => s
  | some c =>
    let m : Msg := ⟨ty, flitsOf payload.length, true, payload.length, client, server, c.sseq, 1,
      lfmt ||| (if poison then 0x20 else 0), 0, payload⟩
    modConv (sendMsg s m) server client fun c => { c with sseq := c.sseq + 1, busy := false }

/-! ## Tiles (R208, R406) -/

/-- EXT of dimension d of a TREQ. -/
def tqExt (p : List Byte) (d : Nat) : Nat := fieldAt p (12 + 2 * d) 2
/-- STR of dimension d. -/
def tqStr (p : List Byte) (d : Nat) : Int := signedOf 32 (fieldAt p (20 + 4 * d) 4)
/-- RANK. -/
def tqRank (p : List Byte) : Nat := fieldAt p 8 1
/-- ET. -/
def tqEt (p : List Byte) : Nat := fieldAt p 9 1
/-- LFMT. -/
def tqLfmt (p : List Byte) : Nat := fieldAt p 10 1

/-- Elements of a tile. -/
def tqCount (p : List Byte) : Nat := ((List.range (tqRank p)).map (tqExt p)).foldl (· * ·) 1

/-- Bytes of a tile on the link. -/
def tqBytes (p : List Byte) : Nat := (tqCount p * formatBits (if tqLfmt p = 0 then tqEt p else tqLfmt p) + 7) / 8

/-- R406, status 4. Are the fields in range, and the zero fields zero? -/
def tqFields (p : List Byte) : Bool :=
  decide (40 ≤ p.length ∧ 1 ≤ tqRank p ∧ tqRank p ≤ 4 ∧ 1 ≤ tqEt p ∧ tqEt p ≤ 11) &&
    (decide (tqLfmt p = 0) || linkAllowed (tqEt p) (tqLfmt p)) && (List.range 4).all (fun d => decide (1 ≤ tqExt p d)) &&
    decide (fieldAt p 11 1 = 0 ∧ fieldAt p 36 4 = 0)

/-- The offset in elements of element i in walk order, dimension 0 innermost. -/
def tqOffset (p : List Byte) (i : Nat) : Int :=
  ((List.range (tqRank p)).foldl (fun (a : Int × Nat) d =>
    (a.1 + tqStr p d * ((a.2 % tqExt p d : Nat) : Int), a.2 / tqExt p d)) (0, i)).1

/-- The address in half bytes of element i. -/
def tqNibble (p : List Byte) (i : Nat) : Int :=
  2 * (fieldAt p 0 8 : Int) + tqOffset p i * ((formatBits (tqEt p) / 4 : Nat) : Int)

/-- Bytes that an element touches. -/
def tqWidth (p : List Byte) : Nat := max 1 (formatBits (tqEt p) / 8)

/-- Where an element lies. -/
structure TilePlace where
  pa : Nat
  high : Bool
  deriving DecidableEq, Repr

/-- The places of a tile's elements in walk order; an address below zero is beyond every home. -/
def tqPlaces (p : List Byte) : List TilePlace :=
  (List.range (tqCount p)).map fun i =>
    let n := tqNibble p i
    if n < 0 then ⟨2 ^ 60, false⟩ else ⟨n.toNat / 2, decide (n.toNat % 2 = 1)⟩

/-- R406. The status of a tile request: 0, or the first of 4, 3, 1, 2 and 5 that holds. -/
def tqStatus (s : State) (server : BitVec 32) (p : List Byte) : Nat :=
  if !tqFields p then 4
  else if 4136 < tqBytes p then 3
  else
    let w := tqWidth p
    let ps := tqPlaces p
    let page := fieldAt p 0 8 / 65536
    if ps.any fun x => decide (x.pa / 65536 ≠ page ∨ (x.pa + w - 1) / 65536 ≠ page) then 1
    else if ps.any fun x => (homeWithin s x.pa).isNone || (homeWithin s (x.pa + w - 1)).isNone then 2
    else if ps.any fun x => match homeWithin s x.pa with
        | some h => !servesHome server h
        | none => true then 5
    else 0

/-- The value and sticky bit of the element at a place. -/
def tileElem (s : State) (et : Nat) (x : TilePlace) : Nat × Bool :=
  let v := fieldAt (readBytes s x.pa (max 1 (formatBits et / 8))) 0 (max 1 (formatBits et / 8))
  (if formatBits et = 4 then (if x.high then v / 16 else v % 16) else v, etTagged et && tagAt s x.pa)

/-- A state in which no thread stands behind a conversion at a server: rounding to nearest, FMT zero (DEDUCED, log 36). -/
def asServer (s : State) (server : BitVec 32) : State := { s with cur := ⟨addrCore server, 16⟩ }

/-- R208, R406. TREQ: answered with TILE, or with TREF and the status. -/
def execTreq (m : Msg) (s : State) : Out :=
  let p := m.payload
  .next (match tqStatus s m.dst p with
  | 0 =>
    let et := tqEt p
    let lf := if tqLfmt p = 0 then et else tqLfmt p
    let ps := tqPlaces p
    let outs := (ps.zip (List.range ps.length)).map fun (x, i) =>
      let (v, b) := tileElem s et x
      (linkOut (asServer s m.dst) et (tqLfmt p) i (some (v, b))).1
    let poison := ps.any fun x => poisoned s x.pa (tqWidth p)
    let s := ps.foldl (fun s x => noteRead s x.pa (tqWidth p)) s
    answerRequest s m.dst m.src 0xE1 (BitVec.ofNat 8 (tqLfmt p)) poison (packBits (formatBits lf) outs)
  | n => answerRequest s m.dst m.src 0xE3 0 false [BitVec.ofNat 8 n])

/-- One element of a tile write performed at its home. -/
def tilePut (s : State) (et : Nat) (x : TilePlace) (v : Nat) : State :=
  if formatBits et = 4 then mirror (performNibble s x.pa x.high (BitVec.ofNat 4 v)) x.pa 1
  else
    let n := formatBits et / 8
    mirror (performWrite s x.pa (leBytes n v) false) x.pa n

/-- R208. TWRITE: the fields of a TREQ, then the elements in walk order (DEDUCED, log 33); performed and answered TWACK, or TREF
and the status. A write that would meet an uncorrectable error in part of a check unit leaves it so (R424). -/
def execTwrite (m : Msg) (s : State) : Out :=
  let p := m.payload
  let bad := if decide (p.length < 40) || decide (tqFields p ∧ tqBytes p ≤ 4136 ∧ p.length ≠ 40 + tqBytes p) then 4
    else tqStatus s m.dst p
  .next (match bad with
  | 0 =>
    let et := tqEt p
    let lf := if tqLfmt p = 0 then et else tqLfmt p
    let ps := tqPlaces p
    let data := p.drop 40
    let s' := (ps.zip (List.range ps.length)).foldl (fun s (x, i) =>
      if partialPoison s x.pa (tqWidth p) (tqWidth p) then s
      else tilePut s et x (linkIn s ⟨addrCore m.dst, 16⟩ et (tqLfmt p) (unpackBits (formatBits lf) data i))) s
    answerRequest s' m.dst m.src 0xE5 0 false []
  | n => answerRequest s m.dst m.src 0xE3 0 false [BitVec.ofNat 8 n])

/-- R208. TBYE: the conversation stands at END, and its credit is returned (R203). -/
def execTbye (m : Msg) (s : State) : Out :=
  .next (match convFind s m.dst m.src with
  | none => s
  | some c => serverSend (modConv s m.dst m.src fun c => { c with ended := true }) m.dst m.src 0xFC c.sseq 1 [])

/-! ## Bulk memory (R70) -/

/-- The client of a bulk conversation whose request is performed. -/
def bulkClient (s : State) (server : BitVec 32) : Option (BitVec 32) :=
  (s.convs.find? fun c => decide (c.server = server) && c.busy).map (·.client)

/-- R70. The status of a bulk request of n bytes: 0x03, 0x01, 0x02 in that order, or 0. -/
def bulkStatus (s : State) (server : BitVec 32) (pa n most : Nat) : Nat :=
  if n = 0 ∨ most < n then 3
  else
    let at_ (i : Nat) : Option Home := homeWithin s (pa + i)
    if (List.range n).any fun i => match at_ i with
        | none => true
        | some (.device _) => true
        | _ => false then 1
    else if (List.range n).any fun i => match at_ i with
        | some h => !servesHome server h
        | none => true then 2
    else 0

/-- The answer of a bulk server to the client whose request it performs. -/
def bulkAnswer (s : State) (server : BitVec 32) (ty : Byte) (poison : Bool) (payload : List Byte) : State :=
  match bulkClient s server with
  | none => s
  | some c => answerRequest s server c ty 0 poison payload

/-- R70. READ. -/
def execBulkRead (server : BitVec 32) (pa len : Nat) (s : State) : Out :=
  .next (match bulkStatus s server pa len 4096 with
  | 0 => bulkAnswer (noteRead s pa len) server 0x31 (poisoned s pa len) (readBytes s pa len)
  | n => bulkAnswer s server 0x34 false [BitVec.ofNat 8 n])

/-- R70, R239. WRITE: the tag bits of every word written become clear. -/
def execBulkWrite (server : BitVec 32) (pa : Nat) (data : List Byte) (s : State) : Out :=
  let n := data.length
  .next (match bulkStatus s server pa n 4088 with
  | 0 =>
    if partialPoison s pa n n then bulkAnswer s server 0x34 false [4]
    else
      let s := performWrite s pa data false
      let a := pa / 8 * 8
      let m := (pa + n + 7) / 8 * 8 - a
      bulkAnswer (mirror { s with bits := clearTags s.bits a m } a m) server 0x33 false []
  | n => bulkAnswer s server 0x34 false [BitVec.ofNat 8 n])

end Sys2Proof.Machine
end

