-- ==== Sys2Proof/Machine/Tasks.lean ====
section
/-! DEFINITION. Task instructions: major 47, m 0 to 2 (R97, R103, R107, R341), and what answers an ENQ. -/

namespace Sys2Proof.Machine

/-! ## ENQ (R97, R341) -/

/-- Where a packet goes: the team's own ring on the issuing creel, a child team, or nowhere (R97). -/
inductive EnqTo where
  | own
  | child (k : TeamKey)
  | refused
  deriving DecidableEq, Repr

/-- R97. The target of a packet of a thread. -/
def enqTarget (s : State) (th : Thread) (pkt : List Byte) : EnqTo :=
  match th.key with
  | none => .refused
  | some k =>
    let r := recordOf s k.lslot
    let c : TeamKey := ⟨k.lslot, pkLevel pkt, pkTeam pkt⟩
    if c = k then .own
    else if c.level = k.level + 1 ∧ 0 < lvTiles r c.level ∧ parentKey r c = some k then .child c
    else .refused

/-- LEVELS of a thread's launch, for the checks of R95. -/
def threadLevels (s : State) (th : Thread) : Nat :=
  match th.key with
  | some k => lnLevels (recordOf s k.lslot)
  | none => 8

/-- The creel that a team's packets are enqueued on, while it takes packets in this instance (R93, R109). -/
def openHead (s : State) (k : TeamKey) : Option CreelId :=
  match s.teams.find k with
  | some t =>
    if resident t then (teamHead s t).bind fun c => if (doneOf s c k).sent then none else some c else none
  | none => none

/-- A packet written into a ring of a creel now, with the code given, or 2 when the ring is full. -/
def enqueueHere (s : State) (c : CreelId) (k : TeamKey) (pkt : List Byte) (code : Nat) : State × Nat :=
  let p := lnPrio (recordOf s k.lslot)
  match ringRoom s c p (pkLen pkt) with
  | some pads => (ringPut s c p pads s.cyc pkt, code)
  | none => (s, 2)

/-- R93. A packet into the pending store: 1, or 2 when it is full. Its team exists from now on. -/
def enqueuePending (s : State) (k : TeamKey) (pkt : List Byte) : State × Nat :=
  if pendUnits s k.lslot + pkLen pkt ≤ pendLimit then
    let s := ensureTeam { s with pending := s.pending ++ [⟨k, pkt, none, false, false⟩] } 9 k
    (retryTeams s fun q => decide (q.lslot = k.lslot), 1)
  else (s, 2)

/-- The ENQ of the current thread waits for its answer. -/
def enqWait (s : State) (wait : Nat) (k : TeamKey) (pkt : List Byte) : State :=
  (parkOn s .answer).after wait (.event (.enqRemoteArrival s.cur k pkt))

/-- What ENQ does when the last unit has been read. -/
def enqPacket (s : State) (d : BitVec 7) (pkt : List Byte) (extra : Nat) : State :=
  let th := s.th
  let c := s.cur.core.creel
  let answer (r : State × Nat) : State := retire (r.1.setG d (BitVec.ofNat 64 r.2)) false (1 + extra)
  -- a ring of this creel: the last unit is read again in the slot that serves the write
  let put (k : TeamKey) (code : Nat) : State :=
    if ringWaits s c (lnPrio (recordOf s k.lslot)) (pkLen pkt) && decide (th.delay ≠ 2) then
      portDelay (s.mod fun th => { th with gathered := th.gathered.dropLast }) 1 true
    else answer (enqueueHere s c k pkt code)
  if !packetOk pkt (threadLevels s th) then answer (count s s.cur.core.die 9, 4)
  else match enqTarget s th pkt with
  | .refused => answer (s, 3)
  | .own => (match th.key with
    | some k => put k 0
    | none => answer (s, 3))
  | .child k =>
    match openHead s k with
    | some h => if h = c then put k 1 else enqWait s (meshCycles c.x c.y h.x h.y) k pkt
    | none => enqWait s.drawn (1 + Config.delay s.free) k pkt

/-- R341. ENQ: a release; one unit a beat, then the answer of the target queue; not inside a static region (R178). -/
def execEnq (a d : BitVec 7) (s : State) : Out :=
  issue s [a] [d] s.free? fun s =>
    match s.th.answer with
    | some v => retire (s.setG d v) false 1
    | none =>
      let off := (s.g a).toNat
      let i := s.th.gathered.length
      let head (s : State) : List Byte := (s.th.gathered.find? fun x => decide (x.1 = 0)).elim [] (·.2)
      let unit (s : State) (pa len : Nat) : State :=
        selfRead s (pa + 64 * i) 64 fun s => inPort s (pa + 64 * i) 64 false fun s =>
          let u := readBytes s (pa + 64 * i) 64
          let (s, extra) := scalarRun s (pa + 64 * i) false
          let s := s.mod fun th => { th with gathered := th.gathered ++ [(i, u)] }
          if i + 1 < len then nextBeat s extra
          else enqPacket s d (s.th.gathered.flatMap fun x => x.2) extra
      let lenOf (p : List Byte) : Nat := if 1 ≤ pkLen p ∧ pkLen p ≤ 4 then pkLen p else 1
      if i = 0 then
        selfOperand s off 64 64 fun s pa =>
          let len := lenOf (readBytes s pa 64)
          selfOperand s off (64 * len) 64 fun s pa => ordered s false true fun s => unit s pa len
      else selfOperand s off 64 64 fun s pa => unit s pa (lenOf (head s))

/-- R97. An ENQ reaches the queue of a child's creel, or the firmware, which keeps a packet of a team that is not placed in
the pending store (R93); its answer leaves. -/
def execEnqRemoteArrival (t : ThreadId) (k : TeamKey) (pkt : List Byte) (s : State) : Out :=
  let c := t.core.creel
  .next (match openHead s k with
    | some h =>
      if ringWaits s h (lnPrio (recordOf s k.lslot)) (pkLen pkt) then
        (count s h.die 70).at (copyEnd s h + 1) (.event (.enqRemoteArrival t k pkt))
      else
      let (s, code) := enqueueHere s h k pkt 1
      s.after (1 + meshCycles h.x h.y c.x c.y) (.event (.enqAnswer t code))
    | none =>
      if updateHolds s then holdEvent s (.enqRemoteArrival t k pkt)
      else
        let (s, code) := enqueuePending s k pkt
        s.drawn.after (1 + Config.delay s.free) (.event (.enqAnswer t code)))

/-- R341. The answer of an ENQ completes it. -/
def execEnqAnswer (t : ThreadId) (code : Nat) (s : State) : Out :=
  .next (if (threadOf s t).wait = .redo .answer then
      (modThread s t fun th => { th with answer := some (BitVec.ofNat 64 code) }).at s.cyc (.redo t)
    else s)

/-! ## TDONE (R103, R107, R108, R341) -/

/-- Is a thread a dispatched task: neither started by SLOT_START nor a handler? -/
def isTask (th : Thread) : Bool := th.key.isSome && !th.started && th.handler.isNone

/-- R107. The task record of a creel, or the drop of one that finds the ring full. -/
def taskRecord (s : State) (t : ThreadId) (word : Nat) : State :=
  let k := t.core.creel
  let c := creelOf s k
  let th := threadOf s t
  if !c.trecCtl.getLsbD 0 then s
  else
    let n := 2 ^ (c.trecCtl.extractLsb' 1 5).toNat
    if n ≤ (c.trecWr + 2 ^ 32 - c.trecRd) % 2 ^ 32 then count s k.die 64
    else
      let pa := (c.trecCtl.extractLsb' 12 40).toNat * 4096 + 32 * (c.trecWr % n)
      let bs := leBytes 8 th.estamp ++ leBytes 8 th.dstamp ++ leBytes 8 s.cyc ++ leBytes 4 th.task.toNat ++
        leBytes 2 th.team.toNat ++ leBytes 1 th.level.toNat ++ leBytes 1 (whereOf t th.stolen word)
      let s := modCreel s k fun c => { c with trecWr := (c.trecWr + 1) % 2 ^ 32 }
      match homeOf s pa with
      | some (.control _ false _) => writeBytes s pa bs false
      | _ => s

/-- R114. What the team keeps of its tasks' run times. -/
def addRun (s : State) (th : Thread) : State :=
  match th.key with
  | some k => modTeam s k fun t => { t with runSum := t.runSum + (s.cyc - th.dstamp), runN := t.runN + 1 }
  | none => s

/-- R103. A task retires with a status word. -/
def retireTask (s : State) (word : Word) : State :=
  let t := s.cur
  let w : BitVec 32 := word.extractLsb' 0 32 &&& 0x0FFFFFFF#32
  let s := if isTask s.th then addRun (taskRecord (traceTask s t 5 (whereOf t s.th.stolen w.toNat) w.toNat) t w.toNat) s.th
    else s
  leave (joinDone s t w) t

/-- R341. TDONE; not inside a static region (R178). -/
def execTdone (a : BitVec 7) (s : State) : Out :=
  issue s [a] [] s.free? fun s =>
    let w := s.g a
    ending s fun s => retireTask s w

/-! ## PROGRESS (R114, R341) -/

/-- R341. PROGRESS. -/
def execProgress (a : BitVec 7) (s : State) : Out :=
  issue s [a] [] true fun s =>
    let n := (s.g a).toNat % 256
    let s := match s.th.key with
      | some k => modTeam s k fun t => { t with progress := t.progress + BitVec.ofNat 64 n }
      | none => s
    retire (s.mod fun th => { th with progress := min 255 (th.progress + n) }) false 1

end Sys2Proof.Machine
end

