-- ==== Sys2Proof/Machine/Dispatch.lean ====
section
/-! DEFINITION. The meaning of an instruction or event: one arm for each constructor of `Instr`. -/

namespace Sys2Proof.Machine

/-- The step's outcome of an instruction of the current thread, or of an event. -/
def exec (i : Instr) (s : State) : Host.Outcome State Fault Refusal :=
  match i with
  | .moorReqRise => Sys2Proof.Machine.execMoorReqRise s
  | .moorReqFall => Sys2Proof.Machine.execMoorReqFall s
  | .powerGood => Sys2Proof.Machine.execPowerGood s
  | .supplyRemoved => Sys2Proof.Machine.execSupplyRemoved s
  | .bringupPhaseComplete r => Sys2Proof.Machine.execBringupPhaseComplete r s
  | .pwrCmdStandby => Sys2Proof.Machine.execPwrCmdStandby s
  | .pwrCmdWake => Sys2Proof.Machine.execPwrCmdWake s
  | .pwrCmdIdle => Sys2Proof.Machine.execPwrCmdIdle s
  | .pwrCmdRun => Sys2Proof.Machine.execPwrCmdRun s
  | .pwrCmdMoor => Sys2Proof.Machine.execPwrCmdMoor s
  | .pwrCmdResume => Sys2Proof.Machine.execPwrCmdResume s
  | .pwrCmdInvalid c => Sys2Proof.Machine.execPwrCmdInvalid c s
  | .standbyEntryComplete => Sys2Proof.Machine.execStandbyEntryComplete s
  | .idleEntryComplete => Sys2Proof.Machine.execIdleEntryComplete s
  | .runEntryComplete => Sys2Proof.Machine.execRunEntryComplete s
  | .pwrLimitWrite v => Sys2Proof.Machine.execPwrLimitWrite v s
  | .pwrMaskWrite n v => Sys2Proof.Machine.execPwrMaskWrite n v s
  | .powerWindowEnd watts => Sys2Proof.Machine.execPowerWindowEnd watts s
  | .moorEntryComplete => Sys2Proof.Machine.execMoorEntryComplete s
  | .moorEntryTimeout lost => Sys2Proof.Machine.execMoorEntryTimeout lost s
  | .resumptionComplete bad => Sys2Proof.Machine.execResumptionComplete bad s
  | .dieLinkReplay edge link => Sys2Proof.Machine.execDieLinkReplay edge link s
  | .dieLinkRetrain edge link => Sys2Proof.Machine.execDieLinkRetrain edge link s
  | .dieLinkRetrainEnd edge link ok => Sys2Proof.Machine.execDieLinkRetrainEnd edge link ok s
  | .ethFrameReceive port f => Sys2Proof.Machine.execEthFrameReceive port f s
  | .pfcPauseReceive port prio pause => Sys2Proof.Machine.execPfcPauseReceive port prio pause s
  | .arpRequest port ip => Sys2Proof.Machine.execArpRequest port ip s
  | .neighbourSolicitation port ip => Sys2Proof.Machine.execNeighbourSolicitation port ip s
  | .ethLinkUp port => Sys2Proof.Machine.execEthLinkUp port s
  | .ethCfgWrite port v => Sys2Proof.Machine.execEthCfgWrite port v s
  | .ethHostPersist => Sys2Proof.Machine.execEthHostPersist s
  | .ethHostPortWrite p => Sys2Proof.Machine.execEthHostPortWrite p s
  | .modSelfWrite m => Sys2Proof.Machine.execModSelfWrite m s
  | .walkEntryReply walk entry status => Sys2Proof.Machine.execWalkEntryReply walk entry status s
  | .tlbMigEntryExpiry c asid vpage size => Sys2Proof.Machine.execTlbMigEntryExpiry c asid vpage size s
  | .tsdCtlShootdown t v => Sys2Proof.Machine.execTsdCtlShootdown t v s
  | .shootdownReceive c sd => Sys2Proof.Machine.execShootdownReceive c sd s
  | .shootdownCreelDone c sd => Sys2Proof.Machine.execShootdownCreelDone c sd s
  | .shootdownCompletion t => Sys2Proof.Machine.execShootdownCompletion t s
  | .migrationEpochEnd die => Sys2Proof.Machine.execMigrationEpochEnd die s
  | .migrationLineCopy die move => Sys2Proof.Machine.execMigrationLineCopy die move s
  | .migrationCommit die move => Sys2Proof.Machine.execMigrationCommit die move s
  | .migrationFrameRelease die ring frame => Sys2Proof.Machine.execMigrationFrameRelease die ring frame s
  | .migFreeWrite die ring v => Sys2Proof.Machine.execMigFreeWrite die ring v s
  | .migRbaseWrite die ring v => Sys2Proof.Machine.execMigRbaseWrite die ring v s
  | .towlineData session seq acknum ece m => Sys2Proof.Machine.execTowlineData session seq acknum ece m s
  | .towlineAck session acknum ece => Sys2Proof.Machine.execTowlineAck session acknum ece s
  | .towlineOpen session => Sys2Proof.Machine.execTowlineOpen session s
  | .towlineReset session => Sys2Proof.Machine.execTowlineReset session s
  | .towlineRetransmitTimeout session seq => Sys2Proof.Machine.execTowlineRetransmitTimeout session seq s
  | .regRead addr => Sys2Proof.Machine.execRegRead addr s
  | .regWrite addr v => Sys2Proof.Machine.execRegWrite addr v s
  | .fwWrite slot off data => Sys2Proof.Machine.execFwWrite slot off data s
  | .fwActivate => Sys2Proof.Machine.execFwActivate s
  | .noticeAck => Sys2Proof.Machine.execNoticeAck s
  | .launch rec => Sys2Proof.Machine.execLaunch rec s
  | .bulkRead server pa len => Sys2Proof.Machine.execBulkRead server pa len s
  | .bulkWrite server pa data => Sys2Proof.Machine.execBulkWrite server pa data s
  | .getVersion => Sys2Proof.Machine.execGetVersion s
  | .getCapabilities => Sys2Proof.Machine.execGetCapabilities s
  | .negotiateAlgorithms => Sys2Proof.Machine.execNegotiateAlgorithms s
  | .getDigests => Sys2Proof.Machine.execGetDigests s
  | .getCertificate slot off len => Sys2Proof.Machine.execGetCertificate slot off len s
  | .challenge nonce => Sys2Proof.Machine.execChallenge nonce s
  | .getMeasurements index sign nonce => Sys2Proof.Machine.execGetMeasurements index sign nonce s
  | .spdmUnsupported code => Sys2Proof.Machine.execSpdmUnsupported code s
  | .fwuQuiesced => Sys2Proof.Machine.execFwuQuiesced s
  | .fwuSigDone t => Sys2Proof.Machine.execFwuSigDone t s
  | .fwuSigFail t => Sys2Proof.Machine.execFwuSigFail t s
  | .fwuHandoverTimeout upd => Sys2Proof.Machine.execFwuHandoverTimeout upd s
  | .fwHbWrite t seq => Sys2Proof.Machine.execFwHbWrite t seq s
  | .fwuHeartbeatTimeout upd => Sys2Proof.Machine.execFwuHeartbeatTimeout upd s
  | .teamPlacement k => Sys2Proof.Machine.execTeamPlacement k s
  | .queueExamination c => Sys2Proof.Machine.execQueueExamination c s
  | .gateTestReply c ring unit gate full => Sys2Proof.Machine.execGateTestReply c ring unit gate full s
  | .dispatchEnterRotation t => Sys2Proof.Machine.execDispatchEnterRotation t s
  | .stealRequest victim thief k => Sys2Proof.Machine.execStealRequest victim thief k s
  | .stealReply thief victim k ring stamp pkt => Sys2Proof.Machine.execStealReply thief victim k ring stamp pkt s
  | .stealBackoffExpiry c => Sys2Proof.Machine.execStealBackoffExpiry c s
  | .doneSend c k => Sys2Proof.Machine.execDoneSend c k s
  | .doneReceive c k word => Sys2Proof.Machine.execDoneReceive c k word s
  | .preReqEstimate v => Sys2Proof.Machine.execPreReqEstimate v s
  | .preReqSave v => Sys2Proof.Machine.execPreReqSave v s
  | .preReqDiscard v => Sys2Proof.Machine.execPreReqDiscard v s
  | .preReqDrain v => Sys2Proof.Machine.execPreReqDrain v s
  | .preReqResume v => Sys2Proof.Machine.execPreReqResume v s
  | .preemptBoundaryStop k => Sys2Proof.Machine.execPreemptBoundaryStop k s
  | .saveComplete k => Sys2Proof.Machine.execSaveComplete k s
  | .snapshotMarker core ep => Sys2Proof.Machine.execSnapshotMarker core ep s
  | .teamRelaunch k => Sys2Proof.Machine.execTeamRelaunch k s
  | .restoreComplete k => Sys2Proof.Machine.execRestoreComplete k s
  | .retCtlRetire c v => Sys2Proof.Machine.execRetCtlRetire c v s
  | .sluiceStart c => Sys2Proof.Machine.execSluiceStart c s
  | .sluiceWaitfitDone c => Sys2Proof.Machine.execSluiceWaitfitDone c s
  | .sluicePinDone c => Sys2Proof.Machine.execSluicePinDone c s
  | .sluiceUnitCopy c => Sys2Proof.Machine.execSluiceUnitCopy c s
  | .bceWrite c reg v => Sys2Proof.Machine.execBceWrite c reg v s
  | .errorCounterWrite die n v => Sys2Proof.Machine.execErrorCounterWrite die n v s
  | .pairedHoldTimeout t item => Sys2Proof.Machine.execPairedHoldTimeout t item s
  | .fenceBoundary k => Sys2Proof.Machine.execFenceBoundary k s
  | .fenceStop k => Sys2Proof.Machine.execFenceStop k s
  | .fenceReset k => Sys2Proof.Machine.execFenceReset k s
  | .boundaryNack m => Sys2Proof.Machine.execBoundaryNack m s
  | .nackReceive m => Sys2Proof.Machine.execNackReceive m s
  | .dbgHalt c => Sys2Proof.Machine.execDbgHalt c s
  | .dbgResume c => Sys2Proof.Machine.execDbgResume c s
  | .dbgStep t => Sys2Proof.Machine.execDbgStep t s
  | .dbgRegRead c off => Sys2Proof.Machine.execDbgRegRead c off s
  | .dbgRegWrite c off v => Sys2Proof.Machine.execDbgRegWrite c off v s
  | .dbgThreadRegRead t n => Sys2Proof.Machine.execDbgThreadRegRead t n s
  | .dbgDumpTeam t level => Sys2Proof.Machine.execDbgDumpTeam t level s
  | .dbgDumpCreel c => Sys2Proof.Machine.execDbgDumpCreel c s
  | .haltCrossTrigger c => Sys2Proof.Machine.execHaltCrossTrigger c s
  | .debugResumePoint c => Sys2Proof.Machine.execDebugResumePoint c s
  | .debugStepComplete t => Sys2Proof.Machine.execDebugStepComplete t s
  | .sampleTick c => Sys2Proof.Machine.execSampleTick c s
  | .slotStart t v => Sys2Proof.Machine.execSlotStart t v s
  | .chpoolWrite core v => Sys2Proof.Machine.execChpoolWrite core v s
  | .statusWrite t v => Sys2Proof.Machine.execStatusWrite t v s
  | .devDataRead t d => Sys2Proof.Machine.execDevDataRead t d s
  | .devDataWrite t v => Sys2Proof.Machine.execDevDataWrite t v s
  | .registerWrite t n v => Sys2Proof.Machine.execRegisterWrite t n v s
  | .bargeTake core => Sys2Proof.Machine.execBargeTake core s
  | .handlerStart core ep => Sys2Proof.Machine.execHandlerStart core ep s
  | .icacheLineFill t va pa bytes status => Sys2Proof.Machine.execIcacheLineFill t va pa bytes status s
  | .repBufferBeat t => Sys2Proof.Machine.execRepBufferBeat t s
  | .wfeTimeout t since => Sys2Proof.Machine.execWfeTimeout t since s
  | .userMessageArrival m => Sys2Proof.Machine.execUserMessageArrival m s
  | .connectMessage m => Sys2Proof.Machine.execConnectMessage m s
  | .acceptMessage m => Sys2Proof.Machine.execAcceptMessage m s
  | .creditReturn m => Sys2Proof.Machine.execCreditReturn m s
  | .delegateTransfer m => Sys2Proof.Machine.execDelegateTransfer m s
  | .taken m => Sys2Proof.Machine.execTaken m s
  | .redirect m => Sys2Proof.Machine.execRedirect m s
  | .redirected m => Sys2Proof.Machine.execRedirected m s
  | .fwdEnd m => Sys2Proof.Machine.execFwdEnd m s
  | .closedNotice m => Sys2Proof.Machine.execClosedNotice m s
  | .inlineCodeRun core ep => Sys2Proof.Machine.execInlineCodeRun core ep s
  | .memLoad q => Sys2Proof.Machine.execMemLoad q s
  | .memStore q => Sys2Proof.Machine.execMemStore q s
  | .memAtomic q => Sys2Proof.Machine.execMemAtomic q s
  | .memSubByteStore q => Sys2Proof.Machine.execMemSubByteStore q s
  | .memDestAdd q => Sys2Proof.Machine.execMemDestAdd q s
  | .memDestMin q => Sys2Proof.Machine.execMemDestMin q s
  | .memDestMax q => Sys2Proof.Machine.execMemDestMax q s
  | .memFullEmpty q => Sys2Proof.Machine.execMemFullEmpty q s
  | .memoryReply r => Sys2Proof.Machine.execMemoryReply r s
  | .waitCancel q => Sys2Proof.Machine.execWaitCancel q s
  | .waiterStoreResend q => Sys2Proof.Machine.execWaiterStoreResend q s
  | .treq m => Sys2Proof.Machine.execTreq m s
  | .twrite m => Sys2Proof.Machine.execTwrite m s
  | .tbye m => Sys2Proof.Machine.execTbye m s
  | .autloadComplete t => Sys2Proof.Machine.execAutloadComplete t s
  | .enqRemoteArrival t k pkt => Sys2Proof.Machine.execEnqRemoteArrival t k pkt s
  | .enqAnswer t code => Sys2Proof.Machine.execEnqAnswer t code s
  | .engineCommandComplete c eng cmd => Sys2Proof.Machine.execEngineCommandComplete c eng cmd s
  | .matrixAccept core => Sys2Proof.Machine.execMatrixAccept core s
  | .matrixCommit core => Sys2Proof.Machine.execMatrixCommit core s
  | .mteamBlockArrival core blk => Sys2Proof.Machine.execMteamBlockArrival core blk s
  | .mswapMessageArrival core m => Sys2Proof.Machine.execMswapMessageArrival core m s
  | .bootDiscoveryFlood die v => Sys2Proof.Machine.execBootDiscoveryFlood die v s
  | .bootImageFlood die v => Sys2Proof.Machine.execBootImageFlood die v s
  | .floodFlitArrival c port f => Sys2Proof.Machine.execFloodFlitArrival c port f s
  | .floodAnswer die f => Sys2Proof.Machine.execFloodAnswer die f s
  | .imagePacketArrival c port f => Sys2Proof.Machine.execImagePacketArrival c port f s
  | .imageAck die f => Sys2Proof.Machine.execImageAck die f s
  | .discoveryWindowEnd die fnum => Sys2Proof.Machine.execDiscoveryWindowEnd die fnum s
  | .imageWindowEnd die fnum => Sys2Proof.Machine.execImageWindowEnd die fnum s
  | .add b a d => Sys2Proof.Machine.execAdd b a d s
  | .sub b a d => Sys2Proof.Machine.execSub b a d s
  | .and b a d => Sys2Proof.Machine.execAnd b a d s
  | .or b a d => Sys2Proof.Machine.execOr b a d s
  | .xor b a d => Sys2Proof.Machine.execXor b a d s
  | .andn b a d => Sys2Proof.Machine.execAndn b a d s
  | .orn b a d => Sys2Proof.Machine.execOrn b a d s
  | .shl b a d => Sys2Proof.Machine.execShl b a d s
  | .shr b a d => Sys2Proof.Machine.execShr b a d s
  | .sar b a d => Sys2Proof.Machine.execSar b a d s
  | .rol b a d => Sys2Proof.Machine.execRol b a d s
  | .min b a d => Sys2Proof.Machine.execMin b a d s
  | .max b a d => Sys2Proof.Machine.execMax b a d s
  | .minn b a d => Sys2Proof.Machine.execMinn b a d s
  | .maxn b a d => Sys2Proof.Machine.execMaxn b a d s
  | .sel b a d => Sys2Proof.Machine.execSel b a d s
  | .mul b a d => Sys2Proof.Machine.execMul b a d s
  | .mulh b a d => Sys2Proof.Machine.execMulh b a d s
  | .mulhn b a d => Sys2Proof.Machine.execMulhn b a d s
  | .div b a d => Sys2Proof.Machine.execDiv b a d s
  | .divn b a d => Sys2Proof.Machine.execDivn b a d s
  | .rem b a d => Sys2Proof.Machine.execRem b a d s
  | .remn b a d => Sys2Proof.Machine.execRemn b a d s
  | .slt b a d => Sys2Proof.Machine.execSlt b a d s
  | .sltn b a d => Sys2Proof.Machine.execSltn b a d s
  | .seq b a d => Sys2Proof.Machine.execSeq b a d s
  | .lea h b a d => Sys2Proof.Machine.execLea h b a d s
  | .clz a d => Sys2Proof.Machine.execClz a d s
  | .ctz a d => Sys2Proof.Machine.execCtz a d s
  | .popc a d => Sys2Proof.Machine.execPopc a d s
  | .brev a d => Sys2Proof.Machine.execBrev a d s
  | .bswap a d => Sys2Proof.Machine.execBswap a d s
  | .exts w a d => Sys2Proof.Machine.execExts w a d s
  | .extz w a d => Sys2Proof.Machine.execExtz w a d s
  | .bfx l p a d => Sys2Proof.Machine.execBfx l p a d s
  | .bfi l p a d => Sys2Proof.Machine.execBfi l p a d s
  | .addi imm a d => Sys2Proof.Machine.execAddi imm a d s
  | .andi imm a d => Sys2Proof.Machine.execAndi imm a d s
  | .ori imm a d => Sys2Proof.Machine.execOri imm a d s
  | .xori imm a d => Sys2Proof.Machine.execXori imm a d s
  | .shli n a d => Sys2Proof.Machine.execShli n a d s
  | .shri n a d => Sys2Proof.Machine.execShri n a d s
  | .sari n a d => Sys2Proof.Machine.execSari n a d s
  | .slti imm a d => Sys2Proof.Machine.execSlti imm a d s
  | .sltni imm a d => Sys2Proof.Machine.execSltni imm a d s
  | .muli imm a d => Sys2Proof.Machine.execMuli imm a d s
  | .li imm d => Sys2Proof.Machine.execLi imm d s
  | .lix imm d => Sys2Proof.Machine.execLix imm d s
  | .bz imm a => Sys2Proof.Machine.execBz imm a s
  | .bnz imm a => Sys2Proof.Machine.execBnz imm a s
  | .bltz imm a => Sys2Proof.Machine.execBltz imm a s
  | .bgez imm a => Sys2Proof.Machine.execBgez imm a s
  | .jal imm d => Sys2Proof.Machine.execJal imm d s
  | .ld o w a d => Sys2Proof.Machine.execLd o w a d s
  | .ldx w b a d => Sys2Proof.Machine.execLdx w b a d s
  | .st o w a x => Sys2Proof.Machine.execSt o w a x s
  | .lda o w a d => Sys2Proof.Machine.execLda o w a d s
  | .stl o w a x => Sys2Proof.Machine.execStl o w a x s
  | .spill imm a x => Sys2Proof.Machine.execSpill imm a x s
  | .fill imm a d => Sys2Proof.Machine.execFill imm a d s
  | .ldfe a d => Sys2Proof.Machine.execLdfe a d s
  | .ldff a d => Sys2Proof.Machine.execLdff a d s
  | .stef b a => Sys2Proof.Machine.execStef b a s
  | .stff b a => Sys2Proof.Machine.execStff b a s
  | .feset a => Sys2Proof.Machine.execFeset a s
  | .fepeek a d => Sys2Proof.Machine.execFepeek a d s
  | .sbstLo b a => Sys2Proof.Machine.execSbstLo b a s
  | .sbstHi b a => Sys2Proof.Machine.execSbstHi b a s
  | .amoadd b a d => Sys2Proof.Machine.execAmoadd b a d s
  | .amoand b a d => Sys2Proof.Machine.execAmoand b a d s
  | .amoor b a d => Sys2Proof.Machine.execAmoor b a d s
  | .amoxor b a d => Sys2Proof.Machine.execAmoxor b a d s
  | .amomin b a d => Sys2Proof.Machine.execAmomin b a d s
  | .amomax b a d => Sys2Proof.Machine.execAmomax b a d s
  | .amoswap b a d => Sys2Proof.Machine.execAmoswap b a d s
  | .amocas b a d => Sys2Proof.Machine.execAmocas b a d s
  | .amofadd b a d => Sys2Proof.Machine.execAmofadd b a d s
  | .amodf b a d => Sys2Proof.Machine.execAmodf b a d s
  | .amoaddAcq b a d => Sys2Proof.Machine.execAmoaddAcq b a d s
  | .amoandAcq b a d => Sys2Proof.Machine.execAmoandAcq b a d s
  | .amoorAcq b a d => Sys2Proof.Machine.execAmoorAcq b a d s
  | .amoxorAcq b a d => Sys2Proof.Machine.execAmoxorAcq b a d s
  | .amominAcq b a d => Sys2Proof.Machine.execAmominAcq b a d s
  | .amomaxAcq b a d => Sys2Proof.Machine.execAmomaxAcq b a d s
  | .amoswapAcq b a d => Sys2Proof.Machine.execAmoswapAcq b a d s
  | .amocasAcq b a d => Sys2Proof.Machine.execAmocasAcq b a d s
  | .amofaddAcq b a d => Sys2Proof.Machine.execAmofaddAcq b a d s
  | .amodfAcq b a d => Sys2Proof.Machine.execAmodfAcq b a d s
  | .amoaddRel b a d => Sys2Proof.Machine.execAmoaddRel b a d s
  | .amoandRel b a d => Sys2Proof.Machine.execAmoandRel b a d s
  | .amoorRel b a d => Sys2Proof.Machine.execAmoorRel b a d s
  | .amoxorRel b a d => Sys2Proof.Machine.execAmoxorRel b a d s
  | .amominRel b a d => Sys2Proof.Machine.execAmominRel b a d s
  | .amomaxRel b a d => Sys2Proof.Machine.execAmomaxRel b a d s
  | .amoswapRel b a d => Sys2Proof.Machine.execAmoswapRel b a d s
  | .amocasRel b a d => Sys2Proof.Machine.execAmocasRel b a d s
  | .amofaddRel b a d => Sys2Proof.Machine.execAmofaddRel b a d s
  | .amodfRel b a d => Sys2Proof.Machine.execAmodfRel b a d s
  | .fenceAcq => Sys2Proof.Machine.execFenceAcq s
  | .fenceRel => Sys2Proof.Machine.execFenceRel s
  | .fenceFull => Sys2Proof.Machine.execFenceFull s
  | .ifence => Sys2Proof.Machine.execIfence s
  | .barrive a d => Sys2Proof.Machine.execBarrive a d s
  | .bwait b a => Sys2Proof.Machine.execBwait b a s
  | .waitmsg => Sys2Proof.Machine.execWaitmsg s
  | .msgpop d => Sys2Proof.Machine.execMsgpop d s
  | .mbput n a => Sys2Proof.Machine.execMbput n a s
  | .mbget n d => Sys2Proof.Machine.execMbget n d s
  | .tagset b a => Sys2Proof.Machine.execTagset b a s
  | .fadd b a d => Sys2Proof.Machine.execFadd b a d s
  | .fsub b a d => Sys2Proof.Machine.execFsub b a d s
  | .fmul b a d => Sys2Proof.Machine.execFmul b a d s
  | .fdiv b a d => Sys2Proof.Machine.execFdiv b a d s
  | .fsqrt a d => Sys2Proof.Machine.execFsqrt a d s
  | .fmin b a d => Sys2Proof.Machine.execFmin b a d s
  | .fmax b a d => Sys2Proof.Machine.execFmax b a d s
  | .fabs a d => Sys2Proof.Machine.execFabs a d s
  | .fneg a d => Sys2Proof.Machine.execFneg a d s
  | .fcmp b a d => Sys2Proof.Machine.execFcmp b a d s
  | .fclass a d => Sys2Proof.Machine.execFclass a d s
  | .ffma b a d => Sys2Proof.Machine.execFfma b a d s
  | .fcvt k y x a d => Sys2Proof.Machine.execFcvt k y x a d s
  | .frnd o a d => Sys2Proof.Machine.execFrnd o a d s
  | .sget a d => Sys2Proof.Machine.execSget a d s
  | .sset b a d => Sys2Proof.Machine.execSset b a d s
  | .sclr a d => Sys2Proof.Machine.execSclr a d s
  | .qenc w a d => Sys2Proof.Machine.execQenc w a d s
  | .qdec w a d => Sys2Proof.Machine.execQdec w a d s
  | .cbload n a => Sys2Proof.Machine.execCbload n a s
  | .paddW32 b a d => Sys2Proof.Machine.execPaddW32 b a d s
  | .psubW32 b a d => Sys2Proof.Machine.execPsubW32 b a d s
  | .pmulW32 b a d => Sys2Proof.Machine.execPmulW32 b a d s
  | .pfmaW32 b a d => Sys2Proof.Machine.execPfmaW32 b a d s
  | .pminW32 b a d => Sys2Proof.Machine.execPminW32 b a d s
  | .pmaxW32 b a d => Sys2Proof.Machine.execPmaxW32 b a d s
  | .pdotW32 b a d => Sys2Proof.Machine.execPdotW32 b a d s
  | .pshufW32 b a d => Sys2Proof.Machine.execPshufW32 b a d s
  | .pcvtBf16W32 g a d => Sys2Proof.Machine.execPcvtBf16W32 g a d s
  | .pcvtFp16W32 g a d => Sys2Proof.Machine.execPcvtFp16W32 g a d s
  | .pcvtI8W32 g a d => Sys2Proof.Machine.execPcvtI8W32 g a d s
  | .pcvtI32W32 g a d => Sys2Proof.Machine.execPcvtI32W32 g a d s
  | .paddBf16 b a d => Sys2Proof.Machine.execPaddBf16 b a d s
  | .psubBf16 b a d => Sys2Proof.Machine.execPsubBf16 b a d s
  | .pmulBf16 b a d => Sys2Proof.Machine.execPmulBf16 b a d s
  | .pfmaBf16 b a d => Sys2Proof.Machine.execPfmaBf16 b a d s
  | .pminBf16 b a d => Sys2Proof.Machine.execPminBf16 b a d s
  | .pmaxBf16 b a d => Sys2Proof.Machine.execPmaxBf16 b a d s
  | .pdotBf16 b a d => Sys2Proof.Machine.execPdotBf16 b a d s
  | .pshufBf16 b a d => Sys2Proof.Machine.execPshufBf16 b a d s
  | .pcvtW32Bf16 g a d => Sys2Proof.Machine.execPcvtW32Bf16 g a d s
  | .pcvtFp16Bf16 g a d => Sys2Proof.Machine.execPcvtFp16Bf16 g a d s
  | .pcvtI8Bf16 g a d => Sys2Proof.Machine.execPcvtI8Bf16 g a d s
  | .pcvtI32Bf16 g a d => Sys2Proof.Machine.execPcvtI32Bf16 g a d s
  | .paddFp16 b a d => Sys2Proof.Machine.execPaddFp16 b a d s
  | .psubFp16 b a d => Sys2Proof.Machine.execPsubFp16 b a d s
  | .pmulFp16 b a d => Sys2Proof.Machine.execPmulFp16 b a d s
  | .pfmaFp16 b a d => Sys2Proof.Machine.execPfmaFp16 b a d s
  | .pminFp16 b a d => Sys2Proof.Machine.execPminFp16 b a d s
  | .pmaxFp16 b a d => Sys2Proof.Machine.execPmaxFp16 b a d s
  | .pdotFp16 b a d => Sys2Proof.Machine.execPdotFp16 b a d s
  | .pshufFp16 b a d => Sys2Proof.Machine.execPshufFp16 b a d s
  | .pcvtW32Fp16 g a d => Sys2Proof.Machine.execPcvtW32Fp16 g a d s
  | .pcvtBf16Fp16 g a d => Sys2Proof.Machine.execPcvtBf16Fp16 g a d s
  | .pcvtI8Fp16 g a d => Sys2Proof.Machine.execPcvtI8Fp16 g a d s
  | .pcvtI32Fp16 g a d => Sys2Proof.Machine.execPcvtI32Fp16 g a d s
  | .paddI8 b a d => Sys2Proof.Machine.execPaddI8 b a d s
  | .psubI8 b a d => Sys2Proof.Machine.execPsubI8 b a d s
  | .pmulI8 b a d => Sys2Proof.Machine.execPmulI8 b a d s
  | .pfmaI8 b a d => Sys2Proof.Machine.execPfmaI8 b a d s
  | .pminI8 b a d => Sys2Proof.Machine.execPminI8 b a d s
  | .pmaxI8 b a d => Sys2Proof.Machine.execPmaxI8 b a d s
  | .pdotI8 b a d => Sys2Proof.Machine.execPdotI8 b a d s
  | .pshufI8 b a d => Sys2Proof.Machine.execPshufI8 b a d s
  | .pcvtW32I8 g a d => Sys2Proof.Machine.execPcvtW32I8 g a d s
  | .pcvtBf16I8 g a d => Sys2Proof.Machine.execPcvtBf16I8 g a d s
  | .pcvtFp16I8 g a d => Sys2Proof.Machine.execPcvtFp16I8 g a d s
  | .pcvtI32I8 g a d => Sys2Proof.Machine.execPcvtI32I8 g a d s
  | .paddI32 b a d => Sys2Proof.Machine.execPaddI32 b a d s
  | .psubI32 b a d => Sys2Proof.Machine.execPsubI32 b a d s
  | .pmulI32 b a d => Sys2Proof.Machine.execPmulI32 b a d s
  | .pfmaI32 b a d => Sys2Proof.Machine.execPfmaI32 b a d s
  | .pminI32 b a d => Sys2Proof.Machine.execPminI32 b a d s
  | .pmaxI32 b a d => Sys2Proof.Machine.execPmaxI32 b a d s
  | .pdotI32 b a d => Sys2Proof.Machine.execPdotI32 b a d s
  | .pshufI32 b a d => Sys2Proof.Machine.execPshufI32 b a d s
  | .pcvtW32I32 g a d => Sys2Proof.Machine.execPcvtW32I32 g a d s
  | .pcvtBf16I32 g a d => Sys2Proof.Machine.execPcvtBf16I32 g a d s
  | .pcvtFp16I32 g a d => Sys2Proof.Machine.execPcvtFp16I32 g a d s
  | .pcvtI8I32 g a d => Sys2Proof.Machine.execPcvtI8I32 g a d s
  | .addpc imm d => Sys2Proof.Machine.execAddpc imm d s
  | .jalr imm a d => Sys2Proof.Machine.execJalr imm a d s
  | .loop imm a => Sys2Proof.Machine.execLoop imm a s
  | .nop => Sys2Proof.Machine.execNop s
  | .yield => Sys2Proof.Machine.execYield s
  | .halt => Sys2Proof.Machine.execHalt s
  | .xret => Sys2Proof.Machine.execXret s
  | .bkpt => Sys2Proof.Machine.execBkpt s
  | .wfe => Sys2Proof.Machine.execWfe s
  | .perfrd a d => Sys2Proof.Machine.execPerfrd a d s
  | .trap imm => Sys2Proof.Machine.execTrap imm s
  | .sysrd imm d => Sys2Proof.Machine.execSysrd imm d s
  | .syswr imm a => Sys2Proof.Machine.execSyswr imm a s
  | .enq a d => Sys2Proof.Machine.execEnq a d s
  | .tdone a => Sys2Proof.Machine.execTdone a s
  | .progress a => Sys2Proof.Machine.execProgress a s
  | .pushc b a => Sys2Proof.Machine.execPushc b a s
  | .popr a d => Sys2Proof.Machine.execPopr a d s
  | .srbegin a => Sys2Proof.Machine.execSrbegin a s
  | .srend => Sys2Proof.Machine.execSrend s
  | .repload b a => Sys2Proof.Machine.execRepload b a s
  | .reprun b a => Sys2Proof.Machine.execReprun b a s
  | .repstop => Sys2Proof.Machine.execRepstop s
  | .send a t e => Sys2Proof.Machine.execSend a t e s
  | .sendt a t e => Sys2Proof.Machine.execSendt a t e s
  | .recv a t e => Sys2Proof.Machine.execRecv a t e s
  | .recvt a t e => Sys2Proof.Machine.execRecvt a t e s
  | .offer a e => Sys2Proof.Machine.execOffer a e s
  | .select a t e => Sys2Proof.Machine.execSelect a t e s
  | .deleg a e => Sys2Proof.Machine.execDeleg a e s
  | .autload a => Sys2Proof.Machine.execAutload a s
  | .epopen a e => Sys2Proof.Machine.execEpopen a e s
  | .connect a e => Sys2Proof.Machine.execConnect a e s
  | .accept a e => Sys2Proof.Machine.execAccept a e s
  | .close a e => Sys2Proof.Machine.execClose a e s
  | .epstat a e => Sys2Proof.Machine.execEpstat a e s
  | .epfree e => Sys2Proof.Machine.execEpfree e s
  | .msgvec a t => Sys2Proof.Machine.execMsgvec a t s
  | .vadd r t b a d => Sys2Proof.Machine.execVadd r t b a d s
  | .vsub r t b a d => Sys2Proof.Machine.execVsub r t b a d s
  | .vmul r t b a d => Sys2Proof.Machine.execVmul r t b a d s
  | .vfma r t c b a d => Sys2Proof.Machine.execVfma r t c b a d s
  | .vmin r t b a d => Sys2Proof.Machine.execVmin r t b a d s
  | .vmax r t b a d => Sys2Proof.Machine.execVmax r t b a d s
  | .vabs r t a d => Sys2Proof.Machine.execVabs r t a d s
  | .vneg r t a d => Sys2Proof.Machine.execVneg r t a d s
  | .vcpy t a d => Sys2Proof.Machine.execVcpy t a d s
  | .vfill t a d => Sys2Proof.Machine.execVfill t a d s
  | .vclamp r t c b a d => Sys2Proof.Machine.execVclamp r t c b a d s
  | .vscl r t c b a d => Sys2Proof.Machine.execVscl r t c b a d s
  | .vexp2 r t a d => Sys2Proof.Machine.execVexp2 r t a d s
  | .vlog2 r t a d => Sys2Proof.Machine.execVlog2 r t a d s
  | .vrcp r t a d => Sys2Proof.Machine.execVrcp r t a d s
  | .vrsq r t a d => Sys2Proof.Machine.execVrsq r t a d s
  | .vsqrt r t a d => Sys2Proof.Machine.execVsqrt r t a d s
  | .vtanh r t a d => Sys2Proof.Machine.execVtanh r t a d s
  | .vsigm r t a d => Sys2Proof.Machine.execVsigm r t a d s
  | .vrsum r t a d => Sys2Proof.Machine.execVrsum r t a d s
  | .vrmax r t a d => Sys2Proof.Machine.execVrmax r t a d s
  | .vrmin r t a d => Sys2Proof.Machine.execVrmin r t a d s
  | .vscan r t a d => Sys2Proof.Machine.execVscan r t a d s
  | .vdot r t b a d => Sys2Proof.Machine.execVdot r t b a d s
  | .vcount r t a d => Sys2Proof.Machine.execVcount r t a d s
  | .vcmpEq r t b a d => Sys2Proof.Machine.execVcmpEq r t b a d s
  | .vcmpNe r t b a d => Sys2Proof.Machine.execVcmpNe r t b a d s
  | .vcmpLt r t b a d => Sys2Proof.Machine.execVcmpLt r t b a d s
  | .vcmpLe r t b a d => Sys2Proof.Machine.execVcmpLe r t b a d s
  | .vcmpGt r t b a d => Sys2Proof.Machine.execVcmpGt r t b a d s
  | .vcmpGe r t b a d => Sys2Proof.Machine.execVcmpGe r t b a d s
  | .vsel r t c b a d => Sys2Proof.Machine.execVsel r t c b a d s
  | .vand r t b a d => Sys2Proof.Machine.execVand r t b a d s
  | .vor r t b a d => Sys2Proof.Machine.execVor r t b a d s
  | .vxor r t b a d => Sys2Proof.Machine.execVxor r t b a d s
  | .vshl r t b a d => Sys2Proof.Machine.execVshl r t b a d s
  | .vshr r t b a d => Sys2Proof.Machine.execVshr r t b a d s
  | .vgath t b a d => Sys2Proof.Machine.execVgath t b a d s
  | .vscat t b a d => Sys2Proof.Machine.execVscat t b a d s
  | .vshuf t b a d => Sys2Proof.Machine.execVshuf t b a d s
  | .viota r t d => Sys2Proof.Machine.execViota r t d s
  | .vcvt r t a d => Sys2Proof.Machine.execVcvt r t a d s
  | .vqenc r t c b a d => Sys2Proof.Machine.execVqenc r t c b a d s
  | .vqdec r t c b a d => Sys2Proof.Machine.execVqdec r t c b a d s
  | .zbind b a n => Sys2Proof.Machine.execZbind b a n s
  | .zbindc b a n => Sys2Proof.Machine.execZbindc b a n s
  | .zstat n d => Sys2Proof.Machine.execZstat n d s
  | .mset a => Sys2Proof.Machine.execMset a s
  | .mclr n q => Sys2Proof.Machine.execMclr n q s
  | .mload c a q => Sys2Proof.Machine.execMload c a q s
  | .mstat a => Sys2Proof.Machine.execMstat a s
  | .mma c z b a q => Sys2Proof.Machine.execMma c z b a q s
  | .mmag c z x b a q => Sys2Proof.Machine.execMmag c z x b a q s
  | .mteam c z b a q => Sys2Proof.Machine.execMteam c z b a q s
  | .mswap b a => Sys2Proof.Machine.execMswap b a s
  | .mldt c a q => Sys2Proof.Machine.execMldt c a q s
  | .mepi r p o g n b a q => Sys2Proof.Machine.execMepi r p o g n b a q s
  | .cMov a d => Sys2Proof.Machine.execCMov a d s
  | .cAdd a d => Sys2Proof.Machine.execCAdd a d s
  | .cSub a d => Sys2Proof.Machine.execCSub a d s
  | .cAnd a d => Sys2Proof.Machine.execCAnd a d s
  | .cOr a d => Sys2Proof.Machine.execCOr a d s
  | .cXor a d => Sys2Proof.Machine.execCXor a d s
  | .cShl a d => Sys2Proof.Machine.execCShl a d s
  | .cShr a d => Sys2Proof.Machine.execCShr a d s
  | .cSar a d => Sys2Proof.Machine.execCSar a d s
  | .cAddi imm d => Sys2Proof.Machine.execCAddi imm d s
  | .cLi imm d => Sys2Proof.Machine.execCLi imm d s
  | .cShli n d => Sys2Proof.Machine.execCShli n d s
  | .cShri n d => Sys2Proof.Machine.execCShri n d s
  | .cSari n d => Sys2Proof.Machine.execCSari n d s
  | .cAndi imm d => Sys2Proof.Machine.execCAndi imm d s
  | .cSlt a d => Sys2Proof.Machine.execCSlt a d s
  | .cSeq a d => Sys2Proof.Machine.execCSeq a d s
  | .cMin a d => Sys2Proof.Machine.execCMin a d s
  | .cMax a d => Sys2Proof.Machine.execCMax a d s
  | .cLd a d => Sys2Proof.Machine.execCLd a d s
  | .cSt a d => Sys2Proof.Machine.execCSt a d s
  | .cNeg a d => Sys2Proof.Machine.execCNeg a d s
  | .cNot a d => Sys2Proof.Machine.execCNot a d s
  | .cBz imm d => Sys2Proof.Machine.execCBz imm d s
  | .cBnz imm d => Sys2Proof.Machine.execCBnz imm d s
  | .cJ imm => Sys2Proof.Machine.execCJ imm s
  | .cJr a => Sys2Proof.Machine.execCJr a s
  | .cNop => Sys2Proof.Machine.execCNop s
  | .cYield => Sys2Proof.Machine.execCYield s
  | .cFadd a d => Sys2Proof.Machine.execCFadd a d s
  | .illegalEncoding slot high => Sys2Proof.Machine.execIllegalEncoding slot high s
  | .softError site => Sys2Proof.Machine.execSoftError site s
  | .ethLinkDown port => Sys2Proof.Machine.execEthLinkDown port s
  | .towlineMooredReceive session => Sys2Proof.Machine.execTowlineMooredReceive session s

end Sys2Proof.Machine
end

