-- ==== Sys2Proof/Machine/Step.lean ====
section
/-! DEFINITION. One step of the machine: what is to be done next, and its outcome; and how the host places an
instruction for the next step. -/

namespace Sys2Proof.Machine

noncomputable section

/-- One step: the next thing to be done (`todo`) is done. -/
def step (s : State) : Host.Outcome State Fault Refusal :=
  match todo s with
  | .perform e s => exec e.toInstr s
  | .decode s =>
    (match decodeSlot s.word s.high with
    | .ok i => exec i s
    | .error _ => exec (.illegalEncoding s.word s.high) s)
  | .rest s => .next s

end

/-- The slot of the thread that the host's instruction is placed in: slot 0 of core C0 of creel (0, 0). -/
def fetchThread : ThreadId := ⟨⟨0, 0, 3⟩, 0⟩

/-- Its program counter: the first slot of its local store, in the self window (R52). -/
def fetchPc : BitVec 57 := 0x1FFFFFFFFF80000#57

/-- The state in which the next step fetches and runs the instruction of `nbits` bits `w`: the device in RUN, a
supervisor thread of 128 registers in slot 0 of C0 of creel (0, 0), whose PC names the first slot of its local store;
the instruction there and in the core's instruction cache; and the thread's turn to issue (DESIGN CHOICE, log 2). -/
def State.withFetchWord (s : State) (nbits w : Nat) : State :=
  let bs := leBytes 4 (w % 2 ^ nbits)
  let th : Thread := { (threadOf s fetchThread) with
    pc := fetchPc, status := 0x10000#64, nregs := 128, wait := .run, ready := s.cyc, trap := none, parked := none
    going := false, region := none, partner := none, delay := 0, asid := 0, skipBreak := true }
  let line : Line := ⟨0, fetchPc.toNat, 0, s.cyc, none, bs ++ List.replicate 60 0⟩
  let s := modCore { s with
    inputs := []
    hand := none
    sampled := none
    late := none
    agenda := s.agenda.filter fun d => s.cyc < d.at_
    power := { s.power with state := .run, trans := .none, goAt := 0 }
    threads := s.threads.put fetchThread th } fetchThread.core fun c => { c with icache := [line] }
  { s with
    mem := putBytes s.mem (windowBase ⟨0, 0⟩ + 0x80000 + 0x10000 * 3) bs
    turn := [.issue fetchThread] }

end Sys2Proof.Machine
end

