-- ==== Sys2Proof/Safety.lean ====
section
/-! DEFINITION. What counts as a safe run, and the words the claims use: coming to a next state, the conditions under which
an instruction issues, and what a register instruction leaves as it was. -/

namespace Sys2Proof.Machine

/-- The machine's invariant: memory, word bits and check states stand in their canonical form. -/
def State.Inv (s : State) : Prop := Memory.wf s = true

/-- Instruction i, performed in s, comes to a next state, of which P holds. -/
def Gives (i : Instr) (s : State) (P : State → Prop) : Prop := ∃ t, exec i s = .next t ∧ P t

/-- The conditions of an issue that do not lie in the instruction's own fields: a thread stands in the slot, it has the
registers named (R164), the entries read carry a correct residue (R135), and none is under copy in a sluice (R128). -/
def Issues (s : State) (rd wr : List (BitVec 7)) : Prop :=
  (s.threads.find s.cur).isSome = true ∧ regsOk s.th (rd ++ wr) = true ∧
    (∀ r ∈ rd, residueOk s s.cur r = true) ∧ regCopying s s.cur (rd ++ wr) = false

/-- Thread b is thread a but for its PC, its STATUS, the times of its next issue and of its repetition buffer's next beat,
and what the model keeps of an instruction in progress: every other register and field of it is as it was. -/
def SameThread (a b : Thread) : Prop :=
  b = { a with
    rep := { a.rep with due := b.rep.due }
    pc := b.pc, status := b.status, ready := b.ready, perf := b.perf, wait := b.wait, next := b.next, req := b.req, answer := b.answer
    awaited := b.awaited, gathered := b.gathered, parked := b.parked, going := b.going, finishing := b.finishing
    delay := b.delay, late := b.late, skipBreak := b.skipBreak, skipWatch := b.skipWatch }

/-- The frame of an instruction that writes at most g(d) and the status of its own thread: every other register entry of the
part, the thread's own special registers, every other thread, every byte of memory with its tags and check state, every
endpoint, core, accumulator, creel, team and device register is as it was. -/
structure FrameReg (s t : State) (d : BitVec 7) : Prop where
  regs : ∀ c n, (d = 0 ∨ (c, n) ≠ (s.cur.core, s.th.base + d.toNat)) →
    t.regs.get (c, n) RegEntry.zero = s.regs.get (c, n) RegEntry.zero
  self : SameThread s.th t.th
  others : ∀ u, u ≠ s.cur → t.threads.find u = s.threads.find u
  rest : t = { s with regs := t.regs, threads := t.threads }

/-- t is s after an instruction that wrote g(d) with the data v and the sticky bit b, its residue formed anew, and left
`pc` and `status` in its thread; a write of g0 is discarded (R164). -/
structure Wrote (s t : State) (d : BitVec 7) (v : Word) (b : Bool) (pc : BitVec 57) (status : Word) : Prop where
  result : d ≠ 0 → regOf t t.cur d.toNat = mkEntry v b
  zero : regOf t t.cur 0 = RegEntry.zero
  pc : t.th.pc = pc
  status : t.th.status = status
  runs : t.th.wait = .run
  frame : FrameReg s t d

/-- The frame of an instruction that writes at most g(d) and the bytes of memory from lo up to hi: every other register entry,
every other thread, its own special registers, every other byte of memory, every endpoint, core, accumulator and team is
as it was. -/
structure FrameMem (s t : State) (d : BitVec 7) (lo hi : Nat) : Prop where
  regs : ∀ c n, (d = 0 ∨ (c, n) ≠ (s.cur.core, s.th.base + d.toNat)) →
    t.regs.get (c, n) RegEntry.zero = s.regs.get (c, n) RegEntry.zero
  self : SameThread s.th t.th
  others : ∀ u, u ≠ s.cur → t.threads.find u = s.threads.find u
  mem : ∀ a, (a < lo ∨ hi ≤ a) → cellGet t.mem a = cellGet s.mem a
  eps : t.eps = s.eps
  cores : t.cores = s.cores
  teams : t.teams = s.teams

/-- t is s after a memory instruction that wrote g(d) with v and b, and the bytes from lo up to hi. -/
structure Touched (s t : State) (d : BitVec 7) (v : Word) (b : Bool) (lo hi : Nat) (pc : BitVec 57) (status : Word) : Prop where
  result : d ≠ 0 → regOf t t.cur d.toNat = mkEntry v b
  pc : t.th.pc = pc
  status : t.th.status = status
  runs : t.th.wait = .run
  frame : FrameMem s t d lo hi

/-- t is s after an instruction of its thread that wrote g(d) with v and b and changed no byte or word bit of memory; what it
did to its core, its creel or the device the claim says beside it. -/
structure Stepped (s t : State) (d : BitVec 7) (v : Word) (b : Bool) (pc : BitVec 57) (status : Word) : Prop where
  result : d ≠ 0 → regOf t t.cur d.toNat = mkEntry v b
  pc : t.th.pc = pc
  status : t.th.status = status
  runs : t.th.wait = .run
  regs : ∀ c n, (d = 0 ∨ (c, n) ≠ (s.cur.core, s.th.base + d.toNat)) →
    t.regs.get (c, n) RegEntry.zero = s.regs.get (c, n) RegEntry.zero
  self : SameThread s.th t.th
  others : ∀ u, u ≠ s.cur → t.threads.find u = s.threads.find u
  mem : t.mem = s.mem ∧ t.bits = s.bits ∧ t.err = s.err

/-- t is s with its thread parked in its place on `k`: nothing else of it is changed, and no other thread, register or byte. -/
structure Parked (s t : State) (k : Cond) : Prop where
  waits : t.th.wait = .redo k
  pc : t.th.pc = s.th.pc
  self : SameThread s.th t.th
  others : ∀ u, u ≠ s.cur → t.threads.find u = s.threads.find u
  regs : t.regs = s.regs
  mem : t.mem = s.mem ∧ t.bits = s.bits ∧ t.err = s.err

/-- t is s after a trap of its thread, taken at `pc` (R275), outside a handler and with a handler table: the trap registers
hold it, PSUP takes SUP, SUP and XM are set, and the handler's first instruction is next. Registers and the other threads
are as they were, and memory is, where the trace (R151) does not record the trap. -/
structure Trapped (s t : State) (pc : BitVec 57) (code : Nat) (info : Word) : Prop where
  xpc : t.th.xpc = pc.setWidth 64
  xcause : t.th.xcause = BitVec.ofNat 64 code
  xinfo : t.th.xinfo = info
  pc : t.th.pc = BitVec.ofNat 57 ((coreOf s s.cur.core).xvec.toNat / 4096 * 4096 + 256 * code)
  status : ∀ i, i < 64 → t.th.status.getLsbD i =
    if i = 16 ∨ i = 17 then true else if i = 21 then s.sup else s.th.status.getLsbD i
  runs : t.th.wait = .run ∧ t.th.going = false
  same : (t.th.base, t.th.nregs, t.th.asid, t.th.task, t.th.fmt, t.th.scl, t.th.xsca, t.th.xscb) =
    (s.th.base, s.th.nregs, s.th.asid, s.th.task, s.th.fmt, s.th.scl, s.th.xsca, s.th.xscb)
  others : ∀ u, u ≠ s.cur → t.threads.find u = s.threads.find u
  regs : t.regs = s.regs
  mem : traceOn s s.cur.core.creel 2 s.cur.core.node s.cur.slot = false →
    t.mem = s.mem ∧ t.bits = s.bits ∧ t.err = s.err

/-- A trap of the current thread is taken by a handler (R275, R277), and its instruction is neither a buffered beat nor one
taken up again after a park. -/
def Handled (s : State) : Prop :=
  stXm s.th.status = false ∧ (coreOf s s.cur.core).xvec.getLsbD 0 = true ∧ s.buffered = false ∧ s.again = false

/-- An event stands in the agenda for this cycle. -/
def Soon (t : State) (e : Event) : Prop := ⟨t.cyc, .event e⟩ ∈ t.agenda

/-- An event stands in the agenda n cycles from now. -/
def InCycles (t : State) (n : Nat) (e : Event) : Prop := ⟨t.cyc + n, .event e⟩ ∈ t.agenda

/-- No waiter record stands on a word that n bytes from pa touch (R316, R326). -/
def NoWaiter (s : State) (pa n : Nat) : Prop := ∀ w ∈ s.waiters, w.pa < pa / 8 * 8 ∨ pa + n ≤ w.pa

/-- A scalar access of the current thread to n bytes at pa of its self window is served in this slot: it costs no further owner slot
(R167), or those have passed, and it meets no unit under copy (R128). -/
def InSlot (s : State) (pa n : Nat) (write : Bool) : Prop := scalarCost s pa write = 0 ∧ meetsCopy s pa n = false

/-- An access of the current thread is performed in its self window at pa (R310) in this slot, where no uncorrectable error
stands. -/
def OwnAccess (s : State) (ea : Word) (n al : Nat) (need : Need) (pa : Nat) : Prop :=
  access s s.cur ea n al need = .self pa ∧ poisoned s pa n = false ∧ partialPoison s pa n n = false ∧ InSlot s pa n need.wr

/-- n bytes at a self-window offset that the current thread's instruction reads as one run stand at pa: no watchpoint meets
them, they are aligned to `al`, lie in one store, carry no uncorrectable error, and are served in this slot. -/
def OwnOperand (s : State) (off n al pa : Nat) : Prop :=
  InSlot s pa n false ∧
  watchHit s s.cur s.th (selfBase + off) n true false = none ∧ off % al = 0 ∧ selfBase + off < 2 ^ 57 ∧
    selfPa s s.cur.core off n = some pa ∧ poisoned s pa n = false

/-- A beat of a walk is served in this slot: with these runs (R359) and places it costs no further owner slot (R167), or those
have passed. -/
def BeatServed (s : State) (runs : List (Nat × Bool)) (gs : List Got) : Prop := beatCost s runs gs = 0 ∨ s.th.delay ≠ 0

/-- Neither earlier posted writes hold back a release, nor earlier release-kind writes an acquire (R225). -/
def NotHeld (s : State) (acq rel : Bool) : Prop :=
  (rel = true → releaseWaits s = false) ∧ (acq = true → acquireWaits s = false)

/-- t is s after an instruction of its thread that wrote no register and left `pc` next, STATUS as it was. -/
def Passed (s t : State) (pc : BitVec 57) : Prop := Wrote s t 0 0 false pc s.th.status

/-- t is s after a channel instruction of its thread that wrote g(a) with v, changed no endpoint but those of its core in `ns`,
and of memory, where the trace (R151) does not record it, only the bytes from lo up to hi. -/
structure Replied (s t : State) (a : BitVec 7) (v : Word) (status : Word) (ns : List Nat) (lo hi : Nat) : Prop where
  result : a ≠ 0 → regOf t t.cur a.toNat = mkEntry v false
  pc : t.th.pc = pcAfter s.th.pc false
  status : t.th.status = status
  runs : t.th.wait = .run
  regs : ∀ c n, (a = 0 ∨ (c, n) ≠ (s.cur.core, s.th.base + a.toNat)) →
    t.regs.get (c, n) RegEntry.zero = s.regs.get (c, n) RegEntry.zero
  self : SameThread s.th t.th
  eps : ∀ c n, (c ≠ s.cur.core ∨ n ∉ ns) → epOf t c n = epOf s c n
  mem : traceOn s s.cur.core.creel 3 s.cur.core.node s.cur.slot = false →
    ∀ x, (x < lo ∨ hi ≤ x) → cellGet t.mem x = cellGet s.mem x

/-- A message has left its network interface toward an arrival, at its endpoint or at the port of its module, no earlier than its
route allows (R33, R34); one to a node code that no node has is dropped (R35), one to an unreachable module is not sent (R196),
and one of a fenced rectangle is discarded (R139). -/
def Left (t : State) (m : Msg) : Prop :=
  addrReserved m.dst = true ∨ (addrMod m.dst ≠ modSelf t ∧ fleetReach t (addrMod m.dst) = false) ∨
    stopsAtFence t (some (msgLane t m)) (.arrive m) = true ∨
    ∃ c, t.cyc + msgCycles (nodeOf t m.src) (nodeOf t m.dst) m.nflit ≤ c ∧ ⟨c, .arrive m⟩ ∈ t.agenda

/-- An endpoint moved along the branch of a message it sends: its numbers, its credit and both its cursors (R194, R195, R203). -/
def afterSend (im : List Byte) (e : Endpoint) (ty : Nat) : Endpoint :=
  { e with
    sseq := e.sseq + 1, credit := e.credit - 1, cpend := 0
    state := (nextState im e.state ty).getD e.state
    astate := (nextState im e.astate ty).getD e.astate }

/-- Endpoint n of the current core may send a message of a type in so many flits at a state of this kind (R194, R334, R338). -/
structure MaySend (s : State) (n kind ty flits : Nat) : Prop where
  free : s.free? = true
  opened : (epOf s s.cur.core n).est = .opened
  own : (epOf s s.cur.core n).slot = s.cur.slot
  kind : recKind (epRec s s.cur.core n) = kind
  label : ((recBranches (epRec s s.cur.core n)).any fun b => decide (b.1 = ty)) = true
  size : flits ≤ recMaxfl (epRec s s.cur.core n)
  credit : (epOf s s.cur.core n).credit ≠ 0
  reach : reachable s (epOf s s.cur.core n).peer = true
  order : NotHeld s false true

/-- The next message of endpoint n of the current core may be received at a state of this kind (R194, R334, R339). -/
structure MayReceive (s : State) (n kind : Nat) : Prop where
  free : s.free? = true
  opened : (epOf s s.cur.core n).est = .opened
  own : (epOf s s.cur.core n).slot = s.cur.slot
  kind : recKind (epRec s s.cur.core n) = kind
  there : msgReady s s.cur.core n = true
  sound : (nextMsg s s.cur.core n).lfmt.getLsbD 5 = false
  order : NotHeld s true false

/-- An endpoint from which a message has been consumed: at a state that receives, or at END, its credit has been returned with
the message that this calls for (R203). -/
def Consumed (s t : State) (c : CoreId) (n : Nat) (m : Msg) : Prop :=
  let e := epOf s c n
  let im := (flightOf s c e.flight).image
  let st := (nextState im e.state m.mtype.toNat).getD e.state
  let back := recvKind (recKind (stateRec im st)) || decide (recKind (stateRec im st) = 6)
  epOf t c n = { e with rseq := e.rseq + 1, state := st, cpend := if back then 0 else e.cpend + 1 } ∧
    (back = true → Left t (mkMsg s c n e.peer 0xFC e.sseq (e.cpend + 1) [])) ∧
    ∀ i < m.nflit, isFull t (unitPa s c n (nextUnit s c n + i)) = false

/-- A request has reached home h of its address, which performs it: no fence, no stale version, no copy in a sluice, no
uncorrectable error, no waiter and no page on the move meets it (R57, R128, R134, R138, R316). -/
structure Reached (s : State) (q : MemReq) (h : Home) : Prop where
  home : homeOf s q.pa = some h
  plain : ∀ d, h ≠ .device d
  unfenced : fencedAt s (homeKey h) = false
  version : versionOk s q h = true
  still : copying s h q.pa q.len = false
  sound : poisoned s q.pa (max q.len q.data.length) = false ∧ poisoned s q.pa q.data.length = false ∧ poisoned s q.pa q.len = false ∧
    partialPoison s q.pa q.data.length q.data.length = false
  calm : s.moves = [] ∧ s.waiters = []

/-- The reply of a request is on its way. -/
def Answered (t : State) (q : MemReq) (status : Nat) (data : List Byte) (tags : BitVec 4) : Prop :=
  ∃ c, t.cyc ≤ c ∧ ⟨c, .event (.memoryReply ⟨q, status, data, tags⟩)⟩ ∈ t.agenda

/-- t is s but for n bytes of memory from pa: every other byte, every register, every thread and endpoint is as it was. -/
def OnlyBytes (s t : State) (pa n : Nat) : Prop :=
  (∀ x, (x < pa ∨ pa + n ≤ x) → cellGet t.mem x = cellGet s.mem x) ∧ t.regs = s.regs ∧ t.threads = s.threads ∧ t.eps = s.eps

/-- Registers, threads, endpoints, teams and every byte, tag and check state of memory are as they were. -/
def Undisturbed (s t : State) : Prop :=
  t.regs = s.regs ∧ t.threads = s.threads ∧ t.eps = s.eps ∧ t.teams = s.teams ∧ t.mem = s.mem ∧ t.bits = s.bits ∧ t.err = s.err

/-- The address after a full instruction of the current thread. -/
def State.nextPc (s : State) : BitVec 57 := pcAfter s.th.pc false

/-- The address after a compact instruction of the current thread (R261). -/
def State.nextPcC (s : State) : BitVec 57 := pcAfter s.th.pc true

end Sys2Proof.Machine
end

