-- ==== Sys2Proof/Rules.lean ====
section
/-! DEFINITION. The spec's tables of results, written from the rules in plain arithmetic, as the claims use them: for each
instruction the values that the rule gives its destination. -/

namespace Sys2Proof.Machine

noncomputable section

/-- What a rule says of a result: of its 64 data bits and its sticky bit. -/
abbrev Says := Word → Bool → Prop

/-- An integer result: the word, with S clear (R258). -/
def isW (v : Word) : Says := fun w b => w = v ∧ b = false

/-- An instruction with what its rule says of its result. -/
abbrev Ruled := Instr × Says

/-- The bit-by-bit rule of a result, with S clear. -/
def isBits (f : Nat → Bool) : Says := fun w b => (∀ i, i < 64 → w.getLsbD i = f i) ∧ b = false

/-! ## Integer instructions (R286 to R290) -/

/-- R286. Major 0. -/
def major0 (s : State) (b a d : BitVec 7) : List Ruled :=
  let x := s.g a
  let y := s.g b
  let n := y.toNat % 64
  [(.add b a d, isW (BitVec.ofNat 64 (x.toNat + y.toNat))),
   (.sub b a d, isW (BitVec.ofInt 64 ((x.toNat : Int) - y.toNat))),
   (.and b a d, isBits fun i => x.getLsbD i && y.getLsbD i),
   (.or b a d, isBits fun i => x.getLsbD i || y.getLsbD i),
   (.xor b a d, isBits fun i => x.getLsbD i != y.getLsbD i),
   (.andn b a d, isBits fun i => x.getLsbD i && !y.getLsbD i),
   (.orn b a d, isBits fun i => x.getLsbD i || !y.getLsbD i),
   (.shl b a d, isBits fun i => decide (n ≤ i) && x.getLsbD (i - n)),
   (.shr b a d, isBits fun i => decide (i + n < 64) && x.getLsbD (i + n)),
   (.sar b a d, isBits fun i => if i + n < 64 then x.getLsbD (i + n) else x.getLsbD 63),
   (.rol b a d, isBits fun i => x.getLsbD ((i + 64 - n) % 64)),
   (.min b a d, isW (if x.toInt ≤ y.toInt then x else y)),
   (.max b a d, isW (if x.toInt ≤ y.toInt then y else x)),
   (.minn b a d, isW (if x.toNat ≤ y.toNat then x else y)),
   (.maxn b a d, isW (if x.toNat ≤ y.toNat then y else x))]

/-- R287. Major 1, the instructions of one beat. -/
def major1 (s : State) (b a d : BitVec 7) : List Ruled :=
  let x := s.g a
  let y := s.g b
  [(.mul b a d, isW (BitVec.ofNat 64 (x.toNat * y.toNat))),
   (.slt b a d, isW (if x.toInt < y.toInt then 1 else 0)),
   (.sltn b a d, isW (if x.toNat < y.toNat then 1 else 0)),
   (.seq b a d, isW (if x.toNat = y.toNat then 1 else 0))]

/-- R287, R258. Major 1, the instructions of several beats, which write at the end of the last (R285). -/
def major1Long (s : State) (b a d : BitVec 7) : List Ruled :=
  let x := s.g a
  let y := s.g b
  [(.mulh b a d, isW (BitVec.ofInt 64 ((x.toInt * y.toInt) / 2 ^ 64))),
   (.mulhn b a d, isW (BitVec.ofNat 64 (x.toNat * y.toNat / 2 ^ 64))),
   (.div b a d, isW (if y.toInt = 0 then BitVec.allOnes 64 else BitVec.ofInt 64 (x.toInt.tdiv y.toInt))),
   (.divn b a d, isW (if y.toNat = 0 then BitVec.allOnes 64 else BitVec.ofNat 64 (x.toNat / y.toNat))),
   (.rem b a d, isW (if y.toInt = 0 then x else BitVec.ofInt 64 (x.toInt - x.toInt.tdiv y.toInt * y.toInt))),
   (.remn b a d, isW (if y.toNat = 0 then x else BitVec.ofNat 64 (x.toNat - x.toNat / y.toNat * y.toNat)))]

/-- R288. Majors 2 and 3. -/
def major23 (s : State) (h : BitVec 4) (b a d : BitVec 7) : List Ruled :=
  let x := s.g a
  [(.lea h b a d, isW (BitVec.ofNat 64 (x.toNat + (s.g b).toNat * 2 ^ h.toNat))),
   (.clz a d, fun w c => c = false ∧ w.toNat ≤ 64 ∧ (∀ i, 64 ≤ i + w.toNat → x.getLsbD i = false) ∧
     (w.toNat < 64 → x.getLsbD (63 - w.toNat) = true)),
   (.ctz a d, fun w c => c = false ∧ w.toNat ≤ 64 ∧ (∀ i, i < w.toNat → x.getLsbD i = false) ∧
     (w.toNat < 64 → x.getLsbD w.toNat = true)),
   (.popc a d, isW (BitVec.ofNat 64 ((List.range 64).filter fun i => x.getLsbD i).length)),
   (.brev a d, isBits fun i => x.getLsbD (63 - i)),
   (.bswap a d, isBits fun i => x.getLsbD (8 * (7 - i / 8) + i % 8))]

/-- R288. Major 4: w is the width less one. -/
def major4 (s : State) (w a d : BitVec 7) : List Ruled :=
  let x := s.g a
  [(.exts w a d, isBits fun i => if i ≤ w.toNat then x.getLsbD i else x.getLsbD w.toNat),
   (.extz w a d, isBits fun i => decide (i ≤ w.toNat) && x.getLsbD i)]

/-- R288. Majors 5 and 6, for fields that lie inside the word: l is the length less one. -/
def major56 (s : State) (a d : BitVec 7) (l : BitVec 5) (p : BitVec 6) : List Ruled :=
  let x := s.g a
  [(.bfx l p a d, isBits fun i => decide (i ≤ l.toNat) && x.getLsbD (i + p.toNat)),
   (.bfi l p a d, isBits fun i =>
     if p.toNat ≤ i ∧ i ≤ p.toNat + l.toNat then x.getLsbD (i - p.toNat) else (s.g d).getLsbD i)]

/-- R289. Majors 7 to 14. -/
def immediates (s : State) (i : BitVec 11) (n : BitVec 6) (a d : BitVec 7) : List Ruled :=
  let x := s.g a
  let v : Word := BitVec.ofInt 64 i.toInt
  [(.addi i a d, isW (BitVec.ofInt 64 (x.toInt + i.toInt))),
   (.andi i a d, isBits fun k => x.getLsbD k && v.getLsbD k),
   (.ori i a d, isBits fun k => x.getLsbD k || v.getLsbD k),
   (.xori i a d, isBits fun k => x.getLsbD k != v.getLsbD k),
   (.shli n a d, isW (BitVec.ofNat 64 (x.toNat * 2 ^ n.toNat))),
   (.shri n a d, isW (BitVec.ofNat 64 (x.toNat / 2 ^ n.toNat))),
   (.sari n a d, isW (BitVec.ofInt 64 (x.toInt / 2 ^ n.toNat))),
   (.slti i a d, isW (if x.toInt < i.toInt then 1 else 0)),
   (.sltni i a d, isW (if x.toNat < v.toNat then 1 else 0)),
   (.muli i a d, isW (BitVec.ofInt 64 (x.toInt * i.toInt)))]

/-- R290. Majors 16, 17 and 40. -/
def constants (s : State) (i : BitVec 18) (d : BitVec 7) : List Ruled :=
  [(.li i d, isW (BitVec.ofInt 64 i.toInt)),
   (.lix i d, isW (BitVec.ofNat 64 ((s.g d).toNat * 2 ^ 18 + i.toNat))),
   (.addpc i d, isW (BitVec.ofInt 64 (((s.th.pc.toNat / 4 * 4 : Nat) : Int) + 4 * i.toInt)))]

/-! ## Compact instructions (R264) -/

/-- R264. The compact instructions that name two registers, each with the 32-bit instruction it stands for. -/
def compact2 (a d : BitVec 5) : List (Instr × Instr) :=
  let x := r5 a
  let y := r5 d
  [(.cMov a d, .or 0 x y), (.cAdd a d, .add x y y), (.cSub a d, .sub x y y), (.cAnd a d, .and x y y),
   (.cOr a d, .or x y y), (.cXor a d, .xor x y y), (.cShl a d, .shl x y y), (.cShr a d, .shr x y y),
   (.cSar a d, .sar x y y), (.cSlt a d, .slt x y y), (.cSeq a d, .seq x y y), (.cMin a d, .min x y y),
   (.cMax a d, .max x y y), (.cNeg a d, .sub x 0 y), (.cNot a d, .orn x 0 y), (.cFadd a d, .fadd x y y)]

/-- R264. The compact instructions with an immediate or a count. -/
def compact1 (i d : BitVec 5) : List (Instr × Instr) :=
  let y := r5 d
  [(.cAddi i d, .addi (i.signExtend 11) y y), (.cLi i d, .li (i.signExtend 18) y), (.cShli i d, .shli (i.setWidth 6) y y),
   (.cShri i d, .shri (i.setWidth 6) y y), (.cSari i d, .sari (i.setWidth 6) y y),
   (.cAndi i d, .andi (i.signExtend 11) y y)]

/-! ## Branches and jumps (R291 to R293) -/

/-- R291. The branches, with their test of the register and their displacement. -/
def branches (s : State) (a : BitVec 7) (i : BitVec 16) : List (Instr × Bool) :=
  let x := s.g a
  [(.bz i a, decide (x.toNat = 0)), (.bnz i a, decide (x.toNat ≠ 0)), (.bltz i a, decide (x.toInt < 0)),
   (.bgez i a, decide (0 ≤ x.toInt))]

/-- The address of the slot that the current PC names, plus four times a displacement (R262). -/
def State.target (s : State) (disp : Int) : BitVec 57 := BitVec.ofInt 57 (((s.th.pc.toNat / 4 * 4 : Nat) : Int) + 4 * disp)

/-- The address of the next slot, parcel 0 (R262). -/
def State.link (s : State) : Word := BitVec.ofNat 64 ((s.th.pc.toNat / 4 * 4 + 4) % 2 ^ 57)

/-- t is s after a taken branch or jump to `pc` that wrote g(d) with v and took one beat. Its own trace record (R151) is the one other
effect: where the trace does not select it, nothing else changes. -/
structure Jumped (s t : State) (d : BitVec 7) (v : Word) (pc : BitVec 57) : Prop where
  result : d ≠ 0 → regOf t t.cur d.toNat = mkEntry v false
  goes : t.th.pc = pc
  status : t.th.status = s.th.status
  ready : t.th.ready = nextOwn s.cyc s.cur.slot
  regs : ∀ c n, (d = 0 ∨ (c, n) ≠ (s.cur.core, s.th.base + d.toNat)) →
    t.regs.get (c, n) RegEntry.zero = s.regs.get (c, n) RegEntry.zero
  untraced : traceOn s s.cur.core.creel 1 s.cur.core.node s.cur.slot = false → Wrote s t d v false pc s.th.status

/-! ## Floating point (R294 to R299) -/

/-- A floating instruction, with the held pair and the flags that its rule gives. -/
abbrev FloatRuled := Instr × Pair × Flags

/-- R294. The instructions of one beat that form a value. -/
def floats (s : State) (b a d : BitVec 7) : List FloatRuled :=
  let x := s.h a
  let y := s.h b
  [(.fadd b a d, fadd x y), (.fsub b a d, fsub x y), (.fmul b a d, fmul x y),
   (.fmin b a d, canon (fminmax false x y), 0), (.fmax b a d, canon (fminmax true x y), 0)]

/-- R294, R285. The instructions of four beats. -/
def floatsLong (s : State) (b a d : BitVec 7) : List FloatRuled :=
  [(.fdiv b a d, fdiv (s.h a) (s.h b)), (.fsqrt a d, fsqrt (s.h a))]

/-- Is a W32 encoding a NaN? -/
def isNaN32 (w : BitVec 32) : Bool := decide (w.extractLsb' 23 8 = 255#8 ∧ w.extractLsb' 0 23 ≠ 0)

/-- R294, R295, R298. Instructions whose results are told bit by bit. -/
def floatBits (s : State) (b a d : BitVec 7) : List Ruled :=
  let x := s.g a
  let w := x.extractLsb' 0 32
  let ex := w.extractLsb' 23 8
  let fr := w.extractLsb' 0 23
  let neg := w.msb
  [(.fabs a d, fun v c => if isNaN32 w then v = heldBits .nan ∧ c = false
      else (∀ i, i < 64 → v.getLsbD i = (decide (i < 31) && x.getLsbD i)) ∧ c = s.gS a),
   (.fneg a d, fun v c => if isNaN32 w then v = heldBits .nan ∧ c = false
      else (∀ i, i < 64 → v.getLsbD i = (decide (i < 32) && (x.getLsbD i != decide (i = 31)))) ∧ c = s.gS a),
   (.fcmp b a d, isW (match cmpPair (s.h a) (s.h b) with
      | .lt => 1 | .eq => 2 | .gt => 4 | .unordered => 8 | .inexact => 16)),
   (.fclass a d, isBits fun i =>
      (decide (i = 0) && neg && decide (ex = 255#8 ∧ fr = 0)) || (decide (i = 1) && neg && decide (ex ≠ 255#8 ∧ ex ≠ 0)) ||
      (decide (i = 2) && neg && decide (ex = 0 ∧ fr ≠ 0)) || (decide (i = 3) && neg && decide (ex = 0 ∧ fr = 0)) ||
      (decide (i = 4) && !neg && decide (ex = 0 ∧ fr = 0)) || (decide (i = 5) && !neg && decide (ex = 0 ∧ fr ≠ 0)) ||
      (decide (i = 6) && !neg && decide (ex ≠ 255#8 ∧ ex ≠ 0)) || (decide (i = 7) && !neg && decide (ex = 255#8 ∧ fr = 0)) ||
      (decide (i = 8) && isNaN32 w) || (decide (i = 9) && s.gS a)),
   (.sget a d, isW (if s.gS a then 1 else 0)),
   (.sset b a d, fun v c => v = x ∧ c = (s.gS a || decide (s.g b ≠ 0))),
   (.sclr a d, isW x)]

/-- STATUS after flags, and after a rounding under SRD when one was made (R242, R244; DEDUCED, log 17). -/
def roundedStatus (s : State) (fl : Flags) (mode : Nat) : Word :=
  if mode = 5 then bumpSrdc (orFlags s.th.status fl) else orFlags s.th.status fl

/-! ## Packed lanes (R301 to R303) -/

/-- R302. PADD, PSUB, PMUL and PFMA of a type: the instruction, whether it reads gd, the exact operation on floating lanes,
and the operation on integer lanes. -/
def packedArith (t : LaneType) (b a d : BitVec 7) :
    List (Instr × Bool × (Num → Num → Num → Num × Flags) × (Int → Int → Int → Int)) :=
  let four (i j k l : Instr) := [(i, false, pAdd, fun x y _ => x + y), (j, false, pSub, fun x y _ => x - y),
    (k, false, pMul, fun x y _ => x * y), (l, true, pFma, fun x y z => x * y + z)]
  match t with
  | .w32 => four (.paddW32 b a d) (.psubW32 b a d) (.pmulW32 b a d) (.pfmaW32 b a d)
  | .bf16 => four (.paddBf16 b a d) (.psubBf16 b a d) (.pmulBf16 b a d) (.pfmaBf16 b a d)
  | .fp16 => four (.paddFp16 b a d) (.psubFp16 b a d) (.pmulFp16 b a d) (.pfmaFp16 b a d)
  | .i8 => four (.paddI8 b a d) (.psubI8 b a d) (.pmulI8 b a d) (.pfmaI8 b a d)
  | .i32 => four (.paddI32 b a d) (.psubI32 b a d) (.pmulI32 b a d) (.pfmaI32 b a d)

/-- R302. PMIN, PMAX, PDOT and PSHUF of a type. -/
def packedOther (t : LaneType) (b a d : BitVec 7) : Instr × Instr × Instr × Instr :=
  match t with
  | .w32 => (.pminW32 b a d, .pmaxW32 b a d, .pdotW32 b a d, .pshufW32 b a d)
  | .bf16 => (.pminBf16 b a d, .pmaxBf16 b a d, .pdotBf16 b a d, .pshufBf16 b a d)
  | .fp16 => (.pminFp16 b a d, .pmaxFp16 b a d, .pdotFp16 b a d, .pshufFp16 b a d)
  | .i8 => (.pminI8 b a d, .pmaxI8 b a d, .pdotI8 b a d, .pshufI8 b a d)
  | .i32 => (.pminI32 b a d, .pmaxI32 b a d, .pdotI32 b a d, .pshufI32 b a d)

/-- R303. The conversions from a type, each with its target. -/
def packedConverts (t : LaneType) (g : BitVec 2) (a d : BitVec 7) : List (Instr × LaneType) :=
  match t with
  | .w32 => [(.pcvtBf16W32 g a d, .bf16), (.pcvtFp16W32 g a d, .fp16), (.pcvtI8W32 g a d, .i8), (.pcvtI32W32 g a d, .i32)]
  | .bf16 => [(.pcvtW32Bf16 g a d, .w32), (.pcvtFp16Bf16 g a d, .fp16), (.pcvtI8Bf16 g a d, .i8), (.pcvtI32Bf16 g a d, .i32)]
  | .fp16 => [(.pcvtW32Fp16 g a d, .w32), (.pcvtBf16Fp16 g a d, .bf16), (.pcvtI8Fp16 g a d, .i8), (.pcvtI32Fp16 g a d, .i32)]
  | .i8 => [(.pcvtW32I8 g a d, .w32), (.pcvtBf16I8 g a d, .bf16), (.pcvtFp16I8 g a d, .fp16), (.pcvtI32I8 g a d, .i32)]
  | .i32 => [(.pcvtW32I32 g a d, .w32), (.pcvtBf16I32 g a d, .bf16), (.pcvtFp16I32 g a d, .fp16), (.pcvtI8I32 g a d, .i8)]

/-- R302, R301. One lane of PADD, PSUB, PMUL or PFMA: an integer lane wraps; a floating lane is the exact result rounded by
FinalRound into the lane format, as element i. Its bits and flags. -/
def arithLane (s : State) (t : LaneType) (f : Num → Num → Num → Num × Flags) (g : Int → Int → Int → Int)
    (x y z : Word) (i : Nat) : Nat × Flags :=
  let w := t.bits
  if t.isInt then
    (((g (signedOf w (lane x w i)) (signedOf w (lane y w i)) (signedOf w (lane z w i))) % 2 ^ w).toNat, 0)
  else
    let e := f (t.decode (lane x w i)) (t.decode (lane y w i)) (t.decode (lane z w i))
    let r := finalRound t.fmt s.rm 24 (s.srd i) ⟨e.1, false⟩
    (t.encode r.1, e.2 ||| r.2)

/-- The flags of n lanes together. -/
def laneFlags (n : Nat) (f : Nat → Nat × Flags) : Flags := (List.range n).foldl (fun fl i => fl ||| (f i).2) 0

/-- R302, R248. One lane of PMIN or PMAX. -/
def minMaxLane (t : LaneType) (mx : Bool) (x y : Word) (i : Nat) : Nat :=
  let p := lane x t.bits i
  let q := lane y t.bits i
  if t.isInt then (if (signedOf t.bits p ≤ signedOf t.bits q) != mx then p else q)
  else t.encode (fminmax mx ⟨t.decode p, false⟩ ⟨t.decode q, false⟩).x

/-- The W32 lanes' products of PDOT, as pairs with their flags. -/
def dotProducts (t : LaneType) (x y : Word) : List (Pair × Flags) :=
  (List.range t.count).map fun i => mulPair ⟨t.decode (lane x t.bits i), false⟩ ⟨t.decode (lane y t.bits i), false⟩

/-- R302. What PDOT writes: for integer lanes the sum of products added to gd, modulo 2^32 sign-extended or modulo 2^64;
for floating lanes the products summed in the tree of R256, added to gd's held pair. Data, S and flags. -/
def dotResult (s : State) (t : LaneType) (x y : Word) (d : BitVec 7) : Word × Bool × Flags :=
  let sum : Int := ((List.range t.count).map fun i => signedOf t.bits (lane x t.bits i) * signedOf t.bits (lane y t.bits i)).sum
  match t with
  | .i8 => ((BitVec.ofInt 32 (((s.g d).extractLsb' 0 32).toInt + sum)).signExtend 64, false, 0)
  | .i32 => (BitVec.ofInt 64 ((s.g d).toInt + sum), false, 0)
  | _ =>
    let ps := dotProducts t x y
    let r := tree (if t.count = 2 then 1 else 2) (ps.map Prod.fst)
    let v := fadd (s.h d) r.1
    (heldBits v.1.x, v.1.s, ps.foldl (fun f p => f ||| p.2) (r.2 ||| v.2))

/-! ## Loads, stores and atomics (R311 to R321) -/

/-- A load: the instruction, the registers it reads, its address, its width code, its destination, and whether it is
compact or of acquire kind. -/
structure LoadForm where
  i : Instr
  rd : List (BitVec 7)
  ea : Word
  code : Nat
  d : BitVec 7
  cp : Bool
  acq : Bool

/-- R311, R264. The loads, for the width codes 0 to 6: an offset counts access widths. -/
def loads (s : State) (o : BitVec 8) (w : BitVec 3) (b a d : BitVec 7) (x y : BitVec 5) : List LoadForm :=
  let off : Word := BitVec.ofInt 64 (o.toInt * (2 ^ (w.toNat / 2) : Nat))
  [⟨.ld o w a d, [a], s.g a + off, w.toNat, d, false, false⟩,
   ⟨.ldx (w.setWidth 4) b a d, [a, b], s.g a + s.g b, w.toNat, d, false, false⟩,
   ⟨.lda o w a d, [a], s.g a + off, w.toNat, d, false, true⟩,
   ⟨.cLd x y, [r5 x], s.g (r5 x), 6, r5 y, true, false⟩]

/-- R311, R273. A loaded value: n bytes, little-endian, extended as the code says: even codes below 6 by their top bit, odd
ones by zeros. -/
def loadedValue (code : Nat) (bs : List Byte) : Word :=
  let n := 2 ^ (code / 2)
  if code % 2 = 0 then BitVec.ofInt 64 (signedOf (8 * n) (leNat bs)) else BitVec.ofNat 64 (leNat bs)

/-- A store: the instruction, the registers it reads, its address, its width, the register stored, and whether it is compact
or of release kind. -/
structure StoreForm where
  i : Instr
  rd : List (BitVec 7)
  ea : Word
  n : Nat
  x : BitVec 7
  cp : Bool
  rel : Bool

/-- R312, R264. The stores, for the width codes 0, 2, 4 and 6. -/
def stores (s : State) (o : BitVec 8) (w : BitVec 3) (a x : BitVec 7) (y z : BitVec 5) : List StoreForm :=
  let n := 2 ^ (w.toNat / 2)
  let off : Word := BitVec.ofInt 64 (o.toInt * (n : Nat))
  [⟨.st o w a x, [a, x], s.g a + off, n, x, false, false⟩,
   ⟨.stl o w a x, [a, x], s.g a + off, n, x, false, true⟩,
   ⟨.cSt y z, [r5 y, r5 z], s.g (r5 y), 8, r5 z, true, false⟩]

/-- An atomic: the instruction, whether it reads gd, whether it is of acquire and of release kind, and the new value in
memory, none when it writes nothing. -/
structure AtomicForm where
  i : Instr
  usesD : Bool
  acq : Bool
  rel : Bool
  new : Option Word

/-- R319, R321. The atomics on doublewords of a major: AMODF is of release kind in every one. -/
def atomicRow (is : List Instr) (acq rel : Bool) (old arg : Word) : List AtomicForm :=
  (is.zip [some (BitVec.ofNat 64 (old.toNat + arg.toNat)), some (old &&& arg), some (old ||| arg), some (old ^^^ arg),
    some (if old.toInt ≤ arg.toInt then old else arg), some (if old.toInt ≤ arg.toInt then arg else old), some arg]).map
    fun p => ⟨p.1, false, acq, rel, p.2⟩

/-- R319. Majors 28, 29 and 30, but for AMOFADD and AMODF. -/
def atomics (b a d : BitVec 7) (old arg cmp : Word) : List AtomicForm :=
  let cas : Option Word := if old = cmp then some arg else none
  atomicRow [.amoadd b a d, .amoand b a d, .amoor b a d, .amoxor b a d, .amomin b a d, .amomax b a d, .amoswap b a d]
    false false old arg ++
  atomicRow [.amoaddAcq b a d, .amoandAcq b a d, .amoorAcq b a d, .amoxorAcq b a d, .amominAcq b a d, .amomaxAcq b a d,
    .amoswapAcq b a d] true false old arg ++
  atomicRow [.amoaddRel b a d, .amoandRel b a d, .amoorRel b a d, .amoxorRel b a d, .amominRel b a d, .amomaxRel b a d,
    .amoswapRel b a d] false true old arg ++
  [⟨.amocas b a d, true, false, false, cas⟩, ⟨.amocasAcq b a d, true, true, false, cas⟩,
   ⟨.amocasRel b a d, true, false, true, cas⟩]

/-- AMODF of each major, with its acquire kind. -/
def amodfs (b a d : BitVec 7) : List (Instr × Bool) := [(.amodf b a d, false), (.amodfAcq b a d, true), (.amodfRel b a d, false)]

/-- AMOFADD of each major, with its acquire and release kinds. -/
def amofadds (b a d : BitVec 7) : List (Instr × Bool × Bool) :=
  [(.amofadd b a d, false, false), (.amofaddAcq b a d, true, false), (.amofaddRel b a d, false, true)]

/-- R325. What BARRIVE leaves in a barrier word: the count of the phase's parity goes up; when it reaches NPART it starts
again and the phase goes up. -/
structure Arrived (w v : Word) : Prop where
  npart : v.extractLsb' 48 16 = w.extractLsb' 48 16
  other : ∀ i, i < 16 →
    v.getLsbD (i + if w.getLsbD 32 then 0 else 16) = w.getLsbD (i + if w.getLsbD 32 then 0 else 16)
  count : let at_ := if w.getLsbD 32 then 16 else 0
    let c := (w.extractLsb' at_ 16).toNat + 1
    let np := (w.extractLsb' 48 16).toNat
    (v.extractLsb' at_ 16).toNat = (if np ≤ c then 0 else c) ∧
      v.extractLsb' 32 16 = (if np ≤ c then w.extractLsb' 32 16 + 1 else w.extractLsb' 32 16)

/-! ## System registers (R268, R306) -/

/-- R268. Who may read or write a system register: a number's first, its last, and whether user threads, supervisor threads
and, for L, lengthsman cores may read it; then who may write it. 0 none, 1 every thread, 2 supervisor threads, 3
lengthsman cores. -/
def sysTable : List (Nat × Nat × Nat × Nat) :=
  [(0, 0, 1, 1), (1, 5, 1, 0), (6, 7, 1, 1), (0x10, 0x15, 2, 2), (0x20, 0x24, 2, 2), (0x30, 0x35, 2, 2), (0x40, 0x42, 2, 2),
   (0x100, 0x15F, 1, 2), (0x180, 0x1BF, 2, 2), (0x200, 0x2FF, 3, 3), (0x300, 0x301, 3, 3), (0x310, 0x311, 3, 3)]

/-- R268. Does the table let this thread use a register? -/
def sysAllowed (s : State) (write : Bool) (n : Nat) : Bool :=
  sysTable.any fun r => decide (r.1 ≤ n ∧ n ≤ r.2.1) && (match (if write then r.2.2.2 else r.2.2.1) with
    | 1 => true
    | 2 => s.sup
    | 3 => s.cur.core.isLengthsman
    | _ => false)

/-- R268. The thread's and the core's own system registers, as SYSRD reads them. -/
def sysValues (s : State) : List (Nat × Word) :=
  let th := s.th
  let c := coreOf s s.cur.core
  [(0x000, th.status), (0x001, th.fmt), (0x002, th.scl), (0x003, th.task), (0x004, th.team.setWidth 64),
   (0x005, th.level.setWidth 64), (0x006, BitVec.ofNat 64 s.cyc), (0x007, BitVec.ofNat 64 th.progress), (0x010, th.xpc),
   (0x011, th.xcause), (0x012, th.xinfo), (0x013, c.xvec), (0x014, th.xsca), (0x015, th.xscb), (0x020, c.slotSel),
   (0x021, 0), (0x023, c.vtbase), (0x024, c.chpool), (0x040, (tsdOf s s.cur).va), (0x041, 0), (0x301, preStat s),
   (0x310, c.devAddr.setWidth 64)]

/-- R306, R8. The events that a SYSWR starts at the end of its cycle, for the numbers that have one of their own. -/
def sysEvents (s : State) (v : Word) : List (BitVec 11 × Event) :=
  [(0x000, .statusWrite s.cur v), (0x021, .slotStart s.cur v), (0x024, .chpoolWrite s.cur.core v),
   (0x041, .tsdCtlShootdown s.cur v), (0x110, .retCtlRetire ⟨s.cur.core.x, s.cur.core.y⟩ v)] ++
  ([0x010, 0x011, 0x012, 0x013, 0x014, 0x015, 0x020, 0x022, 0x023, 0x034, 0x035, 0x040, 0x042, 0x310] : List (BitVec 11)).map
    fun n => (n, .registerWrite s.cur n v)

/-! ## Streams (R357, R360 to R369) -/

/-- A V-form of a walk: the instruction, its operation, its field check, the classes of its sources, and the value that its
rule gives destination element j of a beat, from the elements that the sources supply. -/
structure VRule where
  i : Instr
  op : VOp
  ok : Bool
  classes : List (Nat → Bool)
  val : State → List (ZReg × List Elem) → Nat → VVal

/-- A V-form of one class in all its sources: the floating and the integer function of their elements. -/
def VRule.both (i : Instr) (r : BitVec 2) (t : BitVec 3) (zs : List (BitVec 3)) (d : BitVec 3) (ff : List Pair → List Nat → VVal)
    (fi : List Int → Int) : VRule :=
  ⟨i, ⟨t.toNat, r.toNat, d.toNat, zs.map fun z => .seq z.toNat, none⟩, okRound r t,
    zs.map fun _ => if etInt t then etInteger else etFloating, fun s cols j =>
      if etInt t then .int (fi ((List.range zs.length).map fun i => colInt cols i j)) 0 false
      else ff ((List.range zs.length).map fun i => colPair s cols i j) ((List.range zs.length).map fun i => colQ cols [i])⟩

/-- R363, R364. Major 52. -/
def vectorArith (s : State) (r : BitVec 2) (t c b a d : BitVec 3) : List VRule :=
  let p := fun (l : List Pair) (i : Nat) => l.getD i .zero
  let n := fun (l : List Int) (i : Nat) => l.getD i 0
  let round := fun (v : Pair × Flags) => VVal.held v.1 24 v.2
  let same : Nat → Bool := fun ty => decide (ty = (s.z d.toNat).shape.et)
  let keep := fun (v : Pair) (q : Nat) => VVal.held (canon v) q 0
  [.both (.vadd r t b a d) r t [a, b] d (fun l _ => round (fadd (p l 0) (p l 1))) fun l => n l 0 + n l 1,
   .both (.vsub r t b a d) r t [a, b] d (fun l _ => round (fsub (p l 0) (p l 1))) fun l => n l 0 - n l 1,
   .both (.vmul r t b a d) r t [a, b] d (fun l _ => round (fmul (p l 0) (p l 1))) fun l => n l 0 * n l 1,
   .both (.vfma r t c b a d) r t [a, b, c] d (fun l _ => round (ffma (p l 0) (p l 1) (p l 2))) fun l => n l 0 * n l 1 + n l 2,
   .both (.vmin r t b a d) r t [a, b] d (fun l q => carried l q (fminmax false (p l 0) (p l 1))) fun l => min (n l 0) (n l 1),
   .both (.vmax r t b a d) r t [a, b] d (fun l q => carried l q (fminmax true (p l 0) (p l 1))) fun l => max (n l 0) (n l 1),
   .both (.vabs r t a d) r t [a] d (fun l q => keep ⟨(p l 0).x.withSign false, (p l 0).s⟩ (q.getD 0 24)) fun l => ((n l 0).natAbs : Int),
   .both (.vneg r t a d) r t [a] d (fun l q => keep (p l 0).neg (q.getD 0 24)) fun l => -(n l 0),
   .both (.vclamp r t c b a d) r t [a, b, c] d
     (fun l q => carried l q (fminmax false (fminmax true (p l 0) (p l 1)) (p l 2))) fun l => min (max (n l 0) (n l 1)) (n l 2),
   ⟨.vcpy t a d, ⟨t.toNat, 0, d.toNat, [.seq a.toNat], none⟩, true, [same], fun _ cols j => colRaw cols 0 j⟩,
   ⟨.vfill t a d, ⟨t.toNat, 0, d.toNat, [.fill a.toNat], none⟩, true, [same], fun _ cols j => colRaw cols 0 j⟩,
   ⟨.vscl r t c b a d, ⟨t.toNat, r.toNat, d.toNat, [.seq a.toNat, .scale b.toNat (blkOf c)], none⟩,
     okRound r t && !etInt t && okBlk c, [etFloating, fun ty => decide (ty = 15 ∨ ty = 5 ∨ ty = 6 ∨ ty = 3 ∨ ty = 1)],
     fun s cols j => round (fmul (colPair s cols 0 j) (colPair s cols 1 j))⟩]

/-- R365, R257. Major 53: the functions, with the precision they round to. -/
def vectorSpecial (r : BitVec 2) (t a d : BitVec 3) : List VRule :=
  let one := fun (i : Instr) (q : Nat) (f : Pair → Pair × Flags) => (⟨i, ⟨t.toNat, r.toNat, d.toNat, [.seq a.toNat], none⟩,
    okRound r t && !etInt t, [etFloating], fun s cols j => .held (f (colPair s cols 0 j)).1 q (f (colPair s cols 0 j)).2⟩ : VRule)
  [one (.vexp2 r t a d) 11 fexp2, one (.vlog2 r t a d) 11 flog2, one (.vrcp r t a d) 24 frcp, one (.vrsq r t a d) 24 frsq,
   one (.vsqrt r t a d) 24 fsqrt, one (.vtanh r t a d) 11 ftanh, one (.vsigm r t a d) 11 fsigm]

/-- R367. Major 55: comparison, choice and logic. -/
def vectorLogic (s : State) (r : BitVec 2) (t c b a d : BitVec 3) : List VRule :=
  let fl := etFloating (s.z a.toNat).shape.et
  let cls : Nat → Bool := if fl then etFloating else etInteger
  let ops (zs : List (BitVec 3)) : VOp := ⟨t.toNat, r.toNat, d.toNat, zs.map fun z => .seq z.toNat, none⟩
  let cmp := fun (i : Instr) (f : Cmp → Bool) (g : Int → Int → Bool) => (⟨i, ops [a, b], okRound r t && etInt t, [cls, cls],
    fun s cols j => .int (if (if fl then f (cmpPair (colPair s cols 0 j) (colPair s cols 1 j))
      else g (colInt cols 0 j) (colInt cols 1 j)) then 1 else 0) 0 false⟩ : VRule)
  let bits := fun (i : Instr) (f : Nat → Bool → Nat → Nat → Int) => (⟨i, ops [a, b], okRound r t && etInt t,
    [etInteger, etInteger], fun s cols j =>
      let ty := (s.z d.toNat).shape.et
      let w := etBits ty
      .int (f w (decide (ty = 8 ∨ ty = 9 ∨ ty = 12)) (colInt cols 0 j % 2 ^ w).toNat (colInt cols 1 j % 2 ^ w).toNat) 0 false⟩ : VRule)
  [cmp (.vcmpEq r t b a d) (fun c => decide (c = .eq)) fun x y => decide (x = y),
   cmp (.vcmpNe r t b a d) (fun c => decide (c ≠ .eq)) fun x y => decide (x ≠ y),
   cmp (.vcmpLt r t b a d) (fun c => decide (c = .lt)) fun x y => decide (x < y),
   cmp (.vcmpLe r t b a d) (fun c => decide (c = .lt ∨ c = .eq)) fun x y => decide (x ≤ y),
   cmp (.vcmpGt r t b a d) (fun c => decide (c = .gt)) fun x y => decide (y < x),
   cmp (.vcmpGe r t b a d) (fun c => decide (c = .gt ∨ c = .eq)) fun x y => decide (y ≤ x),
   ⟨.vsel r t c b a d, ops [a, b, c], okRound r t,
     [if etInt t then etInteger else etFloating, if etInt t then etInteger else etFloating, etInteger], fun s cols j =>
       let i := if colInt cols 2 j ≠ 0 then 0 else 1
       if etInt t then .int (colInt cols i j) 0 false else .held (colPair s cols i j) (colQ cols [i]) 0⟩,
   bits (.vand r t b a d) fun _ _ x y => ((x &&& y : Nat) : Int), bits (.vor r t b a d) fun _ _ x y => ((x ||| y : Nat) : Int),
   bits (.vxor r t b a d) fun _ _ x y => ((x ^^^ y : Nat) : Int),
   bits (.vshl r t b a d) fun w _ x y => ((x * 2 ^ (y % w) : Nat) : Int),
   bits (.vshr r t b a d) fun w sg x y => (if sg then signedOf w x else (x : Int)) / ((2 ^ (y % w) : Nat) : Int)]

/-- R368. Major 56. -/
def vectorMoves (s : State) (r : BitVec 2) (t b a d : BitVec 3) : List VRule :=
  let same : Nat → Bool := fun ty => decide (ty = (s.z d.toNat).shape.et)
  let op := fun (srcs : List VSrc) (k : Option Nat) => (⟨t.toNat, 0, d.toNat, srcs, k⟩ : VOp)
  [⟨.vgath t b a d, op [.seq b.toNat, .by a.toNat 0] none, true,
     [etInteger, fun ty => same ty && !(s.z a.toNat).shape.idxv], fun _ cols j => colRaw cols 1 j⟩,
   ⟨.vscat t b a d, op [.seq b.toNat, .seq a.toNat] (some 0), true,
     [etInteger, fun ty => same ty && !(s.z d.toNat).shape.idxv], fun _ cols j => colRaw cols 1 j⟩,
   ⟨.vshuf t b a d, op [.seq b.toNat, .seq a.toNat] none, true, [etInteger, same], fun _ cols j =>
     if 0 ≤ colInt cols 0 j then colRaw cols 1 (colInt cols 0 j).toNat else .raw 0 false⟩,
   ⟨.viota r t d, ⟨t.toNat, r.toNat, d.toNat, [], none⟩, okRound r t && !(s.z d.toNat).shape.distv, [],
     fun s _ j => .int ((s.z d.toNat).zpos + j : Nat) 0 false⟩,
   -- the global linear index of the element (R352)
   ⟨.viota r t d, ⟨t.toNat, r.toNat, d.toNat, [], none⟩, okRound r t && (s.z d.toNat).shape.distv, [], fun s _ j =>
     let z := s.z d.toNat
     match walkCoords s s.cur z (z.zpos + j) none with
     | .ok (c, _) => .int (((globalCoords s s.cur z c).map (globalIndex z)).getD 0) 0 false
     | .error _ => .int 0 0 false⟩]

/-- R369, R259, R364. Major 57. -/
def vectorConvert (r : BitVec 2) (t c b a d : BitVec 3) : List VRule :=
  let scale := fun (cols : List (ZReg × List Elem)) (j : Nat) (up : Bool) =>
    match (cols.getD 1 (ZReg.unbound, [])).2.getD j none with
    | some (e, _) => if e = 255 then (⟨.nan, false⟩ : Pair)
      else ⟨.fin false 1 (if up then (e : Int) - 127 else 127 - (e : Int)), false⟩
    | none => .zero
  let op : VOp := ⟨t.toNat, r.toNat, d.toNat, [.seq a.toNat, .scale b.toNat (blkOf c)], none⟩
  [⟨.vcvt r t a d, ⟨t.toNat, r.toNat, d.toNat, [.seq a.toNat], none⟩, okRound r t, [fun ty => etFloating ty || etInteger ty],
     fun s cols j =>
       let src := (s.z a.toNat).shape.et
       let z := s.z d.toNat
       let lo := (etRange z.shape.et).1
       let hi := (etRange z.shape.et).2
       if etFloating src then
         if etInt t then
           let v := floatToInt lo hi s.th.vrm (walkDraw s.th (z.zpos + j)) (colPair s cols 0 j)
           .int v.1 v.2 true
         else .held (colPair s cols 0 j) (etQ src) 0
       else if etInt t then .int (saturate lo hi (colInt cols 0 j)).1 (saturate lo hi (colInt cols 0 j)).2 false
       else .int (colInt cols 0 j) 0 false⟩,
   ⟨.vqenc r t c b a d, op, okRound r t && okBlk c && decide (t = 6#3 ∨ t = 7#3), [etFloating, fun ty => decide (ty = 15)],
     fun s cols j => held24 (fmul (colPair s cols 0 j) (scale cols j false))⟩,
   ⟨.vqdec r t c b a d, op, okRound r t && okBlk c && decide (t.toNat ≤ 3),
     [fun ty => decide (ty = 5 ∨ ty = 6 ∨ ty = 7 ∨ ty = 10 ∨ ty = 11), fun ty => decide (ty = 15)],
     fun s cols j => held24 (fmul (colPair s cols 0 j) (scale cols j true))⟩]

/-- A row instruction of major 54 but VSCAN: the instruction, its sources, its field check, the class of its sources, and
the value that its rule gives a row. -/
structure RowRule where
  i : Instr
  srcs : List (BitVec 3)
  ok : Bool
  cls : Nat → Bool
  val : State → List Elem → List Elem → VVal

/-- R366, R255, R248. -/
def vectorRows (r : BitVec 2) (t b a d : BitVec 3) : List RowRule :=
  let cls : Nat → Bool := if etInt t then etInteger else etFloating
  let fold := fun (s : State) (mx : Bool) (l : List Elem) =>
    if etInt t then
      match rowInts s a l with
      | [] => VVal.int 0 0 false
      | x :: r => .int (r.foldl (fun m y => if mx then max m y else min m y) x) 0 false
    else match rowPairs s a l with
      | [] => .held .zero 24 0
      | x :: r => .held (canon (r.foldl (fminmax mx) x)) (etQ (s.z a.toNat).shape.et) 0
  [⟨.vrsum r t a d, [a], okRound r t, cls, fun s l _ =>
     if etInt t then .int (rowInts s a l).sum 0 false else held24 (sumRow (rowPairs s a l))⟩,
   ⟨.vrmax r t a d, [a], okRound r t, cls, fun s l _ => fold s true l⟩,
   ⟨.vrmin r t a d, [a], okRound r t, cls, fun s l _ => fold s false l⟩,
   ⟨.vdot r t b a d, [a, b], okRound r t, cls, fun s l m =>
     if etInt t then .int (((rowInts s a l).zip (rowInts s b m)).map fun (x, y) => x * y).sum 0 false
     else held24 (dotPairs (rowPairs s a l) (rowPairs s b m))⟩,
   ⟨.vcount r t a d, [a], okRound r t && etInt t, fun ty => etFloating ty || etInteger ty, fun s l _ =>
     .int ((l.filter (nonzero s a)).length : Nat) 0 false⟩]

/-- The bits of the element of a type at a half-byte address. -/
def elemBits (s : State) (et a : Nat) : Nat :=
  if etBits et = 4 then (cellGet s.mem (a / 2)).toNat / 16 ^ (a % 2) % 16 else leNat (readBytes s (a / 2) (etBits et / 8))

/-- What a beat wrote: every element formed whose half-bytes no later one of the beat covers stands at its place; and every
byte that no place of the beat covers is as it was. -/
def BeatWrote (s t : State) (et : Nat) (formed : List (Got × Formed)) : Prop :=
  let w := etBits et / 4
  (∀ (j a : Nat) (q : Option Nat) (x : Nat) (e : Formed), formed[j]? = some (⟨some (x, a), q⟩, e) →
    (∀ (k a' : Nat) (q' : Option Nat) (x' : Nat) (e' : Formed), j < k → formed[k]? = some (⟨some (x', a'), q'⟩, e') →
      a' + w ≤ a ∨ a + w ≤ a') →
    elemBits t et a = e.bits % 2 ^ etBits et) ∧
  ∀ n, (∀ y ∈ formed, ∀ x a, y.1.place = some (x, a) → n < a / 2 ∨ a / 2 + max 1 (etBits et / 8) ≤ n) →
    cellGet t.mem n = cellGet s.mem n

/-- Streams a V-form walks in memory, its thread free of a repetition run: every one of its streams is bound by ZBIND. -/
def MemStreams (s : State) (op : VOp) : Prop :=
  (s.z op.d).zm = 1 ∧ (∀ x ∈ op.srcs, (s.z x.reg).zm = 1) ∧ s.th.rep.running = false ∧ s.buffered = false

/-- No waiter stands on the words that the places of a beat touch. -/
def NoWaiters (s : State) (et : Nat) (places : List Got) : Prop :=
  ∀ g ∈ places, ∀ x a, g.place = some (x, a) → NoWaiter s (a / 2) (max 1 (etBits et / 8))

end

end Sys2Proof.Machine
end

