-- ==== Sys2Proof/Certificates/Slice0/Obligations.lean ====
section
/-! DEFINITION. The statements for the provers. -/

open Sys2Proof Sys2Proof.Machine

/-- R286. Every instruction of major 0 but SEL completes with the value its row gives, modulo 2^64, shifts by gb[5:0]; S is
clear, the PC is that of the next slot, STATUS and everything else are as they were. SEL copies D and S of the operand
chosen. -/
def Obligations.MajorZeroResults : Prop :=
  ∀ (s : State) (b a d : BitVec 7),
    (Issues s [a, b] [d] → ∀ p ∈ major0 s b a d,
      Gives p.1 s fun t => ∃ v c, p.2 v c ∧ Wrote s t d v c s.nextPc s.th.status) ∧
    (Issues s [a, b, d] [d] →
      let x := if s.g d ≠ 0 then a else b
      Gives (.sel b a d) s fun t => Wrote s t d (s.g x) (s.gS x) s.nextPc s.th.status)

/-- R287, R258, R285. Major 1. An instruction of several beats keeps its slot from its first beat on, and writes with its
last, which its thread then performs. -/
def Obligations.MajorOneResults : Prop :=
  ∀ (s : State) (b a d : BitVec 7), Issues s [a, b] [d] →
    (∀ p ∈ major1 s b a d, Gives p.1 s fun t => ∃ v c, p.2 v c ∧ Wrote s t d v c s.nextPc s.th.status) ∧
    (∀ p ∈ major1Long s b a d,
      (s.th.going = true → Gives p.1 s fun t => ∃ v c, p.2 v c ∧ Wrote s t d v c s.nextPc s.th.status) ∧
      (s.th.going = false → Gives p.1 s fun t =>
        t.th.going = true ∧ t.th.pc = s.th.pc ∧ t.th.status = s.th.status ∧ s.cyc < t.th.ready ∧ FrameReg s t 0))

/-- R288. LEA, the unary instructions, and the bit-field instructions; a field that does not lie inside the word raises
ILLEGAL. -/
def Obligations.BitInstructionResults : Prop :=
  ∀ (s : State) (b a d : BitVec 7),
    (∀ h : BitVec 4, Issues s [a, b] [d] → ∀ p ∈ major23 s h b a d,
      Gives p.1 s fun t => ∃ v c, p.2 v c ∧ Wrote s t d v c s.nextPc s.th.status) ∧
    (∀ w : BitVec 7, w.toNat < 64 → Issues s [a] [d] → ∀ p ∈ major4 s w a d,
      Gives p.1 s fun t => ∃ v c, p.2 v c ∧ Wrote s t d v c s.nextPc s.th.status) ∧
    (∀ (l : BitVec 5) (p : BitVec 6), Issues s [a, d] [d] →
      (p.toNat + l.toNat + 1 ≤ 64 → ∀ q ∈ major56 s a d l p,
        Gives q.1 s fun t => ∃ v c, q.2 v c ∧ Wrote s t d v c s.nextPc s.th.status) ∧
      (64 < p.toNat + l.toNat + 1 → exec (.bfx l p a d) s = .next (raise s (trapIllegal s)) ∧
        exec (.bfi l p a d) s = .next (raise s (trapIllegal s))))

/-- R289, R290. Immediates and constants. -/
def Obligations.ImmediateResults : Prop :=
  ∀ (s : State) (a d : BitVec 7),
    (∀ (i : BitVec 11) (n : BitVec 6), Issues s [a] [d] → ∀ p ∈ immediates s i n a d,
      Gives p.1 s fun t => ∃ v c, p.2 v c ∧ Wrote s t d v c s.nextPc s.th.status) ∧
    (∀ i : BitVec 18, Issues s [d] [d] → ∀ p ∈ constants s i d,
      Gives p.1 s fun t => ∃ v c, p.2 v c ∧ Wrote s t d v c s.nextPc s.th.status)

/-- R264. A compact instruction has the effect of the 32-bit instruction beside it, but for the PC of the next parcel
(R261): wherever that instruction completes with a write of its register, so does the compact one. -/
def Obligations.CompactArithmetic : Prop :=
  ∀ (s : State) (a d : BitVec 5),
    (Issues s [r5 a, r5 d] [r5 d] → ∀ p ∈ compact2 a d,
      ∃ v c st, Gives p.2 s (fun t => Wrote s t (r5 d) v c s.nextPc st) ∧
        Gives p.1 s (fun t => Wrote s t (r5 d) v c s.nextPcC st)) ∧
    (Issues s [r5 d] [r5 d] → ∀ p ∈ compact1 a d,
      ∃ v c st, Gives p.2 s (fun t => Wrote s t (r5 d) v c s.nextPc st) ∧
        Gives p.1 s (fun t => Wrote s t (r5 d) v c s.nextPcC st))

/-- R291, R264. A branch goes to its target when its test of ga holds, and to the next slot otherwise, in one beat; the
compact branches and jumps do as the instructions they stand for, from the slot that holds them. -/
def Obligations.BranchesGoWhereTheySay : Prop :=
  ∀ (s : State),
    let passes := fun (i : Instr) (pc : BitVec 57) => Gives i s fun t => Passed s t pc ∧ t.th.ready = nextOwn s.cyc s.cur.slot
    (∀ (a : BitVec 7) (i : BitVec 16), Issues s [a] [] → ∀ p ∈ branches s a i,
      (p.2 = true → Gives p.1 s fun t => Jumped s t 0 0 (s.target i.toInt)) ∧ (p.2 = false → passes p.1 s.nextPc)) ∧
    (∀ i d : BitVec 5, Issues s [r5 d] [] →
      (s.g (r5 d) = 0 → Gives (.cBz i d) s (fun t => Jumped s t 0 0 (s.target i.toInt)) ∧ passes (.cBnz i d) s.nextPcC) ∧
      (s.g (r5 d) ≠ 0 → Gives (.cBnz i d) s (fun t => Jumped s t 0 0 (s.target i.toInt)) ∧ passes (.cBz i d) s.nextPcC)) ∧
    (∀ i : BitVec 10, Issues s [] [] → Gives (.cJ i) s fun t => Jumped s t 0 0 (s.target i.toInt)) ∧
    ∀ a : BitVec 5, Issues s [r5 a] [0] → exec (.cJr a) s = exec (.jalr 0 (r5 a) 0) s

/-- R292. The jumps write the link and go to their targets; JALR to an address that is no slot raises ALIGN, to one out of
range TRANSLATION with walk cause 1, and then writes nothing. -/
def Obligations.JumpsLinkAndGo : Prop :=
  ∀ (s : State) (d : BitVec 7),
    (∀ i : BitVec 18, Issues s [] [d] → Gives (.jal i d) s fun t => Jumped s t d s.link (s.target i.toInt)) ∧
    ∀ (a : BitVec 7) (i : BitVec 11), Issues s [a] [d] →
      let x : Word := BitVec.ofInt 64 ((s.g a).toInt + 4 * i.toInt)
      let traps := fun (code : Nat) (info : Word) => exec (.jalr i a d) s = .next (raise s ⟨code, info⟩) ∧
        (Handled s → Gives (.jalr i a d) s fun t => Trapped s t s.th.pc code info)
      (x.toNat % 4 = 0 → x.toNat < 2 ^ 57 → Gives (.jalr i a d) s fun t => Jumped s t d s.link (BitVec.ofNat 57 x.toNat)) ∧
      (x.toNat % 4 ≠ 0 → traps 2 x) ∧
      (x.toNat % 4 = 0 → 2 ^ 57 ≤ x.toNat → traps 3 (BitVec.ofNat 64 (1 * 2 ^ 60 + x.toNat % 2 ^ 57)))

/-- R293. LOOP subtracts 1, modulo 2^64, and branches while the new value is not zero, in one beat; with a = 0 it raises
ILLEGAL, and a slot of its major with k other than 0 decodes to no instruction and raises it. -/
def Obligations.LoopCountsDown : Prop :=
  ∀ (s : State) (i : BitVec 16) (a : BitVec 7), Issues s [a] [a] →
    let v : Word := BitVec.ofInt 64 ((s.g a).toInt - 1)
    (a ≠ 0 → v ≠ 0 → Gives (.loop i a) s fun t => Jumped s t a v (s.target i.toInt)) ∧
    (a ≠ 0 → v = 0 → Gives (.loop i a) s fun t => Wrote s t a 0 false s.nextPc s.th.status ∧ t.th.ready = nextOwn s.cyc s.cur.slot) ∧
    (a = 0 → exec (.loop i a) s = .next (raise s (trapIllegal s))) ∧
    ∀ k : BitVec 2, k ≠ 0 → let w : BitVec 32 := i ++ k ++ a ++ 42#6 ++ 1#1
      decodeSlot w false = .error .unassignedSelector ∧ (s.word = w → s.high = false → exec (.illegalEncoding w false) s = .next (raise s (trapIllegal s)))

/-! ## Numbers -/

/-- R235, R240. A W32, BF16 or FP16 encoding that is no NaN is the encoding of its own value, a NaN gives the canonical one,
and RoundOdd of a finite value keeps an exact one, and otherwise gives an odd last bit within one unit of it and sets S. -/
def Obligations.FormatsAndRoundOdd : Prop :=
  (∀ w : BitVec 32, encodeW32 (decodeW32 w) = if isNaN32 w then 0x7FC00000#32 else w) ∧
  (∀ w : BitVec 16, encodeBf16 (decodeBf16 w) =
    if w.extractLsb' 7 8 = 255#8 ∧ w.extractLsb' 0 7 ≠ 0 then 0x7FC0#16 else w) ∧
  (∀ w : BitVec 16, encodeFp16 (decodeFp16 w) =
    if w.extractLsb' 10 5 = 31#5 ∧ w.extractLsb' 0 10 ≠ 0 then 0x7E00#16 else w) ∧
  ∀ (f : Fmt) (n : Bool) (m : Nat) (e : Int) (t : Nat) (k : Int), 2 ≤ f.p → 0 < m →
    (roundOdd f (.fin n m e) false).1.x = .fin n t k →
    t < 2 ^ f.p ∧ f.lo ≤ k ∧ k ≤ f.hi ∧
    let r := roundOdd f (.fin n m e) false
    -- the value, its result and the result's unit, counted in the smaller of the two units
    let v : Int := m * 2 ^ (e - min k e).toNat
    let w : Int := t * 2 ^ (k - min k e).toNat
    let u : Int := 2 ^ (k - min k e).toNat
    (r.1.s = false → w = v ∧ r.2 = 0) ∧
    (r.1.s = true → t % 2 = 1 ∧ w ≠ v ∧ w - v < u ∧ v - w < u ∧ flagNX &&& r.2 = flagNX)

/-- R294, R295, R298, R246 to R248, R257, R285. Major 32 and the sticky-bit instructions of major 33: the held pair or the
word that each row gives is written, and its flags are ORed into STATUS. FDIV and FSQRT write with their last beat. -/
def Obligations.FloatResults : Prop :=
  ∀ (s : State) (b a d : BitVec 7),
    (Issues s [a, b] [d] →
      (∀ p ∈ floats s b a d, Gives p.1 s fun t =>
        Wrote s t d (heldBits p.2.1.x) p.2.1.s s.nextPc (orFlags s.th.status p.2.2)) ∧
      (∀ p ∈ floatsLong s b a d,
        (s.th.going = true → Gives p.1 s fun t =>
          Wrote s t d (heldBits p.2.1.x) p.2.1.s s.nextPc (orFlags s.th.status p.2.2)) ∧
        (s.th.going = false → Gives p.1 s fun t =>
          t.th.going = true ∧ t.th.pc = s.th.pc ∧ t.th.status = s.th.status ∧ s.cyc < t.th.ready ∧ FrameReg s t 0)) ∧
      (∀ p ∈ floatBits s b a d, Gives p.1 s fun t => ∃ v c, p.2 v c ∧ Wrote s t d v c s.nextPc s.th.status)) ∧
    (Issues s [a, b, d] [d] → Gives (.ffma b a d) s fun t =>
      let p := ffma (s.h a) (s.h b) (s.h d)
      Wrote s t d (heldBits p.1.x) p.1.s s.nextPc (orFlags s.th.status p.2))

/-- R296, R297, R299. FCVT, FRND, QENC and QDEC: what they write, with the flags of their rounding; FCVT between integers
saturates with NV and never rounds; a code 7, `.keep` to any other than W19, a mode 7 or an illegal selector is ILLEGAL. -/
def Obligations.ConversionResults : Prop :=
  ∀ (s : State) (a d : BitVec 7), Issues s [a] [d] →
    (∀ (k : BitVec 1) (y x : BitVec 3),
      let r := fcvt (decide (k = 1)) y.toNat x.toNat s.rm (s.srd 0) (regOf s s.cur a.toNat)
      (y ≠ 7 → x ≠ 7 → (k = 1 → y = 1) →
        (Gives (.fcvt k y x a d) s fun t => Wrote s t d r.1 r.2.1 s.nextPc
          (if r.2.2.2 then roundedStatus s r.2.2.1 s.rm else orFlags s.th.status r.2.2.1)) ∧
        (4 ≤ y.toNat → 4 ≤ x.toNat →
          let i := cvtInt x.toNat (s.g a)
          let lo := (cvtRange y.toNat).1
          let hi := (cvtRange y.toNat).2
          r = (BitVec.ofInt 64 (max lo (min hi i)), false, if i < lo ∨ hi < i then flagNV else 0, false))) ∧
      (y = 7 ∨ x = 7 ∨ (k = 1 ∧ y ≠ 1) → exec (.fcvt k y x a d) s = .next (raise s (trapIllegal s)))) ∧
    (∀ o : BitVec 3,
      let mode := if o = 0 then s.rm else o.toNat - 1
      let r := finalRound .w32 mode 24 (s.srd 0) (s.h a)
      (o ≠ 7 → Gives (.frnd o a d) s fun t => Wrote s t d (heldBits r.1) false s.nextPc (roundedStatus s r.2 mode)) ∧
      (o = 7 → exec (.frnd o a d) s = .next (raise s (trapIllegal s)))) ∧
    (∀ w : BitVec 1,
      let n := if w = 0 then 8 else 4
      let sel := fmtSelector s.th.fmt n
      let r := encodeCb (slotOf s s.cur.core sel) n s.rm (s.srd 0) (s.h a)
      let x := decodeCb (slotOf s s.cur.core sel) n ((s.g a).toNat % 2 ^ n)
      (selectorOk sel n = true →
        Gives (.qenc w a d) s (fun t => Wrote s t d (BitVec.ofNat 64 r.1) false s.nextPc (roundedStatus s r.2 s.rm)) ∧
        Gives (.qdec w a d) s fun t => Wrote s t d (heldBits x) false s.nextPc s.th.status) ∧
      (selectorOk sel n = false → exec (.qenc w a d) s = .next (raise s (trapIllegal s)) ∧
        exec (.qdec w a d) s = .next (raise s (trapIllegal s))))

/-- R301, R302. The packed instructions of every lane type: lane by lane PADD, PSUB, PMUL, PFMA, PMIN, PMAX and PSHUF, and
PDOT over the whole register. Every result but a floating PDOT's is written with S clear. -/
def Obligations.PackedResults : Prop :=
  ∀ (s : State) (t : LaneType) (b a d : BitVec 7), Issues s [a, b, d] [d] →
    (∀ p ∈ packedArith t b a d,
      let r := arithLane s t p.2.2.1 p.2.2.2 (s.g a) (s.g b) (s.g d)
      Gives p.1 s fun u => ∃ v, (∀ i < t.count, lane v t.bits i = (r i).1) ∧
        Wrote s u d v false s.nextPc (if t.isInt then s.th.status else roundedStatus s (laneFlags t.count r) s.rm)) ∧
    (Gives (packedOther t b a d).1 s fun u => ∃ v, (∀ i < t.count, lane v t.bits i = minMaxLane t false (s.g a) (s.g b) i) ∧
      Wrote s u d v false s.nextPc s.th.status) ∧
    (Gives (packedOther t b a d).2.1 s fun u => ∃ v, (∀ i < t.count, lane v t.bits i = minMaxLane t true (s.g a) (s.g b) i) ∧
      Wrote s u d v false s.nextPc s.th.status) ∧
    (Gives (packedOther t b a d).2.2.1 s fun u =>
      let r := dotResult s t (s.g a) (s.g b) d
      Wrote s u d r.1 r.2.1 s.nextPc (orFlags s.th.status r.2.2)) ∧
    (Gives (packedOther t b a d).2.2.2 s fun u => ∃ v,
      (∀ i < t.count, lane v t.bits i =
        if lane (s.g b) 4 i < t.count then lane (s.g a) t.bits (lane (s.g b) 4 i) else 0) ∧
      Wrote s u d v false s.nextPc s.th.status)

/-- R303. PCVT of every pair of lane types: the lanes that the group names go to the low lanes of the target, each
converted, and the other lanes are zero; a group out of range is ILLEGAL. -/
def Obligations.PackedConversions : Prop :=
  ∀ (s : State) (t : LaneType) (g : BitVec 2) (a d : BitVec 7), Issues s [a] [d] →
    ∀ p ∈ packedConverts t g a d,
      let u := p.2
      let n := min t.count u.count
      let first := if t.count ≤ u.count then 0 else g.toNat * u.count
      let r := fun i => laneConvert s t u i (lane (s.g a) t.bits (first + i))
      ((if t.count ≤ u.count then g = 0 else g.toNat < t.count / u.count) →
        Gives p.1 s fun z => ∃ v, (∀ i < u.count, lane v u.bits i = if i < n then (r i).1 else 0) ∧
          Wrote s z d v false s.nextPc (if t.isInt && u.isInt then orFlags s.th.status (laneFlags n r)
            else roundedStatus s (laneFlags n r) s.rm)) ∧
      (¬ (if t.count ≤ u.count then g = 0 else g.toNat < t.count / u.count) →
        exec p.1 s = .next (raise s (trapIllegal s)))

/-! ## Loads, stores and atomics -/

/-- R311, R264, R310. Through the self window every load writes the n bytes at its address, little-endian, extended as its
width code gives, with S clear; nothing in memory changes. -/
def Obligations.LoadsReadTheirBytes : Prop :=
  ∀ (s : State) (o : BitVec 8) (w : BitVec 3) (b a d : BitVec 7) (x y : BitVec 5), w ≠ 7 →
    ∀ f ∈ loads s o w b a d x y, ∀ pa : Nat,
      let n := 2 ^ (f.code / 2)
      Issues s f.rd [f.d] → OwnAccess s f.ea n n needLoad pa → NotHeld s f.acq false →
      Gives f.i s fun t => Touched s t f.d (loadedValue f.code (readBytes s pa n)) false 0 0
        (if f.cp then s.nextPcC else s.nextPc) s.th.status

/-- R312, R254, R264, R310. Through the self window every store writes the low n bytes of its register; with S set and n 4
or 8, D[31:0] goes as FinalRound into W32. The tags of the quarters touched are clear, and no other byte changes. -/
def Obligations.StoresWriteTheirBytes : Prop :=
  ∀ (s : State) (o : BitVec 8) (w : BitVec 3) (a x : BitVec 7) (y z : BitVec 5), w.toNat % 2 = 0 →
    ∀ f ∈ stores s o w a x y z, ∀ pa : Nat,
      Issues s f.rd [] → OwnAccess s f.ea f.n f.n needStore pa → NotHeld s false f.rel → NoWaiter s pa f.n →
      let rounds := decide (4 ≤ f.n) && s.gS f.x
      let r := finalRound .w32 s.rm 24 (s.srd 0) (s.h f.x)
      let v : Word := if rounds then (s.g f.x).extractLsb' 32 32 ++ encodeW32 r.1 else s.g f.x
      Gives f.i s fun t => (∀ i < f.n, cellGet t.mem (pa + i) = v.extractLsb' (8 * i) 8 ∧ tagAt t (pa + i) = false) ∧
        Touched s t 0 0 false pa (pa + f.n) (if f.cp then s.nextPcC else s.nextPc)
          (if rounds then roundedStatus s r.2 s.rm else s.th.status)

/-- R313, R318, R329. SPILL writes D, with S in the tag of quarter 0 and the other tags clear; FILL reads them back; SBST
replaces one nibble of a byte; TAGSET writes the low four bytes of a word. -/
def Obligations.ImagesNibblesAndTags : Prop :=
  ∀ (s : State) (i : BitVec 11) (b a d : BitVec 7) (pa : Nat),
    let ea : Word := BitVec.ofInt 64 ((s.g a).toInt + 8 * i.toInt)
    (Issues s [a, d] [] → OwnAccess s ea 8 8 needStore pa → NoWaiter s pa 8 →
      Gives (.spill i a d) s fun t => readWord t pa = s.g d ∧ tagAt t pa = s.gS d ∧
        (∀ q, q = 2 ∨ q = 4 ∨ q = 6 → tagAt t (pa + q) = false) ∧
        Touched s t 0 0 false pa (pa + 8) s.nextPc s.th.status) ∧
    (Issues s [a] [d] → OwnAccess s ea 8 8 needLoad pa →
      Gives (.fill i a d) s fun t => Touched s t d (readWord s pa) (tagAt s pa) 0 0 s.nextPc s.th.status) ∧
    (Issues s [a, b] [] → OwnAccess s (s.g a) 1 1 needStore pa → NoWaiter s pa 1 → ∀ lo : Bool,
      Gives (if lo then .sbstLo b a else .sbstHi b a) s fun t =>
        (∀ k, k < 8 → (cellGet t.mem pa).getLsbD k =
          if lo ∧ k < 4 then (s.g b).getLsbD k else if ¬ lo ∧ 4 ≤ k then (s.g b).getLsbD (k - 4)
          else (cellGet s.mem pa).getLsbD k) ∧
        tagAt t pa = false ∧ Touched s t 0 0 false pa (pa + 1) s.nextPc s.th.status) ∧
    (Issues s [a, b] [] → OwnAccess s (s.g a) 8 8 needStore pa → partialPoison s pa 4 4 = false → NotHeld s false true →
      NoWaiter s pa 4 →
      Gives (.tagset b a) s fun t => (∀ k, k < 4 → cellGet t.mem (pa + k) = (s.g b).extractLsb' (8 * k) 8) ∧
        Touched s t 0 0 false pa (pa + 4) s.nextPc s.th.status)

/-- R314, R315. The full/empty operations on a word that lets them pass; one that must wait leaves the word as it is and
its thread waiting, and a record of it at the home. -/
def Obligations.FullEmptyResults : Prop :=
  ∀ (s : State) (b a d : BitVec 7) (pa : Nat), NoWaiter s pa 8 →
    (Issues s [a] [d] → OwnAccess s (s.g a) 8 8 (feNeed 0) pa → NotHeld s true true → s.free? = true →
      (isFull s pa = true → Gives (.ldfe a d) s fun t =>
        isFull t pa = false ∧ Touched s t d (readWord s pa) false 0 0 s.nextPc s.th.status) ∧
      (isFull s pa = false → Gives (.ldfe a d) s fun t => t.th.wait = .reply (.word d) ∧ isFull t pa = false ∧
        t.waiters = s.waiters ++ [⟨pa, 0, 0, none, some s.cur⟩] ∧ FrameMem s t 0 0 0)) ∧
    (Issues s [a] [d] → OwnAccess s (s.g a) 8 8 (feNeed 1) pa → NotHeld s true false → s.free? = true →
      (isFull s pa = true → Gives (.ldff a d) s fun t =>
        isFull t pa = true ∧ Touched s t d (readWord s pa) false 0 0 s.nextPc s.th.status) ∧
      (isFull s pa = false → Gives (.ldff a d) s fun t => t.th.wait = .reply (.word d) ∧ isFull t pa = false ∧
        t.waiters = s.waiters ++ [⟨pa, 1, 0, none, some s.cur⟩] ∧ FrameMem s t 0 0 0)) ∧
    (Issues s [a, b] [] → OwnAccess s (s.g a) 8 8 (feNeed 2) pa → NotHeld s true true → s.free? = true →
      (isFull s pa = false → Gives (.stef b a) s fun t => readWord t pa = s.g b ∧ isFull t pa = true ∧
        Touched s t 0 0 false pa (pa + 8) s.nextPc s.th.status) ∧
      (isFull s pa = true → Gives (.stef b a) s fun t => t.th.wait = .reply .nothing ∧ isFull t pa = true ∧
        t.waiters = s.waiters ++ [⟨pa, 2, s.g b, none, some s.cur⟩] ∧ FrameMem s t 0 0 0)) ∧
    (Issues s [a, b] [] → OwnAccess s (s.g a) 8 8 (feNeed 3) pa → NotHeld s false true →
      Gives (.stff b a) s fun t => readWord t pa = s.g b ∧ isFull t pa = true ∧
        Touched s t 0 0 false pa (pa + 8) s.nextPc s.th.status) ∧
    (Issues s [a] [] → OwnAccess s (s.g a) 8 8 (feNeed 4) pa → NotHeld s false true →
      Gives (.feset a) s fun t => isFull t pa = false ∧ Touched s t 0 0 false 0 0 s.nextPc s.th.status) ∧
    (Issues s [a] [d] → OwnAccess s (s.g a) 8 8 (feNeed 5) pa →
      Gives (.fepeek a d) s fun t => isFull t pa = isFull s pa ∧
        Touched s t d (if isFull s pa then 1 else 0) false 0 0 s.nextPc s.th.status)

/-- R319 to R321, R246. The atomics of majors 28 to 30 through the self window: gd takes the old doubleword, memory the new one
(a failed AMOCAS writes nothing), and AMODF makes the word FULL when it counts to zero. AMOFADD adds gb's held pair to the
W32 element and its tag; gd takes the old pair, a NaN canonical. -/
def Obligations.AtomicResults : Prop :=
  ∀ (s : State) (b a d : BitVec 7) (pa : Nat), (OwnAccess s (s.g a) 8 8 needAtomic pa → NoWaiter s pa 8 →
    (∀ f ∈ atomics b a d (readWord s pa) (s.g b) (s.g d),
      Issues s (if f.usesD then [a, b, d] else [a, b]) [d] → NotHeld s f.acq f.rel →
      Gives f.i s fun t => readWord t pa = f.new.getD (readWord s pa) ∧ isFull t pa = isFull s pa ∧
        Touched s t d (readWord s pa) false pa (pa + if f.new.isSome then 8 else 0) s.nextPc s.th.status) ∧
    (∀ f ∈ amodfs b a d, Issues s [a, b] [d] → NotHeld s f.2 true →
      let v : Word := BitVec.ofInt 64 (((readWord s pa).toNat : Int) - (s.g b).toNat)
      Gives f.1 s fun t => readWord t pa = v ∧ isFull t pa = (isFull s pa || decide (v = 0)) ∧
        Touched s t d (readWord s pa) false pa (pa + 8) s.nextPc s.th.status)) ∧
    (OwnAccess s (s.g a) 4 4 needAtomic pa → NoWaiter s pa 4 → Issues s [a, b] [d] →
      ∀ f ∈ amofadds b a d, NotHeld s f.2.1 f.2.2 →
        let w : BitVec 32 := BitVec.ofNat 32 (leNat (readBytes s pa 4))
        let old : Pair := if isNaN32 w then ⟨.nan, false⟩ else ⟨decodeW32 w, tagAt s pa⟩
        let r := fadd old (s.h b)
        Gives f.1 s fun t => leNat (readBytes t pa 4) = (encodeW32 r.1.x).toNat ∧ tagAt t pa = r.1.s ∧
          tagAt t (pa + 2) = false ∧
          Touched s t d (heldBits old.x) old.s pa (pa + 4) s.nextPc (orFlags s.th.status r.2))

/-- R309, R310, R161, R178. The checks of an access come in their order: range, then a watchpoint, then alignment, then the
window or the translation; a load that fails one raises the trap named and changes nothing in memory. One that the ports of
its self window, or a unit under copy, do not serve in this slot waits in its place. -/
def Obligations.AccessChecksInOrder : Prop :=
  ∀ (s : State) (o : BitVec 8) (w : BitVec 3) (a d : BitVec 7), w ≠ 7 → Issues s [a] [d] → stSrg s.th.status = false →
    let n := 2 ^ (w.toNat / 2)
    let va := (s.g a + BitVec.ofInt 64 (o.toInt * (n : Nat))).toNat
    let traps := fun k : Nat => exec (.ld o w a d) s = .next (raise s ⟨3, BitVec.ofNat 64 (k * 2 ^ 60 + va % 2 ^ 57)⟩)
    let unwatched := watchHit s s.cur s.th va n true false = none
    (2 ^ 57 ≤ va → traps 1) ∧
    (va < 2 ^ 57 → unwatched → va % n ≠ 0 → exec (.ld o w a d) s = .next (raise s ⟨2, BitVec.ofNat 64 va⟩)) ∧
    (va < 2 ^ 57 → unwatched → va % n = 0 → selfBase ≤ va → selfPa s s.cur.core (va - selfBase) n = none → traps 7) ∧
    (∀ pa, access s s.cur (BitVec.ofNat 64 va) n n needLoad = .self pa → ¬ InSlot s pa n false → Gives (.ld o w a d) s fun t =>
      t.th.pc = s.th.pc ∧ t.th.wait = .run ∧ t.th.delay ≠ 0 ∧ s.cyc < t.th.ready ∧ t.regs = s.regs ∧ t.mem = s.mem) ∧
    (va < selfBase → unwatched → va % n = 0 → inFirmware s.cur s.th = false → ∀ e,
      tlbFind s s.cur.core.creel s.th.asid va = some e →
      let pa := pteFrame e.leaf + va % pageBytes e.size
      let device := pteU e.leaf = true ∧ 2 ^ 45 ≤ pa ∧ pa < 2 ^ 45 + 2 ^ 40
      (pteRd e.leaf = false ∨ (s.sup = false ∧ pteU e.leaf = false) ∨ device → traps 8) ∧
      (pteRd e.leaf = true → (s.sup = true ∨ pteU e.leaf = true) → ¬ device →
        (homeOf s pa = none → traps 7) ∧
        (∀ h, homeOf s pa = some h → inDomain s s.cur s.th (pteScope e.leaf) h = false →
          exec (.ld o w a d) s = .next (raise s ⟨4, BitVec.ofNat 64 va⟩)) ∧
        (∀ h, homeOf s pa = some h → inDomain s s.cur s.th (pteScope e.leaf) h = true → fencedAt s s.cur.core.creel = false →
          Gives (.ld o w a d) s fun t => t.th.wait = .reply (.load d w.toNat) ∧ t.mem = s.mem ∧ t.th.pc = s.th.pc ∧
            ∃ q, t.th.req = some q ∧ q.op = 1 ∧ q.pa = pa ∧ q.len = n ∧ q.posted = false ∧
              ∃ m ∈ t.agenda, m.act = .event (.memLoad q))))

/-- R300, R249. CBLOAD through the self window: load i at beat i, and the whole slot at the end, the reserved bits zero and
SYM kept in entry 0 only. -/
def Obligations.CodebookLoads : Prop :=
  ∀ (s : State) (n : BitVec 2) (a : BitVec 7) (pa : Nat), Issues s [a] [] → selfBase ≤ (s.g a).toNat →
    let i := if s.th.going then s.th.gathered.length else 0
    let va := s.g a + BitVec.ofNat 64 (64 * i)
    let had := if i = 0 then [] else s.th.gathered
    let read := had ++ [(va.toNat, readBytes s pa 64)]
    OwnAccess s va 64 64 needLoad pa →
    (i < 15 → Gives (.cbload n a) s fun t => t.th.going = true ∧ t.th.pc = s.th.pc ∧ t.th.gathered = read ∧
      (coreOf t t.cur.core).codebook = (coreOf s s.cur.core).codebook ∧ t.mem = s.mem ∧ t.regs = s.regs) ∧
    (i = 15 → Gives (.cbload n a) s fun t => t.th.pc = s.nextPc ∧ t.th.wait = .run ∧ t.th.going = false ∧
      t.mem = s.mem ∧ t.regs = s.regs ∧
      ∀ k, k < 256 → ∀ j, j < 32 → ((coreOf t t.cur.core).codebook.get (256 * n.toNat + k) 0).getLsbD j =
        ((decide (13 ≤ j ∨ j < 2) || (decide (j = 2 ∧ k = 0))) &&
          (BitVec.ofNat 32 (fieldAt (slotImage read (s.g a).toNat) (4 * k) 4)).getLsbD j))

/-! ## Fences, barriers, mailboxes and the message queue -/

/-- R324 to R326. BARRIVE counts an arrival in the barrier word and answers the phase it found; BWAIT passes when the phase
differs from gb[15:0], and waits otherwise. -/
def Obligations.PhaseBarriers : Prop :=
  ∀ (s : State) (b a d : BitVec 7) (pa : Nat), NoWaiter s pa 8 →
    (Issues s [a] [d] → OwnAccess s (s.g a) 8 8 (feNeed 6) pa → NotHeld s false true →
      Gives (.barrive a d) s fun t => Arrived (readWord s pa) (readWord t pa) ∧
        Touched s t d (((readWord s pa).extractLsb' 32 16).setWidth 64) false pa (pa + 8) s.nextPc s.th.status) ∧
    (Issues s [a, b] [] → OwnAccess s (s.g a) 8 8 (feNeed 7) pa → NotHeld s true false → s.free? = true →
      ((readWord s pa).extractLsb' 32 16 ≠ (s.g b).extractLsb' 0 16 →
        Gives (.bwait b a) s fun t => Touched s t 0 0 false 0 0 s.nextPc s.th.status) ∧
      ((readWord s pa).extractLsb' 32 16 = (s.g b).extractLsb' 0 16 →
        Gives (.bwait b a) s fun t => t.th.wait = .reply .nothing ∧ t.th.pc = s.th.pc ∧
          t.waiters = s.waiters ++ [⟨pa, 3, s.g b, none, some s.cur⟩] ∧ FrameMem s t 0 0 0))

/-- R322, R323, R225. FENCE.ACQ completes; FENCE.REL, FENCE.FULL and IFENCE complete when no posted write of the slot is
outstanding, and park otherwise; IFENCE leaves the locked lines of its core's instruction cache and no other. -/
def Obligations.FencesWaitForPostedWrites : Prop :=
  ∀ s : State, Issues s [] [] →
    Gives .fenceAcq s (fun t => Passed s t s.nextPc) ∧
    (s.th.posted = [] → Gives .fenceRel s (fun t => Passed s t s.nextPc) ∧
      Gives .fenceFull s (fun t => Passed s t s.nextPc) ∧
      Gives .ifence s fun t => Stepped s t 0 0 false s.nextPc s.th.status ∧
        ∀ l, l ∈ (coreOf t s.cur.core).icache ↔ l ∈ (coreOf s s.cur.core).icache ∧ l.lock.isSome = true) ∧
    (s.th.posted ≠ [] → Gives .fenceRel s (fun t => Parked s t .ack) ∧ Gives .fenceFull s (fun t => Parked s t .ack) ∧
      Gives .ifence s (fun t => Parked s t .ack))

/-- R327. MBPUT fills an EMPTY mailbox and MBGET empties a FULL one; each waits for the other's change. A change is looked at
by waiters in the next cycle. -/
def Obligations.MailboxesFillAndEmpty : Prop :=
  ∀ (s : State) (n : BitVec 4) (a d : BitVec 7), s.free? = true →
    let m := mboxOf s s.cur.core n.toNat
    let others := fun t : State => ∀ k, k ≠ n.toNat → mboxOf t s.cur.core k = mboxOf s s.cur.core k
    (Issues s [a] [] → NotHeld s false true →
      (m.full = false → Gives (.mbput n a) s fun t => mboxOf t s.cur.core n.toNat = ⟨s.g a, true, s.cur.slot⟩ ∧ others t ∧
        ⟨s.cyc + 1, .mailbox s.cur.core n.toNat⟩ ∈ t.agenda ∧ Stepped s t 0 0 false s.nextPc s.th.status) ∧
      (m.full = true → Gives (.mbput n a) s fun t => t.cores = s.cores ∧ Parked s t (.mailbox n.toNat false))) ∧
    (Issues s [] [d] → NotHeld s true false →
      (m.full = true → Gives (.mbget n d) s fun t => (mboxOf t s.cur.core n.toNat).full = false ∧ others t ∧
        ⟨s.cyc + 1, .mailbox s.cur.core n.toNat⟩ ∈ t.agenda ∧ Stepped s t d m.value false s.nextPc s.th.status) ∧
      (m.full = false → Gives (.mbget n d) s fun t => t.cores = s.cores ∧ Parked s t (.mailbox n.toNat true)))

/-- R328. WAITMSG completes when an entry of its slot is queued, and waits otherwise; MSGPOP reads the oldest such entry in
two beats, zeros with none, and removes it with the second; it is ILLEGAL with an odd d. -/
def Obligations.MessageQueueReads : Prop :=
  ∀ (s : State) (d : BitVec 7), s.free? = true →
    let e := (coreOf s s.cur.core).queue.find? fun x => decide ((x.lo.extractLsb' 8 8).toNat = s.cur.slot)
    (Issues s [] [] → (e.isSome = true → Gives .waitmsg s fun t => Passed s t s.nextPc) ∧
      (e = none → Gives .waitmsg s fun t => t.cores = s.cores ∧ Parked s t .queue)) ∧
    (d.toNat % 2 = 0 → Issues s [] (if d = 0 then [] else [d, d + 1]) →
      (s.th.going = false → Gives (.msgpop d) s fun t => t.th.going = true ∧ t.th.pc = s.th.pc ∧ t.cores = s.cores ∧
        t.th.answer = e.map (·.lo) ∧ (d ≠ 0 → regOf t t.cur d.toNat = mkEntry ((e.map (·.lo)).getD 0) false)) ∧
      (s.th.going = true → s.th.answer.isSome = e.isSome → (coreOf s s.cur.core).queueWait = [] →
        Gives (.msgpop d) s fun t =>
          (coreOf t s.cur.core).queue =
            (match e with
              | some x => (coreOf s s.cur.core).queue.erase x
              | none => (coreOf s s.cur.core).queue) ∧
          Stepped s t (if d = 0 then 0 else d + 1) ((e.map (·.hi)).getD 0) false s.nextPc s.th.status)) ∧
    (d.toNat % 2 = 1 → (s.threads.find s.cur).isSome = true →
      exec (.msgpop d) s = .next (raise s (trapIllegal s)))

/-! ## Control, traps and system registers -/

/-- R304, R307, R264. NOP and c.nop only advance; YIELD and c.yield rest for one rotation; HALT holds a task's slot and ends
a thread that SLOT_START started; WFE waits, 2^16 cycles at most; PERFRD reads its counters. -/
def Obligations.ControlInstructions : Prop :=
  ∀ s : State,
    (Issues s [] [] →
      Gives .nop s (fun t => Passed s t s.nextPc) ∧ Gives .cNop s (fun t => Passed s t s.nextPcC) ∧
      (s.free? = true → Gives .yield s (fun t => t.th.wait = .rest ∧ t.th.pc = s.nextPc ∧
          t.th.ready = nextOwn s.cyc s.cur.slot + 16 ∧ FrameReg s t 0) ∧
        Gives .cYield s (fun t => t.th.wait = .rest ∧ t.th.pc = s.nextPcC ∧
          t.th.ready = nextOwn s.cyc s.cur.slot + 16 ∧ FrameReg s t 0)) ∧
      (s.th.started = false → Gives .halt s fun t => t.th.wait = .halted ∧ FrameReg s t 0) ∧
      (s.th.started = true → s.th.posted = [] → engineBusy s s.cur = false → ownedEps s s.cur = [] →
        Gives .halt s fun t => t.threads.find s.cur = none) ∧
      (s.sup = true →
        (s.again = true ∨ wfeReady s = true → Gives .wfe s fun t => Passed s t s.nextPc) ∧
        (s.again = false → wfeReady s = false → Gives .wfe s fun t =>
          Parked s t (.event s.cyc) ∧ InCycles t 65536 (.wfeTimeout s.cur s.cyc))) ∧
      (s.sup = false → exec .wfe s = .next (raise s (trapIllegal s)))) ∧
    (∀ (t : ThreadId) (c : Nat), Gives (.wfeTimeout t c) s fun u =>
      ((threadOf s t).wait = .redo (.event c) → ⟨s.cyc, .redo t⟩ ∈ u.agenda) ∧
      ((threadOf s t).wait ≠ .redo (.event c) → u = s)) ∧
    (∀ a d : BitVec 7, Issues s [a] [d] →
      let k := (s.g a).toNat % 256
      Gives (.perfrd a d) s fun t => Wrote s t d (BitVec.ofNat 64 (if k = 0 then s.cyc else if k ≤ 5 then
        s.th.perf.getD (k - 1) 0 else 0)) false s.nextPc s.th.status)

/-- R274 to R277, R305, R265. TRAP, BKPT and an unassigned code take their traps; XRET returns, and is ILLEGAL in a user
thread or outside a handler; a trap inside a handler, or without a handler table, stops the thread and is counted. -/
def Obligations.TrapsAndReturns : Prop :=
  ∀ s : State,
    (Handled s → Issues s [] [] →
      (∀ i : BitVec 11, Gives (.trap i) s fun t => Trapped s t s.nextPc 10 (i.setWidth 64)) ∧
      (s.th.answer = none → (dbgReg s s.cur.core.creel 0).getLsbD 1 = false →
        Gives .bkpt s fun t => Trapped s t s.th.pc 9 (BitVec.ofNat 64 (s.th.pc.toNat / 4 * 4)))) ∧
    (Handled s → (s.threads.find s.cur).isSome = true → ∀ (w : BitVec 32) (h : Bool), Gives (.illegalEncoding w h) s fun t =>
      Trapped s t s.th.pc 1 (BitVec.ofNat 64 (w.toNat + if h then 2 ^ 32 else 0))) ∧
    (Issues s [] [] →
      (s.sup = true → stXm s.th.status = true → Gives .xret s fun t =>
        t.th.pc = BitVec.ofNat 57 (s.th.xpc.toNat % 2 ^ 57 / 2 * 2) ∧ t.th.wait = .run ∧ t.th.skipBreak = true ∧
        (∀ i, i < 64 → t.th.status.getLsbD i =
          if i = 16 then s.th.status.getLsbD 21 else if i = 17 ∨ i = 20 then false else s.th.status.getLsbD i) ∧
        (stReph s.th.status = true → t.th.rep.running = true) ∧ t.regs = s.regs ∧ t.mem = s.mem) ∧
      (s.sup = false ∨ stXm s.th.status = false → exec .xret s = .next (raise s (trapIllegal s))) ∧
      (∀ i : BitVec 11, stXm s.th.status = true ∨ (coreOf s s.cur.core).xvec.getLsbD 0 = false →
        Gives (.trap i) s fun t => t.threads.find s.cur = none ∧
          (s.dieRegs.get (s.cur.core.die, 0x20000 + 8 * 85) 0 ≠ BitVec.allOnes 64 →
            t.dieRegs.get (s.cur.core.die, 0x20000 + 8 * 85) 0 =
              s.dieRegs.get (s.cur.core.die, 0x20000 + 8 * 85) 0 + 1)))

/-- R268, R269, R306. SYSRD and SYSWR: a number outside the thread's class is ILLEGAL; SYSRD reads the register, SYSWR
performs its write at the end of the cycle, and DEV_DATA parks the thread until the access is performed. -/
def Obligations.SystemRegisterAccess : Prop :=
  ∀ (s : State) (n : BitVec 11) (a d : BitVec 7),
    (Issues s [] [d] →
      (sysAllowed s false n.toNat = true → n ≠ 0x311 → Gives (.sysrd n d) s fun t =>
        Wrote s t d (sysRead s s.cur n.toNat) false s.nextPc s.th.status) ∧
      (sysAllowed s false n.toNat = true → n = 0x311 → Gives (.sysrd n d) s fun t =>
        Parked s t .device ∧ InCycles t 1 (.devDataRead s.cur d)) ∧
      (sysAllowed s false n.toNat = false → exec (.sysrd n d) s = .next (raise s (trapIllegal s)))) ∧
    (∀ p ∈ sysValues s, sysRead s s.cur p.1 = p.2) ∧
    (Issues s [a] [] →
      (sysAllowed s true n.toNat = true → n ≠ 0x311 → Gives (.syswr n a) s fun t =>
        t.th = (retire s false 1).th ∧ t.regs = s.regs ∧ t.mem = s.mem ∧
        ∀ p ∈ sysEvents s (s.g a), p.1 = n → Soon t p.2) ∧
      (sysAllowed s true n.toNat = true → n = 0x311 → Gives (.syswr n a) s fun t =>
        Parked s t .device ∧ InCycles t 1 (.devDataWrite s.cur (s.g a))) ∧
      (sysAllowed s true n.toNat = false → exec (.syswr n a) s = .next (raise s (trapIllegal s))))

/-- R8, R76, R122, R201, R242, R267, R269. The register writes as events: STATUS changes only its RW fields, and keeps RM
for a written 6 or 7; the trap registers, XVEC, VTBASE and the others keep their must-be-zero bits; CHPOOL waits for free
endpoints; counters only clear; an access through DEV_DATA completes its thread's instruction. -/
def Obligations.RegisterWrites : Prop :=
  ∀ (s : State) (t : ThreadId) (v : Word), (s.threads.find t).isSome = true →
    let th := threadOf s t
    Gives (.statusWrite t v) s (fun u => ∀ i, i < 64 → (threadOf u t).status.getLsbD i =
      ((if 48 ≤ i ∨ (8 ≤ i ∧ i ≤ 13) ∨ (i < 3 ∧ v.toNat % 8 < 6) then v.getLsbD i else th.status.getLsbD i) ||
        (decide (th.runsAt = s.cyc ∧ 8 ≤ i ∧ i < 16) && th.beatFlags.getLsbD (i - 8)))) ∧
    Gives (.registerWrite t 0x010 v) s (fun u => (threadOf u t).xpc = v &&& 0x01FFFFFFFFFFFFFE#64) ∧
    Gives (.registerWrite t 0x011 v) s (fun u => (threadOf u t).xcause = v &&& 0xFF) ∧
    Gives (.registerWrite t 0x012 v) s (fun u => (threadOf u t).xinfo = v) ∧
    Gives (.registerWrite t 0x013 v) s (fun u => (coreOf u t.core).xvec = v &&& 0x01FFFFFFFFFFF001#64) ∧
    Gives (.registerWrite t 0x014 v) s (fun u => (threadOf u t).xsca = v) ∧
    Gives (.registerWrite t 0x015 v) s (fun u => (threadOf u t).xscb = v) ∧
    (∀ c : CoreId, (∀ e ∈ s.eps, e.1.1 = c → e.2.held = false) →
      Gives (.chpoolWrite c v) s fun u => (coreOf u c).chpool = v &&& 0x000FFFFF00003FFF#64) ∧
    (∀ c : CoreId, (∃ e ∈ s.eps, e.1.1 = c ∧ e.2.held = true) → exec (.chpoolWrite c v) s = .next s) ∧
    (∀ die n : Nat, Gives (.errorCounterWrite die n v) s fun u =>
      u.dieRegs.get (die, 0x20000 + 8 * n) 0 = if v = 0 then 0 else s.dieRegs.get (die, 0x20000 + 8 * n) 0) ∧
    (∀ (k : CreelId) (r : Nat), Gives (.bceWrite k r v) s fun u =>
      (creelOf u k).bce.get r 0 = if v = 0 then 0 else (creelOf s k).bce.get r 0) ∧
    (th.wait = .redo .device → ∀ d : BitVec 7,
      let off := (th.answer.getD 0).toNat
      Gives (.devDataRead t d) s (fun u => (threadOf u t).wait = .run ∧ (threadOf u t).pc = th.next ∧
        (d ≠ 0 → regOf u t d.toNat = mkEntry ((dieRead s t.core.die off).getD 0) false)) ∧
      Gives (.devDataWrite t v) s (fun u => (threadOf u t).wait = .run ∧ (threadOf u t).pc = th.next))

/-! ## Threads, tasks and engines -/

/-- R101, R102, R157, R158, R163, R176, R205. SLOT_START begins a thread in the slot that SLOT_SEL names, every register of
its range zero, or is refused with REJ; a handler begins for a service endpoint's message; each enters the rotation 8
cycles after. -/
def Obligations.ThreadsBegin : Prop :=
  ∀ s : State,
    (∀ t : ThreadId, (s.threads.find t).isSome = true →
      Gives (.dispatchEnterRotation t) s fun u =>
        ((threadOf s t).wait = .stopped → (threadOf u t).wait = .run ∧ (threadOf u t).ready = nextOwn s.cyc t.slot) ∧
        ((threadOf s t).wait ≠ .stopped → threadOf u t = threadOf s t)) ∧
    (∀ (t : ThreadId) (v : Word),
      let sel := (coreOf s t.core).slotSel
      let n := (sel.extractLsb' 16 8).toNat
      let new : ThreadId := ⟨t.core, (sel.extractLsb' 0 4).toNat⟩
      let bound := sel.getLsbD 60
      (∀ b, slotFree s new = true → (8 ≤ n ∧ n ≤ 128 ∧ n % 8 = 0) → freeRange s t.core n = some b →
        (bound = true → (selTeam s t.core.creel sel).isSome = true) →
        Gives (.slotStart t v) s fun u =>
          let th := threadOf u new
          (u.threads.find new).isSome = true ∧ th.pc = BitVec.ofNat 57 (v.toNat % 2 ^ 57 / 4 * 4) ∧
          stSup th.status = v.getLsbD 1 ∧ th.nregs = n ∧ th.base = b ∧ th.wait = .stopped ∧ th.started = true ∧
          (∀ k, k < n → regOf u new k = RegEntry.zero) ∧ InCycles u 8 (.dispatchEnterRotation new) ∧
          (bound = false → th.asid = (threadOf s t).asid ∧ th.root = (threadOf s t).root ∧ th.key = none) ∧
          (∀ q, bound = true → selTeam s t.core.creel sel = some q → th.key = some q.1 ∧ th.bound = true)) ∧
      (slotFree s new = false ∨ ¬ (8 ≤ n ∧ n ≤ 128 ∧ n % 8 = 0) ∨ freeRange s t.core n = none ∨
          (bound = true ∧ selTeam s t.core.creel sel = none) →
        Gives (.slotStart t v) s fun u => (coreOf u t.core).slotSel.getLsbD 31 = true ∧ u.threads = s.threads ∧
          u.regs = s.regs)) ∧
    (∀ (c : CoreId) (n : Nat) (t : ThreadId) (b : Nat),
      let w := vecEntry s c (nextMsg s c n).mtype.toNat
      (epOf s c n).svc = true → (epOf s c n).handler = none → msgReady s c n = true → w.getLsbD 63 = true → vecClass w < 2 →
      handlerSlot s c (8 * ((w.extractLsb' 55 4).toNat + 1)) = some (t, b) → t.core = c →
      Gives (.handlerStart c n) s fun u =>
        let th := threadOf u t
        (u.threads.find t).isSome = true ∧ th.pc = BitVec.ofNat 57 (4 * (w.toNat % 2 ^ 55)) ∧ stSup th.status = decide (vecClass w = 1) ∧
        th.nregs = 8 * ((w.extractLsb' 55 4).toNat + 1) ∧ regOf u t 1 = mkEntry (BitVec.ofNat 64 n) false ∧
        regOf u t 2 = mkEntry ((nextMsg s c n).mtype.setWidth 64) false ∧ (epOf u c n).handler = some t ∧
        InCycles u 8 (.dispatchEnterRotation t))

/-- R97, R103, R108, R114, R341. PROGRESS adds to the task's and the team's progress; TDONE joins its status word to its
team's done combination and frees its slot; ENQ reads a packet a unit a beat and answers 4 for a malformed one, 3 for one
it may not send, 0 or 1 for one that a ring of its creel takes, 2 for a full one, and waits for another creel's answer. -/
def Obligations.TaskInstructions : Prop :=
  ∀ (s : State) (a d : BitVec 7),
    (Issues s [a] [] → Gives (.progress a) s fun t => t.th.progress = min 255 (s.th.progress + (s.g a).toNat % 256) ∧
      t.th.pc = s.nextPc ∧ t.regs = s.regs ∧ t.mem = s.mem ∧
      ∀ k u, s.th.key = some k → s.teams.find k = some u →
        ∃ v, t.teams.find k = some v ∧ v.progress = u.progress + BitVec.ofNat 64 ((s.g a).toNat % 256)) ∧
    (Issues s [a] [] → s.free? = true → s.th.posted = [] → engineBusy s s.cur = false → ownedEps s s.cur = [] →
      s.th.partner = none →
      Gives (.tdone a) s fun t => t.threads.find s.cur = none ∧
        ∀ k, s.th.key = some k → (doneOf t s.cur.core.creel k).word =
          joinWords (doneOf s s.cur.core.creel k).word ((s.g a).extractLsb' 0 32 &&& 0x0FFFFFFF#32)) ∧
    (∀ pa : Nat, Issues s [a] [d] → s.free? = true → s.th.answer = none →
      let off := (s.g a).toNat
      let i := s.th.gathered.length
      let head := if i = 0 then readBytes s pa 64 else (s.th.gathered.find? fun x => decide (x.1 = 0)).elim [] (·.2)
      let len := if 1 ≤ pkLen head ∧ pkLen head ≤ 4 then pkLen head else 1
      let pkt := s.th.gathered.flatMap (fun x => x.2) ++ readBytes s (pa + 64 * i) 64
      let c := s.cur.core.creel
      let answers := fun v : Word => Gives (.enq a d) s fun t =>
        t.th.pc = s.nextPc ∧ (d ≠ 0 → regOf t t.cur d.toNat = mkEntry v false)
      OwnOperand s off 64 64 pa → poisoned s (pa + 64 * i) 64 = false → InSlot s (pa + 64 * i) 64 false →
      (i = 0 → OwnOperand s off (64 * len) 64 pa ∧ s.th.posted = []) →
      (i + 1 < len → Gives (.enq a d) s fun t => t.th.going = true ∧ t.th.pc = s.th.pc ∧ t.mem = s.mem ∧
        t.th.gathered = s.th.gathered ++ [(i, readBytes s (pa + 64 * i) 64)]) ∧
      (len ≤ i + 1 → packetOk pkt (threadLevels s s.th) = false → answers 4) ∧
      (len ≤ i + 1 → packetOk pkt (threadLevels s s.th) = true →
        (enqTarget s s.th pkt = .refused → answers 3) ∧
        (∀ k, enqTarget s s.th pkt = .own → s.th.key = some k →
          let p := lnPrio (recordOf s k.lslot)
          (∀ pads, ringRoom s c p (pkLen pkt) = some pads → ringWaits s c p (pkLen pkt) = false → answers 0 ∧ Gives (.enq a d) s fun t =>
            ringPtr t c p = ((ringPtr s c p).1 + pads + pkLen pkt, (ringPtr s c p).2)) ∧
          (ringRoom s c p (pkLen pkt) = none → answers 2)) ∧
        (∀ k h, enqTarget s s.th pkt = .child k → openHead s k = some h → h ≠ c →
          Gives (.enq a d) s fun t => t.th.wait = .redo .answer ∧ t.th.pc = s.th.pc ∧
            InCycles t (meshCycles c.x c.y h.x h.y) (.enqRemoteArrival s.cur k pkt)))) ∧
    (∀ (t : ThreadId) (k : TeamKey) (pkt : List Byte) (h : CreelId), openHead s k = some h →
      let c := t.core.creel
      let p := lnPrio (recordOf s k.lslot)
      ringWaits s h p (pkLen pkt) = false → Gives (.enqRemoteArrival t k pkt) s fun u =>
        InCycles u (1 + meshCycles h.x h.y c.x c.y)
          (.enqAnswer t (if (ringRoom s h p (pkLen pkt)).isSome then 1 else 2)) ∧
        ∀ pads, ringRoom s h p (pkLen pkt) = some pads →
          ringPtr u h p = ((ringPtr s h p).1 + pads + pkLen pkt, (ringPtr s h p).2)) ∧
    (∀ (t : ThreadId) (n : Nat), (threadOf s t).wait = .redo .answer →
      Gives (.enqAnswer t n) s fun u => (threadOf u t).answer = some (BitVec.ofNat 64 n) ∧ ⟨s.cyc, .redo t⟩ ∈ u.agenda) ∧
    (∀ v, Issues s [a] [d] → s.free? = true → s.th.answer = some v →
      Gives (.enq a d) s fun t => Wrote s t d v false s.nextPc s.th.status)

/-- R173, R174, R342 to R345. PUSHC puts a command into its engine's FIFO, answers one for engine 3 with status 3, and waits
for room; POPR takes the slot's oldest result, reads 0 when nothing is outstanding, and waits otherwise; a command is taken
into work, and its result enters when it is done; the barge slot empties a served mailbox and pushes the copy. -/
def Obligations.EngineInstructions : Prop :=
  ∀ s : State,
    (∀ (b a : BitVec 7) (pa : Nat), Issues s [a, b] [] → s.free? = true → OwnOperand s (s.g a).toNat 64 64 pa →
      s.th.posted = [] →
      let eng := (s.g b).toNat % 4
      let k := s.cur.core.creel
      let bs := readBytes s pa 64
      (eng < 3 → engineRoom s s.cur eng = true → Gives (.pushc b a) s fun t =>
        (engineOf t k eng).fifo = (engineOf s k eng).fifo ++
          [⟨s.token, s.cur.core, s.cur.slot, bs, s.th.asid, s.th.root, s.sup, s.th.key, none⟩] ∧
        InCycles t 1 (.engineCommandComplete k eng s.token) ∧ Stepped s t 0 0 false s.nextPc s.th.status) ∧
      (eng < 3 → engineRoom s s.cur eng = false → Gives (.pushc b a) s fun t => t.creels = s.creels ∧ Parked s t (.push eng)) ∧
      (eng = 3 → Gives (.pushc b a) s fun t =>
        (engineOf t k 0).results = (engineOf s k 0).results ++ [⟨s.cur.core, s.cur.slot, engResult (cmTag bs) 0 3 0⟩] ∧
        Stepped s t 0 0 false s.nextPc s.th.status)) ∧
    (∀ a d : BitVec 7, Issues s [a] [d] → s.free? = true → NotHeld s true false →
      let eng := (s.g a).toNat % 4
      let k := s.cur.core.creel
      let mine := (engineOf s k eng).results.find? fun r => decide (r.core = s.cur.core ∧ r.slot = s.cur.slot)
      (∀ r, mine = some r → Gives (.popr a d) s fun t => (engineOf t k eng).results = (engineOf s k eng).results.erase r ∧
        Stepped s t d r.word false s.nextPc s.th.status) ∧
      (mine = none → outstanding s s.cur eng false = 0 → Gives (.popr a d) s fun t =>
        Wrote s t d 0 false s.nextPc s.th.status) ∧
      (mine = none → outstanding s s.cur eng false ≠ 0 → Gives (.popr a d) s fun t =>
        t.creels = s.creels ∧ Parked s t (.pop eng))) ∧
    (∀ (k : CreelId) (eng n : Nat), enginesFrozen s k = false → fencedAt s k = false →
      let e := engineOf s k eng
      (∀ c, (e.fifo.find? fun c => decide (c.id = n)) = some c → Gives (.engineCommandComplete k eng n) s fun t =>
        c ∈ (engineOf t k eng).work ∧ (∀ x ∈ (engineOf t k eng).fifo, x.id ≠ n) ∧
        InCycles t (1 + Config.delay s.free) (.engineCommandComplete k eng n) ∧ t.mem = s.mem ∧ t.regs = s.regs) ∧
      (∀ c, (e.fifo.find? fun c => decide (c.id = n)) = none → (e.work.find? fun c => decide (c.id = n)) = some c →
        c.barge = none →
        (cmdOk eng c.bytes = false → Gives (.engineCommandComplete k eng n) s fun t =>
          (engineOf t k eng).results = e.results ++ [⟨c.core, c.slot, engResult (cmTag c.bytes) eng 3 0⟩] ∧
          (∀ x ∈ (engineOf t k eng).work, x.id ≠ n) ∧ t.mem = s.mem) ∧
        (cmdOk eng c.bytes = true → cmKind c.bytes ≤ 5 →
          let r := cmdRun s c
          Gives (.engineCommandComplete k eng n) s fun t =>
            (engineOf t k eng).results = (engineOf r.s k eng).results ++
              [⟨c.core, c.slot, engResult (cmTag c.bytes) eng r.status r.bytes⟩] ∧
            (∀ x ∈ (engineOf t k eng).work, x.id ≠ n) ∧ t.mem = r.s.mem ∧ t.bits = r.s.bits))) ∧
    (∀ (c : CoreId) (n pa : Nat), nextServed s c = some n →
      let m := mboxOf s c n
      let t : ThreadId := ⟨c, m.filler⟩
      haltedNow s c = false → clocked s c = true → engineRoom s t 0 = true → (s.threads.find t).isSome = true →
      (m.value.extractLsb' 20 36).toNat = 0 → m.value.toNat % 2 ^ 20 % 64 = 0 →
      selfPa s c (m.value.toNat % 2 ^ 20) 64 = some pa → poisoned s pa 64 = false →
      Gives (.bargeTake c) s fun u => (mboxOf u c n).full = false ∧ (coreOf u c).lastServed = n ∧
        ∃ x, (engineOf u c.creel 0).fifo = (engineOf s c.creel 0).fifo ++ [x] ∧ x.bytes = readBytes s pa 64 ∧
          x.slot = m.filler ∧ x.barge = some (m.value.extractLsb' 56 8) ∧
          InCycles u 1 (.engineCommandComplete c.creel 0 x.id))

/-! ## Static regions and the repetition buffer -/

/-- R178, R182, R346, R347. SRBEGIN opens a region whose lines are in the instruction cache, locks them and sets SRG; SREND
closes it; REPLOAD fills the buffer, REPRUN starts it, REPSTOP ends it, and a buffered beat takes the staggered slot. -/
def Obligations.RegionsAndRepetition : Prop :=
  ∀ (s : State) (b a : BitVec 7),
    (∀ pa : Nat, Issues s [a] [] → s.free? = true → s.again = false → OwnOperand s (s.g a).toNat 8 8 pa →
      let w := readWord s pa
      let r : Region := ⟨(nextSlot s.th.pc).toNat / 64 * 64, (w.extractLsb' 16 16).toNat, (w.extractLsb' 0 2).toNat, false⟩
      let closed := otherRegion s s.cur || matrixHeld s s.cur || sluicePins s s.cur.core
      (r.banks = bankCount s s.cur.core → lockFits s s.cur r = true → closed = false →
        (∀ x ∈ regionLines r, (lineFind (lockPresent s s.cur s.th.asid r) s.cur.core s.th.asid x).isSome = true) →
        Gives (.srbegin a) s fun t => t.th.region = some r ∧ stSrg t.th.status = true ∧ t.th.pc = s.nextPc ∧
          t.regs = s.regs ∧ t.mem = s.mem ∧ (coreOf t s.cur.core).icache =
            (coreOf (lockPresent s s.cur s.th.asid r) s.cur.core).icache) ∧
      (r.banks = bankCount s s.cur.core → lockFits s s.cur r = true → closed = true →
        Gives (.srbegin a) s fun t => Parked s t .region) ∧
      (r.banks ≠ bankCount s s.cur.core → exec (.srbegin a) s = .next (raise s ⟨8, 1⟩)) ∧
      (r.banks = bankCount s s.cur.core → lockFits s s.cur r = false → exec (.srbegin a) s = .next (raise s ⟨8, 2⟩))) ∧
    (Issues s [] [] → stSrg s.th.status = true → s.th.rep.running = false →
      Gives .srend s fun t => t.th.region = none ∧ stSrg t.th.status = false ∧ t.th.pc = s.nextPc ∧
        t.regs = s.regs ∧ t.mem = s.mem ∧ ∀ l ∈ (coreOf t s.cur.core).icache, l.lock ≠ some s.cur.slot) ∧
    (Issues s [] [] → stSrg s.th.status = false → exec .srend s = .next (raise s (trapIllegal s))) ∧
    (∀ pa : Nat, Issues s [a, b] [] → s.th.rep.running = false →
      let v := (s.g b).toNat
      let n := v % 16
      OwnOperand s (s.g a).toNat (4 * n) 4 pa → 1 ≤ n → n ≤ 8 →
      let ws := (List.range n).map fun i => BitVec.ofNat 32 (fieldAt (readBytes s pa (4 * n)) (4 * i) 4)
      ((∀ w ∈ ws, (bufForm w).isSome = true) → Gives (.repload b a) s fun t =>
        t.th.rep.body = ws ∧ t.th.rep.zst = v / 16 % 8 ∧ t.th.rep.ast = v / 256 % 4 ∧ t.th.rep.running = false ∧
        t.th.pc = s.nextPc ∧ t.regs = s.regs ∧ t.mem = s.mem) ∧
      (∀ w, (ws.find? fun w => (bufForm w).isNone) = some w →
        exec (.repload b a) s = .next (raise s ⟨1, BitVec.ofNat 64 w.toNat⟩))) ∧
    (Issues s [a, b] [] → s.th.rep.running = false →
      let n := (s.g a).toNat % 2 ^ 32
      Gives (.reprun b a) s fun t => t.th.pc = s.nextPc ∧ t.th.rep.body = s.th.rep.body ∧
        (n ≠ 0 → s.th.rep.body ≠ [] → t.th.rep.running = true ∧ t.th.rep.left = n ∧
          t.th.rep.iter = (s.g b).toNat % 2 ^ 32 ∧ t.th.rep.idx = 0 ∧ t.th.rep.pc = s.th.pc) ∧
        (n = 0 ∨ s.th.rep.body = [] → t.th.rep = s.th.rep)) ∧
    (Issues s [] [] → Gives .repstop s fun t => t.th.pc = s.nextPc ∧
      (s.th.rep.running = false → t.th.rep = s.th.rep) ∧
      (s.th.rep.running = true → s.th.runsAt ≠ s.cyc → t.th.rep = { s.th.rep with quit := true })) ∧
    (∀ t : ThreadId, let r := (threadOf s t).rep
      (r.running = true → Gives (.repBufferBeat t) s fun u => u.cur = t ∧
        u.hand = some ⟨t, staggered (r.body.getD r.idx 0) r.iter r.zst r.ast, false, false, true⟩ ∧
        u = { s with cur := u.cur, hand := u.hand }) ∧
      (r.running = false → exec (.repBufferBeat t) s = .next s))

/-! ## Channels -/

/-- R169, R177, R194, R196, R203, R337, R338, R340. SEND and SELECT send the bytes of their area, SENDT and SELECT at a
shaped state the tile that a stream walks, DELEG a TRANSFER that gives endpoint X away: the message leaves, the endpoint
moves along the branch of the type and gives up a credit, and the result names type, length and number. With several flits
the instruction keeps its slot first. -/
def Obligations.ChannelSends : Prop :=
  ∀ (s : State) (a : BitVec 7) (ty : BitVec 8) (ep : BitVec 6), Issues s [a] [a] →
    let c := s.cur.core
    let n := ep.toNat
    let e := epOf s c n
    let r := epRec s c n
    let w := s.g a
    let im := (flightOf s c e.flight).image
    let first := fun t : State => t.th.going = true ∧ t.th.pc = s.th.pc ∧ t.eps = s.eps ∧ s.cyc < t.th.ready ∧ FrameReg s t 0
    (∀ p ∈ [(Instr.send a ty ep, 1), (.select a ty ep, 4)], ∀ pa : Nat,
      let len := dsLen w
      MaySend s n p.2 ty.toNat (flitsOf len) → ty.toNat < 0xF8 → (0xF0 ≤ ty.toNat → len = 24 + 8 * (ty.toNat - 0xF0)) →
      (p.2 = 4 → recShaped r = false) → areaPa s w false = .ok pa → poisoned s pa len = false →
      (s.th.going = true ∨ flitsOf len = 1 → Gives p.1 s fun t =>
        epOf t c n = afterSend im e ty.toNat ∧
        Left t { mkMsg s c n e.peer ty e.sseq e.cpend (readBytes s pa len) with fleet := fleetId s s.th e.peer } ∧
        Replied s t a (resultWord 0 ty.toNat len e.sseq.toNat) s.th.status [n] 0 0) ∧
      (s.th.going = false → flitsOf len ≠ 1 → Gives p.1 s first)) ∧
    (∀ p ∈ [(Instr.sendt a ty ep, 1), (.select a ty ep, 4)], ∀ (data : List Byte) (fl : Flags) (rounded : Bool) (cost : Nat),
      let entry := entryOf s c n
      let len := tileBytes entry
      let lf := fieldAt entry 3 1
      MaySend s n p.2 ty.toNat (flitsOf len) → ty.toNat < 0xF8 → (0xF0 ≤ ty.toNat → len = 24 + 8 * (ty.toNat - 0xF0)) →
      recShaped r = true → streamFits (s.z (dsZ w)) entry = true →
      tilePayload s (s.z (dsZ w)) lf = .ok (data, fl, rounded, cost) →
      (s.th.going = true ∨ flitsOf len = 1 → Gives p.1 s fun t =>
        epOf t c n = afterSend im e ty.toNat ∧
        Left t { mkMsg s c n e.peer ty e.sseq e.cpend data with
          lfmt := BitVec.ofNat 8 lf, fleet := fleetId s s.th e.peer } ∧
        Replied s t a (resultWord 0 ty.toNat data.length e.sseq.toNat)
          (if rounded then roundedStatus s fl s.rm else orFlags s.th.status fl) [n] 0 0) ∧
      (s.th.going = false → flitsOf len ≠ 1 → Gives p.1 s first)) ∧
    (let x := (s.g a).toNat % 64
     let ex := epOf s c x
     MaySend s n 1 0xF8 1 → recDel r = true → s.again = false → ex.est = .opened → ex.slot = s.cur.slot → x ≠ n →
     ex.mark = false → ex.hown = BitVec.ofNat 64 (fieldAt (entryOf s c n) 8 8) →
     Gives (.deleg a ep) s fun t =>
       epOf t c n = afterSend im e 0xF8 ∧ epOf t c x = { ex with
         est := .delegated, tchg := s.cyc, fwd := 0, taken := false, redirected := false, fwdEnd := false, lateCredit := 0, notice := none } ∧
       Left t { mkMsg s c n e.peer 0xF8 e.sseq e.cpend (transferPayload s c x) with fleet := fleetId s s.th e.peer } ∧
       Replied s t a (resultWord 0 0xF8 40 e.sseq.toNat) s.th.status [n, x] 0 0)

/-- R202, R203, R337, R339, R340. RECV and OFFER write the next message's payload to their area, filled up with zeros to a
multiple of 8, RECVT and OFFER with T through a stream; RECV at a DEL state takes a delegated endpoint. The message is
consumed, its guards emptied, the endpoint moves on, and credit goes back where the state calls for it. -/
def Obligations.ChannelReceives : Prop :=
  ∀ (s : State) (a : BitVec 7) (ty : BitVec 8) (ep : BitVec 6), Issues s [a] [a] →
    let c := s.cur.core
    let n := ep.toNat
    let r := epRec s c n
    let w := s.g a
    let m := nextMsg s c n
    let entry := entryOf s c n
    let label := (recBranches r).any fun b => decide (b.1 = ty.toNat)
    let untraced := traceOn s c.creel 3 c.node s.cur.slot = false
    let result := resultWord 0 m.mtype.toNat m.plen m.seq.toNat
    let first := fun t : State => t.th.going = true ∧ t.th.pc = s.th.pc ∧ t.eps = s.eps ∧ FrameReg s t 0
    (∀ p ∈ [(Instr.recv a ty ep, 2), (.offer a ep, 3)], ∀ pa : Nat,
      let bs := m.payload ++ List.replicate ((8 - m.plen % 8) % 8) 0
      MayReceive s n p.2 → (p.2 = 2 → ty.toNat < 0xF8 ∧ label = true) → flitPayload (recMaxfl r) ≤ dsLen w →
      (p.2 = 3 → dsT w = true → recShaped r = true ∧ streamFits (s.z (dsZ w)) entry = true ∧ m.plen ≠ tileBytes entry) →
      areaPa s w true = .ok pa → partialPoison s pa bs.length bs.length = false → NoWaiter s pa bs.length →
      (s.th.going = true ∨ m.nflit ≤ 1 → Gives p.1 s fun t => Consumed s t c n m ∧
        (untraced → ∀ i < bs.length, cellGet t.mem (pa + i) = bs.getD i 0) ∧
        Replied s t a result s.th.status [n] pa (pa + bs.length)) ∧
      (s.th.going = false → 1 < m.nflit → Gives p.1 s first)) ∧
    (∀ p ∈ [(Instr.recvt a ty ep, 2), (.offer a ep, 3)], ∀ (s1 : State) (cost pa : Nat),
      MayReceive s n p.2 → (p.2 = 2 → ty.toNat < 0xF8 ∧ label = true) →
      (p.2 = 3 → dsT w = true ∧ flitPayload (recMaxfl r) ≤ dsLen w ∧ m.plen = tileBytes entry ∧ areaPa s w true = .ok pa) →
      recShaped r = true → streamFits (s.z (dsZ w)) entry = true → s.waiters = [] →
      tileWrite s (s.z (dsZ w)) (m.lfmt.toNat % 16) m.payload = .ok (s1, cost) →
      (s.th.going = true ∨ m.nflit ≤ 1 → Gives p.1 s fun t => Consumed s t c n m ∧ (untraced → t.mem = s1.mem) ∧
        regOf t t.cur a.toNat = (if a = 0 then RegEntry.zero else mkEntry result false) ∧
        t.th.pc = s.nextPc ∧ t.th.status = s.th.status ∧ t.th.wait = .run) ∧
      (s.th.going = false → 1 < m.nflit → Gives p.1 s first)) ∧
    (let y := (s.g a).toNat % 64
     let ey := epOf s c y
     let p := m.payload
     let old : BitVec 32 := BitVec.ofNat 32 (fieldAt p 32 4)
     let im := (flightOf s c ey.flight).image
     MayReceive s n 2 → ty = 0xF8 → recDel r = true → label = true → m.nflit ≤ 1 → ey.est = .bound → ey.slot = s.cur.slot →
     ey.hown = BitVec.ofNat 64 (fieldAt entry 8 8) →
     ∀ s1, reserve (consume s c n m) c y = some s1 →
       Gives (.recv a ty ep) s fun t => Consumed s t c n m ∧
         epOf t c y = { epOf s1 c y with
           est := .delegin, tchg := s.cyc, res := 0, state := canonState im (fieldAt p 1 1)
           astate := canonState im (fieldAt p 2 1), credit := fieldAt p 3 1, cpend := fieldAt p 4 1
           peer := BitVec.ofNat 32 (fieldAt p 16 4), sseq := BitVec.ofNat 32 (fieldAt p 20 4)
           rseq := BitVec.ofNat 32 (fieldAt p 24 4), anext := BitVec.ofNat 32 (fieldAt p 28 4), origin := old
           redirected := false, fwdEnd := false } ∧
         Left t (mkMsg s c y old 0xF8 0 0 (leBytes 4 2 ++ leBytes 4 (epAddr s c y).toNat)) ∧
         Replied s t a (resultWord 0 0xF8 m.plen old.toNat) s.th.status [n, y] 0 0)

/-- R185, R199, R200, R336. CONNECT reserves the buffer, sends Connect and waits; ACCEPT takes a Connect that is held, or waits
for one; each completes with the result that the answer left. A Connect at an accepting endpoint opens it when the hashes
are dual, and is answered; an Accept opens the endpoint that connects. -/
def Obligations.ConversationsOpen : Prop :=
  ∀ (s : State) (a : BitVec 7) (ep : BitVec 6),
    let c := s.cur.core
    let n := ep.toNat
    let e := epOf s c n
    let dst := (s.g a).extractLsb' 0 32
    -- the state of an endpoint at the start of a conversation
    let opened := fun (k : CoreId) (e : Endpoint) (peer : BitVec 32) (credit : Nat) =>
      let st := passLoops (flightOf s k e.flight).image 256 0
      { e with est := .opened, tchg := s.cyc, res := 0, peer := peer, credit := credit, sseq := 0, rseq := 0, anext := 0
               state := st, astate := st, cpend := 0 }
    let dual := fun (k : CoreId) (e : Endpoint) (p : List Byte) =>
      BitVec.ofNat 64 (fieldAt p 8 8) = e.hown ∧ (flightOf s k e.flight).dhash = BitVec.ofNat 64 (fieldAt p 0 8)
    (Issues s [a] [a] → s.free? = true → e.slot = s.cur.slot →
      (e.est = .bound → s.th.answer = none →
        (connectNowhere s dst = true → Gives (.connect a ep) s fun t =>
          epOf t c n = { e with res := 3 } ∧ Replied s t a (resultWord 3 0 0 dst.toNat) s.th.status [n] 0 0) ∧
        (connectNowhere s dst = false → reserve s c n = none → Gives (.connect a ep) s fun t =>
          epOf t c n = { e with res := 2 } ∧ Replied s t a (resultWord 2 0 0 dst.toNat) s.th.status [n] 0 0) ∧
        ∀ s1, reserve s c n = some s1 →
          (connectNowhere s dst = false → Gives (.connect a ep) s fun t =>
            epOf t c n = { epOf s1 c n with est := .connecting, tchg := s.cyc } ∧ t.th.wait = .redo (.connected n) ∧
            t.th.pc = s.th.pc ∧ t.regs = s.regs ∧ t.mem = s.mem ∧
            Left t { mkMsg s c n dst 0xFA 0 0 (offerBytes s c n) with fleet := fleetId s s.th dst }) ∧
          (∀ m, ((coreOf s c).connects.find? fun m => decide (addrEp m.dst = n)) = some m → dual c e m.payload →
            Gives (.accept a ep) s fun t =>
              epOf t c n = opened c (epOf s1 c n) m.src (fieldAt m.payload 16 1) ∧
              (coreOf t c).connects = (coreOf s c).connects.erase m ∧
              Left t (mkMsg s c n m.src 0xFB 0 0 ([0, 0, 0, 0] ++ offerBytes s c n)) ∧
              Replied s t a (resultWord 0 0 0 m.src.toNat) s.th.status [n] 0 0) ∧
          (((coreOf s c).connects.find? fun m => decide (addrEp m.dst = n)) = none → Gives (.accept a ep) s fun t =>
            epOf t c n = { epOf s1 c n with est := .accepting, tchg := s.cyc } ∧ t.th.wait = .redo (.accepted n) ∧
            t.th.pc = s.th.pc ∧ t.regs = s.regs ∧ t.mem = s.mem)) ∧
      (∀ v, s.th.answer = some v → e.est = .opened ∨ e.est = .bound →
        (Gives (.connect a ep) s fun t => t.eps = s.eps ∧ Replied s t a (resultWord e.res 0 0 dst.toNat) s.th.status [] 0 0) ∧
        (Gives (.accept a ep) s fun t => t.eps = s.eps ∧
          Replied s t a (resultWord e.res 0 0 (v.toNat % 2 ^ 32)) s.th.status [] 0 0))) ∧
    (∀ m : Msg, isServer m.dst = false →
      let k := addrCore m.dst
      let j := addrEp m.dst
      let f := epOf s k j
      (f.est = .accepting → dual k f m.payload → Gives (.connectMessage m) s fun t =>
        epOf t k j = opened k f m.src (fieldAt m.payload 16 1) ∧
        Left t (mkMsg s k j m.src 0xFB 0 0 ([0, 0, 0, 0] ++ offerBytes s k j)) ∧ t.mem = s.mem ∧ t.regs = s.regs) ∧
      (f.est = .accepting → ¬ dual k f m.payload → Gives (.connectMessage m) s fun t =>
        epOf t k j = { f with held := false, bufn := 0, bufoff := 0, est := .bound, tchg := s.cyc, res := 1 } ∧
        Left t (mkMsg s k j m.src 0xFB 0 0 ([1, 0, 0, 0] ++ offerBytes s k j)) ∧ t.mem = s.mem ∧ t.regs = s.regs) ∧
      (f.est = .bound → (coreOf s k).connects.length < 4 → Gives (.connectMessage m) s fun t =>
        (coreOf t k).connects = (coreOf s k).connects ++ [m] ∧ t.eps = s.eps ∧ t.mem = s.mem) ∧
      (f.est = .free ∨ f.est = .opened ∨ (f.est = .bound ∧ 4 ≤ (coreOf s k).connects.length) →
        Gives (.connectMessage m) s fun t => t.eps = s.eps ∧ t.mem = s.mem ∧
          Left t (mkMsg s k j m.src 0xFB 0 0 ([3, 0, 0, 0] ++ List.replicate 20 0)))) ∧
    (∀ m : Msg,
      let k := addrCore m.dst
      let j := addrEp m.dst
      let f := epOf s k j
      f.est = .connecting →
      (fieldAt m.payload 0 1 = 0 → Gives (.acceptMessage m) s fun t =>
        epOf t k j = opened k f m.src (fieldAt m.payload 20 1) ∧ t.mem = s.mem ∧ t.regs = s.regs) ∧
      (fieldAt m.payload 0 1 ≠ 0 → Gives (.acceptMessage m) s fun t =>
        epOf t k j = { f with held := false, bufn := 0, bufoff := 0, est := .bound, tchg := s.cyc, res := fieldAt m.payload 0 1 } ∧
        t.mem = s.mem ∧ t.regs = s.regs) ∧
      ∀ u, (threadOf s u).wait = .redo (.connected j) → u.core = k → u.slot = f.slot → (s.threads.find u).isSome = true →
        Gives (.acceptMessage m) s fun t => (threadOf t u).answer = some (m.src.setWidth 64 ||| 0x200000000#64) ∧
          ⟨s.cyc, .redo u⟩ ∈ t.agenda)

/-- R176, R185, R186, R216 to R218, R335, R348. EPOPEN binds a free endpoint to a flight; CLOSE closes an open one and tells
its peer; EPSTAT reads a word of its map; EPFREE frees it; MSGVEC writes a vector entry at the end of its cycle; AUTLOAD
reads an image, and the store refuses it or holds its flight. -/
def Obligations.EndpointManagement : Prop :=
  ∀ (s : State) (a : BitVec 7) (ep : BitVec 6),
    let c := s.cur.core
    let n := ep.toNat
    let e := epOf s c n
    (Issues s [a] [a] → s.free? = true →
      (e.est = .free →
        let f := ((s.g a).extractLsb' 0 5).toNat
        let fl := flightOf s c f
        (fl.valid = true → Gives (.epopen a ep) s fun t =>
          epOf t c n = { Endpoint.initial with
            est := .bound, svc := (s.g a).getLsbD 8, slot := s.cur.slot, flight := f, state := passLoops fl.image 256 0
            astate := passLoops fl.image 256 0, lin := fl.lin, lout := fl.lout, maxin := fl.maxin, maxout := fl.maxout
            hown := fl.hown, tchg := s.cyc } ∧ Replied s t a 0 s.th.status [n] 0 0) ∧
        (fl.valid = false → Gives (.epopen a ep) s fun t => t.eps = s.eps ∧
          Replied s t a (resultWord 6 0 0 0) s.th.status [] 0 0)) ∧
      (e.slot = s.cur.slot →
        (e.est = .opened → Gives (.close a ep) s fun t =>
          epOf t c n = { e with
            est := .closed, ccause := 1, cname := recName (epRec s c n), seen := false, tchg := s.cyc, cpend := 0 } ∧
          Left t (mkMsg s c n e.peer 0xF9 e.sseq e.cpend (noticePayload (recName (epRec s c n)) e.state 1 e.sseq e.rseq)) ∧
          Replied s t a 0 s.th.status [n] 0 0) ∧
        (e.est = .closed → Gives (.close a ep) s fun t =>
          epOf t c n = { e with seen := true } ∧ Replied s t a 0 s.th.status [n] 0 0)) ∧
      (e.slot = s.cur.slot ∨ s.sup = true → Gives (.epstat a ep) s fun t =>
        epOf t c n = (if e.est = .closed then { e with seen := true } else e) ∧
        Replied s t a (epWord e ((s.g a).toNat % 8)) s.th.status [n] 0 0)) ∧
    (Issues s [] [] → s.free? = true → e.slot = s.cur.slot →
      (e.est ≠ .delegated ∨ e.fwdEnd = true → Gives (.epfree ep) s fun t =>
        epOf t c n = { Endpoint.initial with tchg := if e.est = .free then e.tchg else s.cyc } ∧
        (e.est = .opened → Left t (mkMsg s c n e.peer 0xF9 e.sseq e.cpend
          (noticePayload (recName (epRec s c n)) e.state 1 e.sseq e.rseq))) ∧
        Replied s t 0 0 s.th.status [n] 0 0) ∧
      (e.est = .delegated → e.fwdEnd = false → Gives (.epfree ep) s fun t => t.eps = s.eps ∧ Parked s t (.freed n))) ∧
    (∀ (t8 : BitVec 8) (pa : Nat), Issues s [a] [] → s.free? = true →
      selfPa s c (((coreOf s c).vtbase.toNat / 2048 % 512) * 2048 + 8 * t8.toNat) 8 = some pa → InSlot s pa 8 true →
      (s.sup = true ∨ (vecClass (s.g a) ≠ 1 ∧ vecClass (readWord s pa) ≠ 1)) →
      Gives (.msgvec a t8) s fun t => Stepped s t 0 0 false s.nextPc s.th.status ∧
        ∃ q, Soon t (.memStore q) ∧ q.pa = pa ∧ q.op = 2 ∧ q.data = leBytes 8 (s.g a).toNat ∧ q.len = 8) ∧
    (∀ p1 p2 : Nat, Issues s [a] [a] → s.free? = true →
      let head := readBytes s p1 32
      let len := if headerSizes head then imLen head else 32
      OwnAccess s (s.g a) 32 32 needLoad p1 → selfPa s c ((s.g a).toNat - selfBase) len = some p2 → poisoned s p2 len = false →
      Gives (.autload a) s fun t => t.th.wait = .reply (.flight a (s.g a).toNat false) ∧ t.th.next = s.nextPc ∧
        (creelOf t c.creel).loading = (creelOf s c.creel).loading ++ [⟨s.cur, a, readBytes s p2 len⟩] ∧
        ((creelOf s c.creel).loading = [] →
          InCycles t (formCycles (readBytes s p2 len)) (.autloadComplete s.cur)) ∧
        t.regs = s.regs ∧ t.mem = s.mem) ∧
    (∀ (l : Loading) (rest : List Loading),
      let k := l.thread.core.creel
      let u := l.thread
      let th := threadOf s u
      (creelOf s k).loading = l :: rest → (s.threads.find u).isSome = true →
      (∃ d va b, th.wait = .reply (.flight d va b)) →
      let done := fun (t : State) (w : Word) => (creelOf t k).loading = rest ∧ (threadOf t u).wait = .run ∧
        (threadOf t u).pc = th.next ∧ (l.d ≠ 0 → regOf t u l.d.toNat = mkEntry w false) ∧ t.mem = s.mem
      (imageCheck l.image ≠ 0 → Gives (.autloadComplete u) s fun t => (creelOf t k).flights = (creelOf s k).flights ∧
        done t (resultWord 0x10 0 0 (256 * imageCheck l.image))) ∧
      (imageCheck l.image = 0 → placeFlight s u k l.image = none → Gives (.autloadComplete u) s fun t =>
        (creelOf t k).flights = (creelOf s k).flights ∧ done t (resultWord 0x11 0 0 0)) ∧
      (∀ s1 n, imageCheck l.image = 0 → placeFlight s u k l.image = some (s1, n) → Gives (.autloadComplete u) s fun t =>
        flightOf t u.core n = flightOf s1 u.core n ∧ (flightOf t u.core n).valid = true ∧
        (flightOf t u.core n).image = l.image ∧ done t (resultWord 0 0 0 n)))

/-- R195, R202, R203, R212 to R219. Messages at their endpoint: one in its turn that conforms is stored, with its guards, and
moves the arrival cursor; one that does not closes the endpoint; one for no conversation is answered with a notice. Credit
is added; TAKEN, REDIRECT, REDIRECTED and FWD_END carry a delegation on; a closed notice closes; the helper runs inline
code and consumes its message. -/
def Obligations.MessagesArrive : Prop :=
  ∀ (s : State) (m : Msg), isServer m.dst = false →
    let c := addrCore m.dst
    let n := addrEp m.dst
    let e := epOf s c n
    let im := (flightOf s c e.flight).image
    let credited : Endpoint := { e with credit := e.credit + m.cret.toNat }
    let delegate := fun (dst : BitVec 32) (sub : Nat) (fields : List Nat) =>
      mkMsg s c n dst 0xF8 0 0 (leBytes 4 sub ++ fields.flatMap (leBytes 4))
    let quiet := fun t : State => t.regs = s.regs ∧ ∀ j k, (j, k) ≠ (c, n) → epOf t j k = epOf s j k
    (∀ p ∈ [Instr.userMessageArrival m, .delegateTransfer m],
      (e.est = .opened → m.seq = e.anext → e.early = [] → e.notice = none →
        (arrivalOk s c n m = true → Gives p s fun t =>
          epOf t c n = { credited with anext := e.anext + 1, astate := (nextState im e.astate m.mtype.toNat).getD e.astate } ∧
          (m.nflit = 1 → let pa := unitPa s c n (slotUnit e m.seq.toNat)
            readBytes t pa 64 = (headerBytes m ++ m.payload ++ List.replicate 64 0).take 64 ∧ isFull t pa = true) ∧
          (e.svc = true → Soon t (.handlerStart c n)) ∧
          (∀ u, e.svc = false → (threadOf s u).wait = .redo (.arrival n) → u.core = c → (s.threads.find u).isSome = true →
            ⟨s.cyc, .redo u⟩ ∈ t.agenda) ∧ quiet t) ∧
        (arrivalOk s c n m = false → Gives p s fun t => t.mem = s.mem ∧ quiet t ∧
          epOf t c n = { credited with
            est := .closed, ccause := 5, cname := recName (epRec s c n), seen := false, tchg := s.cyc, cpend := 0 } ∧
          Left t (mkMsg s c n e.peer 0xF9 e.sseq e.cpend (noticePayload (recName (epRec s c n)) e.state 5 e.sseq e.rseq)))) ∧
      (e.est = .opened → 0 < (m.seq - e.anext).toNat → (m.seq - e.anext).toNat < 2 ^ 31 → Gives p s fun t =>
        let here := e.held = true ∧ (m.seq - e.rseq).toNat < e.lin
        epOf t c n = { credited with early := e.early ++ [m] } ∧ quiet t ∧ (¬ here → t.mem = s.mem) ∧
        (here → m.nflit = 1 → let pa := unitPa s c n (slotUnit e m.seq.toNat)
          readBytes t pa 64 = (headerBytes m ++ m.payload ++ List.replicate 64 0).take 64 ∧ isFull t pa = true)) ∧
      (e.est = .free ∨ e.est = .bound → Gives p s fun t => t.eps = s.eps ∧ t.mem = s.mem ∧
        Left t (mkMsg s c n m.src 0xF9 0 0 (noticePayload 0 0 4 0 0))) ∧
      (e.est = .closed → Gives p s fun t => t.eps = s.eps ∧ t.mem = s.mem ∧ t.agenda = s.agenda)) ∧
    (e.est = .opened ∨ e.est = .delegin → Gives (.creditReturn m) s fun t =>
      epOf t c n = credited ∧ quiet t ∧ t.mem = s.mem ∧
      ∀ u, m.cret ≠ 0 → (threadOf s u).wait = .redo (.credit n) → u.core = c → (s.threads.find u).isSome = true →
        ⟨s.cyc, .redo u⟩ ∈ t.agenda) ∧
    (let y := BitVec.ofNat 32 (fieldAt m.payload 4 4)
     -- the peer learns of the new holder, when no message lies unconsumed here
     (e.est = .delegated → e.notice = none → e.anext = e.rseq → Gives (.taken m) s fun t =>
       epOf t c n = { e with fwd := y, taken := true } ∧ Left t (delegate e.peer 3 [y.toNat, e.anext.toNat]) ∧
       quiet t ∧ t.mem = s.mem) ∧
     (e.est = .opened → Gives (.redirect m) s fun t =>
       epOf t c n = { e with peer := y, dcut := BitVec.ofNat 32 (fieldAt m.payload 8 4), cpend := 0 } ∧
       Left t { delegate m.src 4 [e.sseq.toNat] with cret := BitVec.ofNat 8 e.cpend } ∧ Left t (delegate y 4 [e.sseq.toNat]) ∧ quiet t ∧ t.mem = s.mem)) ∧
    (e.est = .delegated → Gives (.redirected m) s fun t =>
      epOf t c n = { e with held := false, bufn := 0, bufoff := 0, fwdEnd := true, lateCredit := e.lateCredit + m.cret.toNat } ∧
      Left t (delegate e.fwd 5 [min 255 (e.lateCredit + m.cret.toNat)]) ∧ quiet t ∧ t.mem = s.mem ∧
      ∀ u, (threadOf s u).wait = .redo (.freed n) → u.core = c → (s.threads.find u).isSome = true →
        ⟨s.cyc, .redo u⟩ ∈ t.agenda) ∧
    (e.est = .delegin →
      (Gives (.redirected m) s fun t => quiet t ∧ t.mem = s.mem ∧
        epOf t c n = { credited with
          redirected := true, est := if e.fwdEnd then .opened else .delegin, tchg := if e.fwdEnd then s.cyc else e.tchg }) ∧
      (Gives (.fwdEnd m) s fun t => quiet t ∧ t.mem = s.mem ∧
        epOf t c n = { e with fwdEnd := true, credit := e.credit + fieldAt m.payload 4 4
                              est := if e.redirected then .opened else .delegin
                              tchg := if e.redirected then s.cyc else e.tchg })) ∧
    (e.est = .opened → Gives (.closedNotice m) s fun t => quiet t ∧ t.mem = s.mem ∧
      epOf t c n = { e with est := .closed, ccause := 2, cname := m.payload.getD 0 0, seen := false, tchg := s.cyc }) ∧
    (e.est = .closed ∨ e.est = .free → exec (.closedNotice m) s = .next s) ∧
    (∀ (k : CoreId) (j : Nat), msgReady s k j = true → recvKind (recKind (epRec s k j)) = true →
      (epOf s k j).est = .opened →
      let x := nextMsg s k j
      let regs := (List.range 16).map fun i =>
        if 1 ≤ i ∧ i ≤ x.mtype.toNat - 0xF0 then BitVec.ofNat 64 (fieldAt x.payload (24 + 8 * (i - 1)) 8) else 0
      let slots := (List.range 6).map fun i => BitVec.ofNat 32 (fieldAt x.payload (4 * i) 4)
      let meets := fun t : State => t.dieRegs.get (k.die, 0x20000 + 8 * 70) 0
      meets (helperRun s k regs slots) = meets s →
      Gives (.inlineCodeRun k j) s fun t => t.mem = (helperRun s k regs slots).mem ∧
        (s.waiters = [] → t.regs = s.regs ∧ Consumed s t k j x))

/-! ## Streams -/

/-- R353 to R356, R349, R351, R352. ZBIND binds a stream to a valid shape record and a base; ZBINDC to an endpoint of the slot;
ZSTAT reads the register. An invalid record is ILLEGAL, a base that is not aligned to the element raises ALIGN, and another
slot's endpoint PROTOCOL with cause 1. -/
def Obligations.StreamsBind : Prop :=
  ∀ (s : State) (b a d : BitVec 7) (n : BitVec 3) (pa : Nat) (ds : List Shard), s.th.rep.running = false →
    let off := (s.g b).toNat % 2 ^ 20
    let h := shapeOf (readBytes s pa 64)
    let base := (s.g a).toNat
    let w := max 1 (etBits h.et / 8)
    let ep := (s.g a).toNat % 64
    let bound := fun (t : State) (z : ZReg) => t.th.z = s.th.z.set n.toNat z ∧ SameThread { s.th with z := t.th.z } t.th ∧
      t.th.pc = s.nextPc ∧ t.th.status = s.th.status ∧ t.regs = s.regs ∧ t.mem = s.mem ∧ t.eps = s.eps
    -- the descriptor: none, or the 32 bytes at DISTOFF
    let described := if h.distv then
        watchHit s s.cur s.th (selfBase + h.distoff) 32 true false = none ∧
        ∃ da, windowPa s s.cur (selfBase + h.distoff) 32 = .ok da ∧ poisoned s da 32 = false ∧
          distOk (readBytes s da 32) h.rank = true ∧ ds = distOf (readBytes s da 32)
      else ds = []
    (Issues s [a, b] [] → OwnOperand s off 64 64 pa →
      (shapeOk h = true → described →
        (base % w = 0 → (windowPa s s.cur base w).isOk = true → Gives (.zbind b a n) s fun t =>
          bound t ⟨1, 0, 0, false, off, BitVec.ofNat 57 base, 0, h, ds⟩) ∧
        (base % w ≠ 0 → exec (.zbind b a n) s = .next (raise s ⟨2, BitVec.ofNat 64 base⟩)) ∧
        (h.flags = 0 → h.tagx = 0 → h.et ≠ 15 →
          let e := epOf s s.cur.core ep
          (e.est ≠ .free → e.slot = s.cur.slot → Gives (.zbindc b a n) s fun t =>
            bound t ⟨2, ep, (s.g a).extractLsb' 8 8, false, off, 0, 0, h, ds⟩) ∧
          (e.est = .free ∨ e.slot ≠ s.cur.slot → exec (.zbindc b a n) s = .next (raise s (trapProtocol 1 ep))))) ∧
      (shapeOk h = false → exec (.zbind b a n) s = .next (raise s (trapIllegal s)) ∧
        exec (.zbindc b a n) s = .next (raise s (trapIllegal s))) ∧
      (shapeOk h = true → h.flags ≠ 0 ∨ h.tagx ≠ 0 ∨ h.et = 15 →
        exec (.zbindc b a n) s = .next (raise s (trapIllegal s)))) ∧
    (Issues s [] [d] → Gives (.zstat n d) s fun t => Wrote s t d
      (BitVec.ofNat 64 ((s.z n.toNat).zpos % 2 ^ 32 + (if (s.z n.toNat).ztag then 2 ^ 32 else 0) +
        2 ^ 48 * (s.z n.toNat).ztype.toNat + 2 ^ 56 * ((s.z n.toNat).zep % 64) + 2 ^ 62 * ((s.z n.toNat).zm % 4)))
      false s.nextPc s.th.status)

/-- R357, R358, R352. Where a walk position leads: to ZBASE plus the sum of its coordinates times their strides, in units of
the element's width, each coordinate the position's digit plus the origin; the index tensor, or an override, takes the
place of one; CLAMPV brings a read into the box and lets a write outside it go nowhere, as what lies outside the global
extents does. -/
def Obligations.StreamElementPlaces : Prop :=
  ∀ (s : State) (t : ThreadId) (z : ZReg) (write : Bool) (p : Nat) (k : Option Int) (x : Nat),
    let h := z.shape
    let e := fun d => max 1 (h.ext.getD d 1)
    let digit := fun d => if d = 0 then p % e 0 else if d = 1 then p / e 0 % e 1 else if d = 2 then p / e 0 / e 1 % e 2
      else p / e 0 / e 1 / e 2 % e 3
    let entry := selfBase + h.idxoff + 4 * digit h.idim
    let c : Nat → Int := fun d =>
      if d = h.idim ∧ k.isSome then k.getD 0
      else if d = h.idim ∧ h.idxv then (leNat (readBytes s x 4) : Int)
      else (digit d : Int) + h.org.getD d 0
    let inside := ∀ d < 4, h.clo.getD d 0 ≤ c d ∧ c d ≤ h.chi.getD d 0
    let c' : Nat → Int := fun d => if h.clampv then min (h.chi.getD d 0) (max (h.clo.getD d 0) (c d)) else c d
    let nib : Int := 2 * (z.zbase.toNat : Int) +
      (c' 0 * h.str.getD 0 0 + c' 1 * h.str.getD 1 0 + c' 2 * h.str.getD 2 0 + c' 3 * h.str.getD 3 0) * (etBits h.et / 4 : Nat)
    let bytes := max 1 (etBits h.et / 8)
    let va := (nib / 2).toNat
    h.ext.length = 4 → h.idim < 4 →
    (h.idxv = true → watchHit s t (threadOf s t) entry 4 true false = none ∧ windowPa s t entry 4 = .ok x ∧ poisoned s x 4 = false) →
    let idx := if h.idxv then some (2 * x) else none
    let outside := h.distv = true ∧ globalCoords s t z ((List.range 4).map c) = none
    (outside → reach s t z write p k = .ok ⟨none, idx⟩) ∧
    (¬ outside → h.clampv = true → write = true → ¬ inside → reach s t z write p k = .ok ⟨none, idx⟩) ∧
    (∀ pa, ¬ outside → (h.clampv = true → write = true → inside) → watchHit s t (threadOf s t) va bytes (!write) write = none →
      2 * (selfBase : Int) ≤ nib → nib < 2 ^ 58 → windowPa s t va bytes = .ok pa →
      reach s t z write p k = .ok ⟨some (nib.toNat, 2 * pa + (nib % 2).toNat), idx⟩)

/-- R360 to R369, R242. A beat of a V-form on streams in memory: each destination element holds the value that the
instruction's rule gives, formed as R361 says; the destination's position advances; the flags and the use of SRD enter
STATUS with the last beat, after which the instruction is complete, and before it another beat follows. A beat that the
ports do not serve in this slot waits in its place. -/
def Obligations.VectorElements : Prop :=
  ∀ (s : State) (r : BitVec 2) (t c b a d : BitVec 3), Issues s [] [] →
    ∀ p ∈ vectorArith s r t c b a d ++ vectorSpecial r t a d ++ vectorLogic s r t c b a d ++ vectorMoves s r t b a d ++
      vectorConvert r t c b a d,
    p.ok = true → vOk s p.op p.classes = true → MemStreams s p.op →
    let s1 := openWalk s
    let z := s.z p.op.d
    let left := z.shape.total - z.zpos
    let n := min (beatElems p.op.et z.shape.et) left
    ∀ (cols : List (ZReg × List Elem)) (gs places : List Got) (runs : List (Nat × Bool)) (marks : List Nat),
      readCols s1 z.zpos n p.op.srcs [] = .ok (cols, gs, runs) → destPlaces s1 p.op n cols = .ok places →
      putsPoison s1 z.shape.et places = none → tagChecks s1 (p.op.srcs.map VSrc.reg) = .ok marks →
      NoWaiters s z.shape.et places →
      let served := BeatServed s1 (runs ++ vRuns s1 z true places) (gs ++ places)
      let formed := (places.zip (List.range n)).map fun x =>
        (x.1, formElem s1 s1.cur z.shape.et p.op.rc (z.zpos + x.2) (p.val s1 cols x.2))
      let made := formed.filter fun x => x.1.place.isSome
      let flags := made.foldl (fun f x => f ||| x.2.fl) s1.th.vflags
      let srd := s1.th.vsrd || made.any fun x => x.2.rounded &&
        (decide (walkMode s1.th p.op.rc = 5) || decide (s1.th.vrm = 5 ∧ etInteger z.shape.et = true))
      let st := orFlags s.th.status flags
      (¬ served → Gives p.i s fun u => u.mem = s.mem ∧ u.regs = s.regs ∧ u.th.pc = s.th.pc ∧ u.th.wait = .run ∧ u.th.delay ≠ 0 ∧
        s.cyc < u.th.ready) ∧
      (served → Gives p.i s fun u => BeatWrote s u z.shape.et formed ∧ u.regs = s.regs ∧
        (∀ v, v ≠ s.cur → u.threads.find v = s.threads.find v) ∧
        (u.z p.op.d).zpos = (z.zpos + n) % max 1 z.shape.total ∧
        (n = left → u.th.pc = s.nextPc ∧ u.th.going = false ∧ u.th.wait = .run ∧
          u.th.status = (if srd then bumpSrdc st else st)) ∧
        (n ≠ left → u.th.pc = s.th.pc ∧ u.th.going = true ∧ u.th.status = s.th.status ∧ u.th.vflags = flags ∧ u.th.vsrd = srd))

/-- R366, R255. A beat of a row instruction on streams in memory: every row that becomes whole gives its destination element
the value of the instruction's rule, from the elements kept of the row and those the beat reads; VSCAN gives each element
the sum of its row up to it. The last beat completes the instruction. -/
def Obligations.VectorRowsAndScans : Prop :=
  ∀ (s : State) (r : BitVec 2) (t b a d : BitVec 3), Issues s [] [] →
    let s1 := openWalk s
    let z := s.z d.toNat
    let za := s.z a.toNat
    let len := max 1 (za.shape.ext.getD 0 1)
    let ph := s1.th.vphase
    -- the elements that a stream supplies to the beat, with their places
    let reads := fun (i n : Nat) (gs : List Got) (es : List Elem) =>
      (nextPositions (s.z i) ph n).mapM (fun x => reach s1 s1.cur (s.z i) false x.1 x.2) = .ok gs ∧
        gs.mapM (elemAt s1 (s.z i).shape.et) = .ok es
    let writes := fun (first n : Nat) (places : List Got) =>
      (nextPositions z first n).mapM (fun x => reach s1 s1.cur z true x.1 x.2) = .ok places ∧
        putsPoison s1 z.shape.et places = none ∧ NoWaiters s z.shape.et places
    let frame := fun u : State => u.regs = s.regs ∧ ∀ v, v ≠ s.cur → u.threads.find v = s.threads.find v
    (∀ p ∈ vectorRows r t b a d,
      let op : VOp := ⟨t.toNat, r.toNat, d.toNat, p.srcs.map fun x => .seq x.toNat, none⟩
      let left := (z.shape.total - z.zpos) * len - ph
      let n := min (beatElems op.et z.shape.et) left
      let rows := (ph + n) / len
      p.ok = true → vOk s op (p.srcs.map fun _ => p.cls) = true → MemStreams s op →
      ∀ (ga gb places : List Got) (ea eb : List Elem) (marks : List Nat),
        reads a.toNat n ga ea → (p.srcs.length = 2 → reads b.toNat n gb eb) → (p.srcs.length = 1 → eb = []) →
        writes 0 rows places → tagChecks s1 (p.srcs.map fun x => x.toNat) = .ok marks →
        BeatServed s1 (vRuns s1 za false ga ++ (if p.srcs.length = 2 then vRuns s1 (s.z b.toNat) false gb else []) ++
          vRuns s1 z true places) (ga ++ (if p.srcs.length = 2 then gb else []) ++ places) →
        let as := keptRow s1.th 0 ++ ea
        let bs := keptRow s1.th 1 ++ eb
        let row := fun (l : List Elem) (i : Nat) => (l.drop (i * len)).take len
        let formed := (places.zip (List.range rows)).map fun x =>
          (x.1, formElem s1 s1.cur z.shape.et r.toNat (z.zpos + x.2) (p.val s1 (row as x.2) (row bs x.2)))
        Gives p.i s fun u => BeatWrote s u z.shape.et formed ∧ frame u ∧
          (u.z d.toNat).zpos = (z.zpos + rows) % max 1 z.shape.total ∧
          (n = left → u.th.pc = s.nextPc ∧ u.th.going = false ∧ u.th.wait = .run) ∧
          (n ≠ left → u.th.pc = s.th.pc ∧ u.th.going = true ∧ u.th.status = s.th.status ∧
            u.th.vphase = (as.drop (rows * len)).length)) ∧
    (let op : VOp := ⟨t.toNat, r.toNat, d.toNat, [.seq a.toNat], none⟩
     let left := z.shape.total - z.zpos - ph
     let n := min (beatElems op.et z.shape.et) left
     okRound r t = true → vOk s op [if etInt t then etInteger else etFloating] = true → MemStreams s op →
     ∀ (ga places : List Got) (ea : List Elem) (marks : List Nat),
       reads a.toNat n ga ea → writes ph n places → tagChecks s1 [a.toNat] = .ok marks →
       BeatServed s1 (vRuns s1 za false ga ++ vRuns s1 z true places) (ga ++ places) →
       let all := keptRow s1.th 0 ++ ea
       let upTo := fun j => (all.drop ((ph + j) / len * len)).take ((ph + j) % len + 1)
       let val := fun (l : List Elem) => if etInt t then VVal.int (rowInts s1 a l).sum 0 false
         else held24 (sumRow (rowPairs s1 a l))
       let formed := (places.zip (List.range n)).map fun x =>
         (x.1, formElem s1 s1.cur z.shape.et r.toNat (z.zpos + ph + x.2) (val (upTo x.2)))
       Gives (.vscan r t a d) s fun u => BeatWrote s u z.shape.et formed ∧ frame u ∧
         (n = left → u.th.pc = s.nextPc ∧ u.th.going = false ∧ u.th.wait = .run) ∧
         (n ≠ left → u.th.pc = s.th.pc ∧ u.th.going = true ∧ u.th.status = s.th.status))

/-! ## The matrix unit -/

/-- R375 to R380, R384, R386 to R389. An M-form whose descriptor, streams and selectors are as its rule asks goes to the queue
of the matrix unit, which accepts in the next cycle when it is idle, and its thread waits; MSET takes the descriptor, MSTAT
reads the state of the unit and the accumulators. -/
def Obligations.MatrixInstructionsIssue : Prop :=
  ∀ (s : State) (c : BitVec 3) (z : BitVec 1) (x b a q : BitVec 3) (n : BitVec 2), s.cur.core.isCompute = true →
    otherRegion s s.cur = false → s.th.rep.running = false → s.buffered = false →
    let k := s.cur.core
    let d := s.th.mdesc
    let class_ := fun (i cls : Nat) => (s.z i).zm = 1 ∧ classAdmits cls (s.z i).shape.et = true ∧
      etSelector s.th.fmt (s.z i).shape.et = true
    let scales := mdSfmt d = 0 ∨ ((c = 6 ∨ c = 7) ∧ ((s.z (mdZsa d)).zm = 1 ∧ (s.z (mdZsa d)).shape.et = mdSfmt d) ∧
      (s.z (mdZsb d)).zm = 1 ∧ (s.z (mdZsb d)).shape.et = mdSfmt d)
    let queued := fun t : State => (coreOf t k).mqueue = (coreOf s k).mqueue ++ [⟨s.cur.slot, s.word, s.cyc, false⟩] ∧
      t.th.wait = .redo .matrix ∧ t.th.next = s.nextPc ∧ t.th.pc = s.th.pc ∧ t.regs = s.regs ∧ t.mem = s.mem ∧
      ((coreOf s k).mrun = none → ∃ at_, ⟨at_, .event (.matrixAccept k)⟩ ∈ t.agenda)
    (Issues s [] [] → q.toNat ≤ 3 →
      (c.toNat ≠ 4 → s.th.mvalid = true → class_ a.toNat c.toNat → class_ b.toNat c.toNat → scales →
        ((tagChecks s ([a.toNat, b.toNat] ++ scaleRegs s)).isOk = true → Gives (.mma c z b a q) s queued) ∧
        (class_ x.toNat 4 → (tagChecks s ([a.toNat, b.toNat, x.toNat] ++ scaleRegs s)).isOk = true →
          Gives (.mmag c z x b a q) s queued)) ∧
      (s.th.mvalid = true → class_ a.toNat c.toNat → (tagChecks s [a.toNat]).isOk = true →
        Gives (.mload c a q) s queued ∧ Gives (.mldt c a q) s queued) ∧
      Gives (.mclr n q) s queued ∧
      (∀ r gx gy, s.free? = true → s.th.mvalid = true → gridPos s s.cur = some (r, gx, gy) →
        (c.toNat ≠ 4 → (mdSfmt d = 0 ∨ c = 6 ∨ c = 7) →
          (∀ y ∈ teamStreams s gx gy a.toNat b.toNat, if y.2 then mScales s y.1 = true else class_ y.1 c.toNat) →
          (tagChecks s ((teamStreams s gx gy a.toNat b.toNat).map fun y => y.1)).isOk = true →
          Gives (.mteam c z b a q) s queued) ∧
        (mdGw d = mdGh d → (s.z a.toNat).zm = 1 → (s.z b.toNat).zm = 1 → (s.z a.toNat).zpos = 0 → (s.z b.toNat).zpos = 0 →
          (s.z a.toNat).shape.et = (s.z b.toNat).shape.et → (s.z a.toNat).shape.total = (s.z b.toNat).shape.total →
          (s.z a.toNat).shape.total * etBits (s.z a.toNat).shape.et ≤ 2 ^ 17 → (tagChecks s [a.toNat]).isOk = true →
          Gives (.mswap b a) s queued))) ∧
    (∀ pa : Nat, Issues s [a.setWidth 7] [] → OwnOperand s ((s.g (a.setWidth 7)).toNat % 2 ^ 20) 32 32 pa →
      (mdOk (readBytes s pa 32) = true → Gives (.mset a) s fun t => t.th.mdesc = readBytes s pa 32 ∧ t.th.mvalid = true ∧
        t.th.pc = s.nextPc ∧ t.regs = s.regs ∧ t.mem = s.mem) ∧
      (mdOk (readBytes s pa 32) = false → exec (.mset a) s = .next (raise s (trapIllegal s)))) ∧
    (Issues s [] [a.setWidth 7] → Gives (.mstat a) s fun t => ∃ v : Word, Wrote s t (a.setWidth 7) v false s.nextPc s.th.status ∧
      (∀ g < 4, (v.getLsbD g = true ↔ ∃ e ∈ (coreOf s k).acc, e.1 / 1024 = g ∧ e.2.s = true) ∧
        (v.getLsbD (4 + g) = true ↔ ∃ e ∈ (coreOf s k).acc, e.1 / 1024 = g ∧ decodeW32 e.2.bits = .nan)) ∧
      v.getLsbD 8 = s.th.mvalid ∧ v.getLsbD 9 = s.th.tmis ∧
      v.toNat / 2 ^ 16 % 2 ^ 8 = (if s.th.mvalid then mdM d else 0) ∧
      v.toNat / 2 ^ 24 % 2 ^ 8 = (if s.th.mvalid then mdN d else 0) ∧
      v.toNat / 2 ^ 40 % 2 ^ 8 = s.th.mseq.toNat % 2 ^ 8 ∧ v.toNat / 2 ^ 48 = min 65535 s.th.lastd)

/-- R255, R372, R376, R381, R382, R387, R388. The tiles: an element of a product is its prior value, or +0, plus the sum of its
row's and its column's products: exact and wrapped for integers, else group by group of 32; each element of a tile has its
own place in the accumulators. -/
def Obligations.MatrixTiles : Prop :=
  (∀ (s : State) (k : CoreId) (cls q : Nat) (d : List Byte) (clear : Bool) (a sa b sb : List MElem) (i j : Nat),
    i < mdM d → j < mdN d → a.length = mdM d * mdK d → b.length = mdN d * mdK d →
    let as := (a.drop (mdK d * i)).take (mdK d)
    let bs := (b.drop (mdK d * j)).take (mdK d)
    let prior := if clear then melemZero else accOf s k (accIndex q i j)
    ∃ e, (accIndex q i j, e) ∈ (tileOf s k cls q d clear a sa b sb).1 ∧
      ((cls = 4 ∨ cls = 5) → e.s = false ∧
        e.bits = BitVec.ofInt 32 (prior.bits.toInt + ((as.zip bs).map fun p => p.1.bits.toInt * p.2.bits.toInt).sum)) ∧
      (cls ≠ 4 → cls ≠ 5 → mdBlk d = 0 → 1 ≤ mdK d → mdK d ≤ 32 →
        let ps := (as.zip bs).map fun p => (mulPair (melemPair p.1) (melemPair p.2)).1
        e = melemOf (fadd (melemPair prior) (tree 5 (padTo 32 ps)).1).1)) ∧
  (∀ q i j i' j', i < 64 → j < 64 → i' < 64 → j' < 64 → accIndex q i j = accIndex q i' j' → i = i' ∧ j = j') ∧
  ∀ q i j, accIndex q i j < 4096

/-- R378, R382, R384 to R388, R394. The unit takes the oldest instruction of its queue, reads its operands, and commits all of
its results at the end of its last beat: the accumulators, the streams' positions, the flags, the beats taken, and the
thread goes on. Blocks and swap messages wait in the latch; a mismatch is counted and changes no accumulator. -/
def Obligations.MatrixUnitRuns : Prop :=
  ∀ (s : State) (k : CoreId),
    (∀ (m : MInstr) (rest : List MInstr), (coreOf s k).mqueue = m :: rest → (coreOf s k).mrun = none → haltedNow s k = false →
      m.buffered = false →
      let t : ThreadId := ⟨k, m.slot⟩
      let th := threadOf s t
      let d := th.mdesc
      let major := (m.word.extractLsb' 1 6).toNat
      let mfn := (m.word.extractLsb' 19 8).toNat
      let cls := (m.word.extractLsb' 29 3).toNat
      let q := (m.word.extractLsb' 7 3).toNat
      let za := (m.word.extractLsb' 10 3).toNat
      let zb := (m.word.extractLsb' 13 3).toNat
      let low := (m.word.extractLsb' 27 2).toNat
      -- the instruction runs with a tile, for so many beats
      let runs := fun (u : State) (tile : List (Nat × MElem)) (beats : Nat) =>
        (coreOf u k).mqueue = rest ∧ InCycles u (beats - 1) (.matrixCommit k) ∧ u.mem = s.mem ∧ u.regs = s.regs ∧
        ∃ r, (coreOf u k).mrun = some r ∧ r.instr = m ∧ r.tile = tile ∧ r.finish = s.cyc + beats - 1 ∧ r.cost = beats ∧
          r.team = false ∧ r.trap = none ∧ r.mismatch = false
      (∀ (rows : List Int) (a sa b sb : List MElem) (rx ra rb : List (Nat × Bool)), major = 61 →
        let there := modCore s k fun c => { c with mqueue := rest }
        (mfn = 0 ∧ rows = upTo (mdM d) ∧ rx = []) ∨
          (mfn = 1 ∧ gatherRows there t (m.word.extractLsb' 16 3).toNat (mdM d) = .ok (rows, rx)) →
        supplyA there t d cls za rows = .ok (a, sa, ra) → supplyB there t d cls zb = .ok (b, sb, rb) →
        Gives (.matrixAccept k) s fun u => runs u (tileOf s k cls q d (decide (low % 2 = 1)) a sa b sb).1
          (8 + max (rx ++ ra ++ rb).length (mulCycles d cls))) ∧
      (∀ (es : List MElem) (ru : List (Nat × Bool)),
        fetchOp (modCore s k fun c => { c with mqueue := rest }) t cls za (upTo (mdM d * mdN d)) (upTo (mdM d * mdN d)) = .ok (es, ru) →
        (major = 60 → mfn = 0 → Gives (.matrixAccept k) s fun u => runs u
          ((es.zip (List.range (mdM d * mdN d))).map fun p => (accIndex q (p.2 / mdN d) (p.2 % mdN d), p.1)) (8 + ru.length)) ∧
        (major = 62 → mfn = 1 → Gives (.matrixAccept k) s fun u => runs u
          ((es.zip (List.range (mdM d * mdN d))).map fun p => (accIndex q (p.2 % mdM d) (p.2 / mdM d), p.1)) (8 + ru.length))) ∧
      (major = 60 → mfn = 1 → Gives (.matrixAccept k) s fun u => ∃ tile, runs u tile (9 + low) ∧
        ∀ g ≤ low, ∀ e < 1024, (1024 * ((q + g) % 4) + e, melemZero) ∈ tile)) ∧
    (∀ r : MResult, (coreOf s k).mrun = some r → r.finish = s.cyc → haltedNow s k = false → r.trap = none →
      r.instr.buffered = false →
      let t : ThreadId := ⟨k, r.instr.slot⟩
      let th := threadOf s t
      (s.threads.find t).isSome = true →
      (r.mismatch = false → r.writes = [] → Gives (.matrixCommit k) s fun u => (coreOf u k).mrun = none ∧
        (∀ x, accOf u k x = ((r.tile.reverse.find? fun p => decide (p.1 = x)).map fun p => p.2).getD (accOf s k x)) ∧
        (threadOf u t).pc = th.next ∧ (threadOf u t).wait = .run ∧ (threadOf u t).status = orFlags th.status r.flags ∧
        (threadOf u t).lastd = r.cost ∧ (threadOf u t).mseq = (if r.team then th.mseq + 1 else th.mseq) ∧
        u.mem = s.mem ∧ u.regs = s.regs) ∧
      (r.mismatch = true → Gives (.matrixCommit k) s fun u => (coreOf u k).mrun = none ∧ (coreOf u k).acc = (coreOf s k).acc ∧
        (threadOf u t).pc = th.next ∧ (threadOf u t).wait = .run ∧ (r.team = true → (threadOf u t).tmis = true) ∧
        u.mem = s.mem ∧ u.regs = s.regs)) ∧
    (∀ blk : MBlock,
      let held := ((coreOf s k).blocks.filter fun b => decide (b.src = blk.src ∧ b.isA = blk.isA)).length
      let earlier := ∃ n b, (⟨n, .event (.mteamBlockArrival k b)⟩ : Due) ∈ s.agenda ∧ b.src = blk.src ∧ b.isA = blk.isA ∧
        2 ^ 31 ≤ (b.mseq - blk.mseq).toNat
      (2 ≤ held ∨ earlier → Gives (.mteamBlockArrival k blk) s fun u =>
        InCycles u 1 (.mteamBlockArrival k blk) ∧ u.cores = s.cores) ∧
      (held < 2 → ¬ earlier →
        ((coreOf s k).mrun = none → Gives (.mteamBlockArrival k blk) s fun u =>
          coreOf u k = { coreOf s k with blocks := (coreOf s k).blocks ++ [blk] }) ∧
        ∀ (r : MResult) (rect : TeamSt) (gx gy : Nat) (x y : MBlock),
          let t : ThreadId := ⟨k, r.instr.slot⟩
          let th := threadOf s t
          let d := th.mdesc
          let w := r.instr.word
          let cls := (w.extractLsb' 29 3).toNat
          let there := modCore s k fun c => { c with blocks := c.blocks ++ [blk] }
          (coreOf s k).mrun = some r → r.team = true → r.finish = 0 → haltedNow s k = false →
          (w.extractLsb' 1 6).toNat = 61 → gridPos s t = some (rect, gx, gy) →
          blockFrom there k (gridAt rect d 0 gy) true th.mseq = some x →
          blockFrom there k (gridAt rect d gx 0) false th.mseq = some y →
          let beats := 8 + max r.cost (mulCycles d cls)
          Gives (.mteamBlockArrival k blk) s fun u => InCycles u beats (.matrixCommit k) ∧
            (coreOf u k).blocks = (((coreOf s k).blocks ++ [blk]).erase x).erase y ∧
            ((x.desc = blockFields d ∧ x.cls = cls ∧ y.desc = blockFields d ∧ y.cls = cls) → ∃ r', (coreOf u k).mrun = some r' ∧
              r'.tile = (tileOf s k cls (w.extractLsb' 7 3).toNat d (w.getLsbD 27) x.elems x.scales y.elems y.scales).1 ∧
              r'.mismatch = r.mismatch) ∧
            (¬ (x.desc = blockFields d ∧ x.cls = cls ∧ y.desc = blockFields d ∧ y.cls = cls) →
              ∃ r', (coreOf u k).mrun = some r' ∧ r'.mismatch = true))) ∧
    (∀ m : SwapMsg,
      ((coreOf s k).mrun = none → Gives (.mswapMessageArrival k m) s fun u =>
        coreOf u k = { coreOf s k with swaps := (coreOf s k).swaps ++ [m] }) ∧
      ∀ (r : MResult) (rect : TeamSt) (gx gy : Nat) (gs : List Got),
        let t : ThreadId := ⟨k, r.instr.slot⟩
        let th := threadOf s t
        let zb := (r.instr.word.extractLsb' 13 3).toNat
        let z := th.z.getD zb ZReg.unbound
        (coreOf s k).mrun = some r → r.team = true → r.finish = 0 → haltedNow s k = false →
        (r.instr.word.extractLsb' 1 6).toNat ≠ 61 → gridPos s t = some (rect, gx, gy) → (coreOf s k).swaps = [] →
        m.src = gridAt rect th.mdesc gy gx → m.et = z.shape.et → m.total = z.shape.total → m.mseq = th.mseq →
        swapPlaces s t zb = .ok gs →
        Gives (.mswapMessageArrival k m) s fun u => (coreOf u k).swaps = [] ∧
          InCycles u (8 + r.cost + (streamRuns s t (etBits z.shape.et) true gs).length) (.matrixCommit k) ∧
          ∃ r', (coreOf u k).mrun = some r' ∧ r'.mismatch = r.mismatch ∧
            r'.writes = (gs.zip m.elems).filterMap fun x => x.1.place.map fun p =>
              (p.2, leBytes 4 x.2.1.toNat, [(etBits z.shape.et, x.2.2)]))

/-- R361, R390, R391. A beat of MEPI on a tile in memory: each element is the accumulator's, scaled, with its bias, through the
activation, and formed into the destination's type; AON steps VERS before and after the tile, TAGW writes the tag. -/
def Obligations.MatrixEpilogue : Prop :=
  ∀ (s : State) (r : BitVec 2) (p o g n : BitVec 1) (b a q : BitVec 3), Issues s [] [] → s.cur.core.isCompute = true →
    otherRegion s s.cur = false → s.th.rep.running = false → s.buffered = false → q.toNat ≤ 3 → (p = 0 → b = 0) →
    let s1 := openWalk s
    let z := s.z a.toNat
    let zb := s.z b.toNat
    let d := s.th.mdesc
    s.th.mvalid = true → z.zm = 1 → z.shape.et ≠ 0 → z.shape.et ≠ 15 → etSelector s.th.fmt z.shape.et = true →
    (r = 3 → 8 < etBits z.shape.et) →
    (p = 1 → zb.zm = 1 ∧ etInteger zb.shape.et = false ∧ etSelector s.th.fmt zb.shape.et = true) →
    z.shape.total = mdM d * mdN d → (o = 1 ∨ g = 1 → tileWhole s z = true ∧ poisoned s (metaPa s z) 8 = false) →
    let left := z.shape.total - z.zpos
    let e := if z.shape.et = 1 ∨ z.shape.et = 9 ∨ z.shape.et = 14 then 16
      else if z.shape.et = 2 ∨ z.shape.et = 3 ∨ z.shape.et = 4 then 32
      else if z.shape.et = 7 ∨ z.shape.et = 11 ∨ z.shape.et = 12 then 128 else 64
    let m := min e left
    let ps := (List.range m).map fun j => z.zpos + j
    ∀ (places bgs : List Got) (bes : List Elem) (marks : List Nat),
      ps.mapM (fun x => reach s1 s1.cur z true x none) = .ok places → putsPoison s1 z.shape.et places = none →
      (p = 0 → bgs = [] ∧ bes = [] ∧ marks = []) →
      (p = 1 → ps.mapM (fun x => reach s1 s1.cur zb false (x % max 1 (mdN d) % max 1 zb.shape.total) none) = .ok bgs ∧
        bgs.mapM (elemAt s1 zb.shape.et) = .ok bes ∧ tagChecks s1 [b.toNat] = .ok marks) →
      s.waiters = [] →
      BeatServed s1 (streamRuns s1 s1.cur (etBits z.shape.et) true places ++ streamRuns s1 s1.cur (etBits zb.shape.et) false bgs)
        (places ++ bgs) →
      let value := fun j => epilogue s1 d q.toNat (decide (n = 1))
        (if p = 1 then some (elemPair s1 s1.cur zb.shape.et (bes.getD j none)) else none) (z.zpos + j)
      let formed := (places.zip (List.range m)).map fun x => (x.1, formElem s1 s1.cur z.shape.et r.toNat (z.zpos + x.2)
        (epiVal s1 z.shape.et r.toNat (if mdAct d = 2 ∨ mdAct d = 3 then 11 else 24) (z.zpos + x.2) (value x.2).1 (value x.2).2))
      Gives (.mepi r p o g n b a q) s fun u => u.regs = s.regs ∧ (u.z a.toNat).zpos = (z.zpos + m) % max 1 z.shape.total ∧
        (o = 0 → g = 0 → BeatWrote s u z.shape.et formed) ∧
        (g = 1 → m = left → readBytes u (metaPa s z) 4 = leBytes 4 (mdEseq d)) ∧
        (m = left → u.th.pc = s.nextPc ∧ u.th.going = false ∧ u.th.wait = .run) ∧
        (m ≠ left → u.th.pc = s.th.pc ∧ u.th.going = true ∧ u.th.status = s.th.status)

/-! ## Memory requests at their homes -/

/-- R207, R209, R210, R229, R315, R316, R318 to R321, R324, R325, R424. What a home does with a request that reaches it: a load
is answered with its bytes and tags; a store writes its bytes; an atomic, a sub-byte store and destination arithmetic
combine what stands there with the operand as one step; a full/empty operation is performed, or recorded as a waiter. -/
def Obligations.HomesPerformRequests : Prop :=
  ∀ (s : State) (q : MemReq) (h : Home), Reached s q h →
    let w := readWord s q.pa
    let arg := BitVec.ofNat 64 (fieldAt q.data 0 8)
    let cmp := BitVec.ofNat 64 (fieldAt q.data 8 8)
    let old := leBytes 8 w.toNat
    (Gives (.memLoad q) s fun t => t.mem = s.mem ∧ t.bits = s.bits ∧ OnlyBytes s t q.pa 0 ∧
      Answered t q 0 (readBytes s q.pa q.len) ((wordBits s q.pa).extractLsb' 0 4)) ∧
    (q.aon = false → Gives (.memStore q) s fun t => readBytes t q.pa q.data.length = q.data ∧
      OnlyBytes s t q.pa q.data.length ∧ Answered t q 0 [] 0) ∧
    (q.len = 8 → q.pa % 8 = 0 →
      let does := fun (v : Option Word) => Gives (.memAtomic q) s fun t => readWord t q.pa = v.getD w ∧
        OnlyBytes s t q.pa 8 ∧ Answered t q 0 old 0
      (q.wid = 0 → does (some (BitVec.ofNat 64 (w.toNat + arg.toNat)))) ∧ (q.wid = 1 → does (some (w &&& arg))) ∧
      (q.wid = 2 → does (some (w ||| arg))) ∧ (q.wid = 3 → does (some (w ^^^ arg))) ∧
      (q.wid = 4 → does (some (if w.toInt ≤ arg.toInt then w else arg))) ∧
      (q.wid = 5 → does (some (if w.toInt ≤ arg.toInt then arg else w))) ∧ (q.wid = 6 → does (some arg)) ∧
      (q.wid = 7 → does (if w = cmp then some arg else none)) ∧
      (q.wid = 9 → does (some (w - arg)) ∧ (w = arg → Gives (.memAtomic q) s fun t => isFull t q.pa = true))) ∧
    (q.wid = 8 → q.len = 4 → q.pa % 4 = 0 →
      let a : Pair := ⟨decodeW32 (BitVec.ofNat 32 (leNat (readBytes s q.pa 4))), tagAt s q.pa⟩
      let a : Pair := ⟨a.x, match a.x with | .nan => false | _ => a.s⟩
      let r := fadd a ⟨decodeW32 (arg.extractLsb' 0 32), q.tags.getLsbD 0⟩
      Gives (.memAtomic q) s fun t => leNat (readBytes t q.pa 4) = (encodeW32 r.1.x).toNat ∧ tagAt t q.pa = r.1.s ∧
        OnlyBytes s t q.pa 4 ∧ Answered t q 0 (leBytes 4 (encodeW32 a.x).toNat ++ [r.2]) (if a.s then 1 else 0)) ∧
    (aheadOfOrder s q = false →
      (partialPoison s q.pa 1 1 = false → Gives (.memSubByteStore q) s fun t =>
        cellGet t.mem q.pa = nibbleIn (cellGet s.mem q.pa) (decide (q.wid = 0x11)) (BitVec.ofNat 4 (fieldAt q.data 0 1)) ∧
        OnlyBytes s t q.pa 1 ∧ Answered t q 0 [] 0) ∧
      -- one element of an integer code, and one of a floating code
      (∀ n, q.data.length = n → n = destWidth q.wid.toNat →
        let x := leNat (readBytes s q.pa n)
        let y := fieldAt q.data 0 n
        let value := fun (u : Nat) => if q.wid = 14 then (u : Int) else signedOf (8 * n) u
        let int := fun (i : Instr) (v : Nat) => Gives i s fun t => leNat (readBytes t q.pa n) = v ∧ OnlyBytes s t q.pa n ∧
          Answered t q 0 [] 0
        (q.wid = 9 ∨ q.wid = 14 ∨ q.wid = 16 →
          int (.memDestAdd q) ((x + y) % 2 ^ (8 * n)) ∧ int (.memDestMin q) (if value x ≤ value y then x else y) ∧
          int (.memDestMax q) (if value x ≤ value y then y else x)) ∧
        ∀ p ∈ [(Instr.memDestAdd q, 0), (.memDestMin q, 1), (.memDestMax q, 2)], ∀ f dec enc,
          destFloat q.wid.toNat = some (f, dec, enc) → q.pa % n = 0 →
          let r := destPair f p.2 ⟨dec x, tagAt s q.pa⟩ ⟨dec y, q.tags.getLsbD 0⟩
          Gives p.1 s fun t => leNat (readBytes t q.pa n) = enc r.x % 2 ^ (8 * n) ∧ tagAt t q.pa = (r.s || tagAt s q.pa) ∧
            OnlyBytes s t q.pa n ∧ Answered t q 0 [] 0)) ∧
    (poisoned s q.pa 8 = false → q.pa % 8 = 0 →
      let does := fun (v : Word) (full : Bool) (r : Word) => Gives (.memFullEmpty q) s fun t => readWord t q.pa = v ∧
        isFull t q.pa = full ∧ OnlyBytes s t q.pa 8 ∧ Answered t q 0 (leBytes 8 r.toNat) 0
      let waits := fun (k : Nat) => waiterRoom s h = true → Gives (.memFullEmpty q) s fun t =>
        t.waiters = [⟨q.pa, k, arg, some q, none⟩] ∧ t.bits = s.bits ∧ OnlyBytes s t q.pa 0
      (q.wid = 0 → if isFull s q.pa then does w false w else waits 0) ∧
      (q.wid = 1 → if isFull s q.pa then does w true w else waits 1) ∧
      (q.wid = 2 → if isFull s q.pa then waits 2 else does arg true 0) ∧
      (q.wid = 3 → does arg true 0) ∧ (q.wid = 4 → does w false 0) ∧
      (q.wid = 5 → does w (isFull s q.pa) (if isFull s q.pa then 1 else 0)) ∧
      (q.wid = 6 → ∃ v, Arrived w v ∧ does v (isFull s q.pa) ((w.extractLsb' 32 16).setWidth 64)) ∧
      (q.wid = 7 → if w.extractLsb' 32 16 = arg.extractLsb' 0 16 then waits 3 else does w (isFull s q.pa) 0))

/-- R147, R162, R171, R207, R225, R316, R317. A reply completes the instruction that waits for it, from the thread's next own slot
on, and that of a stepped instruction is kept while the halt lasts;
an acknowledgement ends a posted write; a line that arrives serves its fetch and is installed; a wait held for want of a
record is sent again, and a cancel removes a record and stops its thread. -/
def Obligations.RepliesComplete : Prop :=
  (∀ (s : State) (r : MemReply) (t : ThreadId) (k : Compl), r.req.who = .slot t → r.req.posted = false →
    (s.threads.find t).isSome = true → (threadOf s t).wait = .reply k → (threadOf s t).req.map (fun x => x.tok) = some r.req.tok →
    r.status = 0 →
    let th := threadOf s t
    let stepped := ∃ h, (creelOf s t.core.creel).halt = some h ∧ h.stepped.contains t = true ∧ haltedNow s t.core = true
    (stepped → Gives (.memoryReply r) s fun u => u.threads = s.threads ∧ u.mem = s.mem ∧ u.regs = s.regs ∧
      ∃ h, (creelOf u t.core.creel).halt = some h ∧ r ∈ h.kept) ∧
    (¬ stepped →
    let done := fun (u : State) => (threadOf u t).pc = th.next ∧ (threadOf u t).wait = .run ∧
      (threadOf u t).ready = nextOwn s.cyc t.slot ∧ u.mem = s.mem ∧ ∀ v, v ≠ t → u.threads.find v = s.threads.find v
    let got := fun (d : BitVec 7) (v : Word) (b : Bool) => Gives (.memoryReply r) s fun u => done u ∧
      (d ≠ 0 → regOf u t d.toNat = mkEntry v b)
    (∀ d code, k = .load d code → got d (extendBy code (leNat r.data)) false) ∧
    (∀ d, k = .fill d → got d (BitVec.ofNat 64 (leNat r.data)) (r.tags.getLsbD 0)) ∧
    (∀ d, k = .word d → got d (BitVec.ofNat 64 (leNat r.data)) false) ∧
    (∀ d, k = .pair d → got d (BitVec.ofNat 64 (fieldAt r.data 0 4)) (r.tags.getLsbD 0)) ∧
    (∀ d, k = .bit d → got d (BitVec.ofNat 64 (fieldAt r.data 0 8 % 2)) false) ∧
    (k = .nothing → got 0 0 false))) ∧
  (∀ (s : State) (r : MemReply) (t : ThreadId), r.req.who = .slot t → r.req.posted = true → r.status = 0 →
    (s.threads.find t).isSome = true → ((threadOf s t).posted.any fun p => decide (p.tok = r.req.tok)) = true →
    Gives (.memoryReply r) s fun u =>
      (threadOf u t).posted = (threadOf s t).posted.filter (fun p => decide (p.tok ≠ r.req.tok)) ∧ u.mem = s.mem ∧ u.regs = s.regs ∧
      ((threadOf s t).wait = .redo .ack → ⟨s.cyc, .redo t⟩ ∈ u.agenda)) ∧
  (∀ (s : State) (r : MemReply) (t : ThreadId) (va : Nat), r.req.who = .fetch t va →
    Gives (.memoryReply r) s fun u => Soon u (.icacheLineFill t va r.req.pa r.data r.status)) ∧
  (∀ (s : State) (t : ThreadId) (va pa : Nat) (bytes : List Byte), (s.threads.find t).isSome = true →
    (threadOf s t).wait = .line va → Gives (.icacheLineFill t va pa bytes 0) s fun u =>
      (threadOf u t).wait = .run ∧ (threadOf u t).ready = nextOwn s.cyc t.slot ∧ (threadOf u t).lent = some (va, bytes) ∧
      (threadOf u t).pc = (threadOf s t).pc ∧ u.mem = s.mem ∧ u.regs = s.regs ∧
      ((coreOf s t.core).noInstall.contains t.slot = true → (coreOf u t.core).icache = (coreOf s t.core).icache) ∧
      ((coreOf s t.core).noInstall.contains t.slot = false →
        (∃ w ∈ icWays s t.core, ∀ l ∈ setLines s t.core va, l.way ≠ w) →
        ∃ l ∈ (coreOf u t.core).icache, l.va = va / 64 * 64 ∧ l.asid = (threadOf s t).asid ∧ l.bytes = bytes)) ∧
  (∀ (s : State) (q : MemReq), (∀ t, q.who = .slot t → fencedAt s t.core.creel = false) → Gives (.waiterStoreResend q) s fun u =>
    (∃ c, ⟨c, .event (requestEvent q)⟩ ∈ u.agenda) ∧ u.mem = s.mem ∧ u.regs = s.regs ∧ u.threads = s.threads) ∧
  ∀ (s : State) (q : MemReq) (t : ThreadId) (w : Waiter), q.who = .slot t → s.heldWaits = [] →
    (s.waiters.find? fun x => match x.q with
      | some y => decide (y.tok = q.tok ∧ y.who = q.who)
      | none => false) = some w →
    (s.threads.find t).isSome = true → (threadOf s t).req.map (fun x => x.tok) = some q.tok →
    Gives (.waitCancel q) s fun u => u.waiters = s.waiters.erase w ∧ (threadOf u t).wait = .stopped ∧
      (threadOf u t).pc = (threadOf s t).pc ∧ u.mem = s.mem ∧ u.regs = s.regs

/-! ## Power, mooring and bring-up -/

/-- R10, R13 to R29. The power commands with their results, the enable mask, the power trip, the holders of a mooring, entry to
MOORED and resumption, and the phases of bring-up. That a command given while a transition is under way is rejected with
0x04, and one given in MOORED with 0x02, other than MOOR and RESUME, follows R13 and R21. -/
def Obligations.PowerAndMooring : Prop :=
  ∀ s : State,
    let p := s.power
    let result := fun (i : Instr) (n : Byte) => Gives i s fun t => t.power = { p with lastResult := n } ∧ Undisturbed s t
    let first := holders p = false ∧ (p.state = .idle ∨ p.state = .run) ∧ p.trans ≠ .mooring
    -- a holder appears: the device moors from IDLE and RUN, and elsewhere the holder is recorded
    let held := fun (i : Instr) (q : PowerSt) =>
      (first → Gives i s fun t => t.power.trans = .mooring ∧ t.power.state = p.state ∧ t.power.before = p.state ∧
        t.power.ready = false ∧ holders t.power = true ∧ (t.power.pin, t.power.cmd, t.power.trip) = (q.pin, q.cmd, q.trip) ∧
        t.power.lastResult = q.lastResult ∧ (p.ready = true → Output.code "READY" 0 ∈ t.out)) ∧
      (¬ first → Gives i s fun t => t.power = q)
    let released := fun (i : Instr) (q : PowerSt) =>
      (holders q = true → Gives i s fun t => t.power = q ∧ Undisturbed s t) ∧
      (holders q = false → p.state = .moored → p.trans = .none → Gives i s fun t => t.power.trans = .resuming ∧
        t.power.state = .moored ∧ t.power.moorDur = BitVec.ofNat 64 ((s.wall - p.moorAt) / 60) ∧ Undisturbed s t) ∧
      (holders q = false → p.state = .standby → p.again = true → Gives i s fun t => t.power.trans = .bringup ∧
        t.power.phase = 2 ∧ t.power.state = .standby ∧ Undisturbed s t) ∧
      (holders q = false → ¬ (p.state = .moored ∧ p.trans = .none) → ¬ (p.state = .standby ∧ p.again = true) →
        Gives i s fun t => t.power = q ∧ Undisturbed s t)
    -- MOORED is reached: on-chip state has left the chip; with no holder left, resumption begins at once
    let moored := fun (t : State) => t.power.state = .moored ∧ t.power.moorAt = s.wall ∧
      t.power.trans = (if holders p then .none else .resuming) ∧ t.regs = [] ∧ t.threads = [] ∧ t.eps = [] ∧ t.cores = [] ∧
      t.creels = [] ∧ (∀ a, 2 ^ 44 ≤ a → cellGet t.mem a = 0)
    -- it stands in the moorage region, and off-chip memory is as it was
    let stored := fun (t : State) => (∀ a < 2 ^ 44, cellGet t.mem a = cellGet s.mem a) ∧
      ∃ m, t.moorage = some m ∧ m.regs = s.regs ∧ m.threads = s.threads ∧ m.eps = s.eps ∧ m.waiters = s.waiters ∧
        (∀ a, 2 ^ 44 ≤ a → cellGet m.mem a = cellGet s.mem a) ∧ (∀ x ∈ m.cores, x.2.icache = []) ∧ ∀ x ∈ m.creels, x.2.tlb = []
    -- a command starts a transition
    let starts := fun (i : Instr) (tr : Trans) (n : Nat) (e : Event) => Gives i s fun t => t.power.trans = tr ∧
      t.power.state = p.state ∧ t.power.ready = false ∧ t.power.lastResult = 0 ∧
      ∃ c, s.wall < c ∧ c ≤ s.wall + n ∧ ⟨c, .event e⟩ ∈ t.wallAgenda
    let bars := p.state = .moored ∨ p.trans = .mooring ∨ p.trans = .resuming ∨ holders p = true
    (p.state = .off →
      (Gives .powerGood s fun t => t.power.state = .standby ∧ t.power.trans = .bringup ∧ t.power.phase = 0 ∧
        t.power.ready = false ∧ t.power.coldFlag = true ∧ t.power.limit = 495 ∧ t.power.mask = [] ∧ t.nv = s.nv ∧
        t.dieRegs = storedPort s)) ∧
    (Gives .supplyRemoved s fun t => t.power.state = .off ∧ t.mem = [] ∧ t.bits = [] ∧ t.regs = [] ∧ t.threads = [] ∧ t.teams = [] ∧
      t.eps = [] ∧ t.nv = s.nv) ∧
    (p.state ≠ .off →
      held .moorReqRise { p with pin := true } ∧ held .pwrCmdMoor { p with cmd := true, lastResult := 0 } ∧
      released .moorReqFall { p with pin := false } ∧
      ((holders p = true ∨ p.state = .moored ∨ p.trans = .mooring ∨ p.trans = .resuming) →
        released .pwrCmdResume { p with cmd := false, trip := false, lastResult := 0 }) ∧
      (¬ (holders p = true ∨ p.state = .moored ∨ p.trans = .mooring ∨ p.trans = .resuming) → result .pwrCmdResume 4) ∧
      (∀ b, result (.pwrCmdInvalid b) (if p.state = .moored then 2 else 3)) ∧
      (bars → result .pwrCmdStandby 2 ∧ result .pwrCmdWake 2 ∧ result .pwrCmdIdle 2 ∧ result .pwrCmdRun 2) ∧
      (¬ bars → p.trans ≠ .none → result .pwrCmdStandby 4 ∧ result .pwrCmdWake 4 ∧ result .pwrCmdIdle 4 ∧ result .pwrCmdRun 4) ∧
      (¬ bars → p.trans = .none →
        let teams := s.teams.any fun k => resident k.2
        (p.state = .standby → result .pwrCmdStandby 4 ∧ result .pwrCmdIdle 4 ∧ result .pwrCmdRun 4 ∧
          Gives .pwrCmdWake s fun t => t.power.trans = .bringup ∧ t.power.phase = (if p.code = 1 then 0 else 2) ∧
            t.power.state = .standby ∧ t.power.lastResult = 0) ∧
        (p.state ≠ .standby → result .pwrCmdWake 4 ∧ (teams = true → result .pwrCmdStandby 1) ∧
          (teams = false → starts .pwrCmdStandby .toStandby 30000000 .standbyEntryComplete)) ∧
        (p.state = .idle → result .pwrCmdIdle 4 ∧ starts .pwrCmdRun .toRun 600 .runEntryComplete) ∧
        (p.state = .run → result .pwrCmdRun 4 ∧ starts .pwrCmdIdle .toIdle 12000 .idleEntryComplete)) ∧
      (∀ w : BitVec 16,
        (w.toNat ≤ 8 * p.limit.toNat → Gives (.powerWindowEnd w) s fun t => t.power = { p with watts := w } ∧ Undisturbed s t) ∧
        (8 * p.limit.toNat < w.toNat → Gives (.powerWindowEnd w) s fun t => t.power.trip = true ∧ t.power.tripFlag = true ∧
          t.power.watts = w ∧ t.power.tripCount = (if p.tripCount = 0xFFFF then 0xFFFF else p.tripCount + 1) ∧
          (first → t.power.trans = .mooring)))) ∧
    (∀ v : Word, let n := v.extractLsb' 0 12
      (125 ≤ n.toNat ∧ n.toNat ≤ 525 → Gives (.pwrLimitWrite v) s fun t => t.power = { p with limit := n, lastResult := 0 } ∧ Undisturbed s t) ∧
      (¬ (125 ≤ n.toNat ∧ n.toNat ≤ 525) → result (.pwrLimitWrite v) 5)) ∧
    (∀ (n : Nat) (v : Word),
      (¬ (p.state = .run ∧ p.trans = .none) → Gives (.pwrMaskWrite n v) s fun t => t.power.stored.find n = some v ∧
        t.power.mask = p.mask ∧ Undisturbed s t) ∧
      (p.state = .run → p.trans = .none → maskCreels s n (v ^^^ p.mask.get n (BitVec.allOnes 64)) = [] →
        Gives (.pwrMaskWrite n v) s fun t => t.power.mask.find n = some v ∧ Undisturbed s t) ∧
      ∀ (c : CreelId) (k : TeamKey) (u : TeamSt), p.state = .run → p.trans = .none →
        maskCreels s n (p.mask.get n (BitVec.allOnes 64) &&& ~~~v) = [c] → maskCreels s n (v &&& ~~~p.mask.get n (BitVec.allOnes 64)) = [] →
        (teamsAt s c).getLast? = some (k, u) →
        Gives (.pwrMaskWrite n v) s fun t =>
          t = maskGate (preempt { s with power := { p with mask := p.mask.put n v, stored := p.stored.del n } } k (some 600000) 0).1 c) ∧
    (∀ gone : List TeamKey, p.trans = .mooring →
      (s.wall < p.entryAt + 1200000 → Gives (.moorEntryTimeout gone) s fun t => t = s) ∧
      (p.entryAt + 1200000 ≤ s.wall → Gives (.moorEntryTimeout gone) s fun t => moored t ∧ t.power.lossFlag = true ∧
        (∀ k ∈ gone, (s.teams.find k).isSome = true → p.saved = true → k ∈ t.power.lost) ∧ (p.saved = true → stored t))) ∧
    (p.trans = .mooring → Gives .moorEntryComplete s fun t =>
      if p.saved then moored t ∧ stored t
      else t.power = p ∧ ⟨s.wall + 16, .event .moorEntryComplete⟩ ∈ t.wallAgenda ∧ Undisturbed s t) ∧
    (p.trans = .resuming → linksTrain s = true → Gives (.resumptionComplete []) s fun t => t.power = p ∧ Undisturbed s t) ∧
    (p.trans = .resuming → linksTrain s = false → p.lost = [] → Gives (.resumptionComplete []) s fun t =>
      t.power.state = p.before ∧ t.power.trans = .none ∧ t.power.moorCount = p.moorCount + 1 ∧ t.power.ready = true ∧
      t.moorage = none ∧ ∀ m, s.moorage = some m → s.teams = [] → m.threads = [] → t.regs = m.regs ∧ t.eps = m.eps) ∧
    (p.trans = .toStandby →
      (messageInFlight s = true → Gives .standbyEntryComplete s fun t => t.power = p ∧ Undisturbed s t) ∧
      (messageInFlight s = false → Gives .standbyEntryComplete s fun t => t.power.state = .standby ∧ t.power.trans = .none ∧
        t.mem = [] ∧ t.threads = [] ∧ t.power.moorCount = p.moorCount ∧ t.nv = s.nv)) ∧
    (p.trans = .toIdle → meshBusy s = false ∨ p.stopAt + 11900 ≤ s.cyc → p.stopAt ≤ s.cyc → Gives .idleEntryComplete s fun t =>
      t.power.state = .idle ∧ t.power.trans = .none ∧ t.power.ready = true ∧ Undisturbed s t) ∧
    (p.trans = .toRun → p.stored = [] → s.idleHeld = [] →
      Gives .runEntryComplete s fun t => t.power.state = .run ∧ t.power.trans = .none ∧ t.power.ready = true ∧
        t.power.goAt % 16 = 0 ∧ s.cyc < t.power.goAt ∧ t.power.goAt ≤ s.cyc + 16) ∧
    ∀ r : PhaseReport, p.trans = .bringup →
      (p.phase = 0 → Gives (.bringupPhaseComplete r) s fun t =>
        if imagePasses s s.nv.activeB = false ∧ imagePasses s (!s.nv.activeB) = false then
          t.power = { p with trans := .none, code := 1 } ∧ t.nv = s.nv
        else t.nv.activeB = (if imagePasses s s.nv.activeB then s.nv.activeB else !s.nv.activeB) ∧ t.power.donePhase = 0 ∧
          (holders p = false → t.power.trans = .bringup ∧ t.power.phase = 1)) ∧
      (p.phase = 1 → r.hostPortOk = false → Gives (.bringupPhaseComplete r) s fun t =>
        t.power = { p with trans := .none, code := 2 } ∧ Undisturbed s t) ∧
      (p.phase = 4 → floodsDue s = true → Gives (.bringupPhaseComplete r) s fun t => t.power = p ∧ Undisturbed s t ∧
        ⟨s.wall + 600, .event (.bringupPhaseComplete r)⟩ ∈ t.wallAgenda) ∧
      (p.phase = 1 ∧ r.hostPortOk = true ∨ p.phase = 2 ∨ p.phase = 3 ∨ p.phase = 4 ∧ floodsDue s = false →
        Gives (.bringupPhaseComplete r) s fun t => t.power.donePhase = p.phase ∧ t.power.state = p.state ∧
          (holders p = true → t.power.trans = .none ∧ t.power.again = true) ∧
          (holders p = false → t.power.trans = .bringup ∧ t.power.phase = p.phase + 1) ∧
          (p.phase = 1 → t.hostPort = s.nv.hostPort.toNat) ∧
          (p.phase = 2 → t.hbmFail = r.hbmFail ∧ t.lpFail = r.lpFail ∧ t.power.ethFail = r.ethFail) ∧
          (p.phase = 3 → t.cyc = 0 ∧ t.regs = [] ∧ t.threads = [] ∧ t.eps = [] ∧ t.power.mask = [] ∧
            (holders p = true → t.mem = [] ∧ t.bits = []) ∧
            ∀ a, (∀ d < 8, a < lengthsmanBase (lengthsman d 0) ∨ lengthsmanBase (lengthsman d 0) + 16384 ≤ a) →
              cellGet t.mem a = 0)) ∧
      (p.phase = 5 → holders p = false → r.badBanks = [] → Gives (.bringupPhaseComplete r) s fun t => t.power.state = .idle ∧
        t.power.trans = .none ∧ t.power.donePhase = 5 ∧ t.power.ready = true ∧
        t.dieExcl = BitVec.ofNat 8 (excludedDies (edgeFailed s)) ∧
        t.power.code = (if s.hbmFail ≠ 0 ∨ s.lpFail ≠ 0 ∨ t.dieExcl ≠ 0 ∨ p.ethFail ≠ 0 then 3 else 0))

/-! ## Boot floods and firmware updates -/

/-- R36, R82, R411 to R414, R418, R419, R421. The floods of the boot units: a discovery gives coordinates and parents and is
answered up the tree; image packets go down the tree, are written into the creels, and are acknowledged; a window ends a
flood. The phases of a live update: verification and copy, quiescence, the handover, the new image's heartbeat, commit and
rollback; and writes of the image slots. -/
def Obligations.BootFloodsAndUpdates : Prop :=
  ∀ s : State,
    (∀ (die : Nat) (v : Word), let b := bootOf s die
      let fnum := v.extractLsb' 8 8
      (b.busy = true ∨ fnum = b.lastf → Gives (.bootDiscoveryFlood die v) s fun t => bootOf t die = { b with rej := true } ∧
        Undisturbed s t ∧ t.agenda = s.agenda) ∧
      (b.busy = false → fnum ≠ b.lastf → Gives (.bootDiscoveryFlood die v) s fun t =>
        bootOf t die = { b with imgack := 0, lastf := fnum, busy := true, pres := List.replicate 16 0, ans := 0 } ∧
        InCycles t 1 (.floodFlitArrival ⟨32 * (die % 4), 32 * (die / 4)⟩ 0 ⟨1, fnum, die, 0, 0, 0, false, 0, []⟩) ∧
        InCycles t 4096 (.discoveryWindowEnd die fnum) ∧ Undisturbed s t) ∧
      let n := imgPackets b.img
      let bad := b.busy = true ∨ b.ans = 0 ∨ n = 0 ∨ 6 < n ∨ 24576 < imgSource b.img + 4096 * n ∨ 0x80000 < imgDest b.img + 4096 * n
      (bad → Gives (.bootImageFlood die v) s fun t => bootOf t die = { b with rej := true } ∧ Undisturbed s t ∧ t.agenda = s.agenda) ∧
      (¬ bad → Gives (.bootImageFlood die v) s fun t => bootOf t die = { b with imgack := 0, lastf := fnum, busy := true } ∧
        (∀ k < n, InCycles t (1 + 65 * k) (.imagePacketArrival ⟨32 * (die % 4), 32 * (die / 4)⟩ 0 ⟨2, fnum, die, 0, 0, k, decide (k + 1 = n),
          imgDest b.img + 4096 * k, readBytes s (lengthsmanBase (lengthsman die 0) + imgSource b.img + 4096 * k) 4096⟩)) ∧
        InCycles t 65536 (.imageWindowEnd die fnum) ∧ Undisturbed s t)) ∧
    (∀ (c : CreelId) (port : Nat) (f : FloodFlit),
      ((creelOf s c).lastFlood = some f.fnum ∨ earlierCopy s c port f = true → Gives (.floodFlitArrival c port f) s fun t => t = s) ∧
      ((creelOf s c).lastFlood ≠ some f.fnum → earlierCopy s c port f = false → Gives (.floodFlitArrival c port f) s fun t =>
        (creelOf t c).fx = f.fx ∧ (creelOf t c).fy = f.fy ∧ (creelOf t c).parent = port ∧ (creelOf t c).lastFlood = some f.fnum ∧
        (∀ e ∈ bootSpread c port, InCycles t 1 (.floodFlitArrival e.1 e.2.1 { f with fx := f.fx + e.2.2.1, fy := f.fy + e.2.2.2 })) ∧
        (creelThere s c = true → InCycles t (3 + bootHops c) (.floodAnswer f.die { f with kind := 3 })) ∧ Undisturbed s t) ∧
      -- an image packet is accepted through the parent port, and written 65 cycles later where the creel is usable
      (port ≠ 5 → (creelOf s c).parent ≠ port → Gives (.imagePacketArrival c port f) s fun t => t = s) ∧
      (port ≠ 5 → (creelOf s c).parent = port → Gives (.imagePacketArrival c port f) s fun t =>
        (∀ e ∈ bootSpread c port, InCycles t 1 (.imagePacketArrival e.1 e.2.1 f)) ∧
        (creelThere s c = true → InCycles t 65 (.imagePacketArrival c 5 f)) ∧ Undisturbed s t) ∧
      (s.waiters = [] →
        let bs := f.bytes.take ((creelOf s c).spBytes - f.off)
        let pa := windowBase c + f.off
        Gives (.imagePacketArrival c 5 f) s fun t => readBytes t pa bs.length = bs ∧ OnlyBytes s t pa bs.length ∧
          (∀ i < (bs.length + 7) / 8, isFull t (pa + 8 * i) = true) ∧
          ∀ m, (if f.last then some f.fpkt else (creelOf s c).lastPacket) = some m →
            (∀ i ≤ m, i ∈ (creelOf s c).packets ++ [f.fpkt]) →
            InCycles t (2 + bootHops c) (.imageAck f.die { f with kind := 4, fx := (creelOf s c).fx, fy := (creelOf s c).fy, bytes := [] }))) ∧
    (∀ (die : Nat) (f : FloodFlit), let b := bootOf s die
      let i := (32 * f.fy + f.fx).toNat
      let late := fun (a : Instr) => Gives a s fun t => bootOf t die = { b with late := true } ∧ Undisturbed s t
      (b.busy = true → b.lastf = f.fnum →
        (Gives (.floodAnswer die f) s fun t => bootOf t die =
          { b with ans := b.ans + 1, pres := b.pres.set (i / 64) (setBit (b.pres.getD (i / 64) 0) (i % 64) true) } ∧ Undisturbed s t) ∧
        Gives (.imageAck die f) s fun t => bootOf t die =
          { b with imgack := b.imgack + 1, busy := decide (b.imgack + 1 ≠ b.ans) } ∧ t.regs = s.regs ∧ t.threads = s.threads ∧
            t.eps = s.eps ∧ (floodPhase s = false ∨ b.imgack + 1 ≠ b.ans → Undisturbed s t)) ∧
      (¬ (b.busy = true ∧ b.lastf = f.fnum) → late (.floodAnswer die f) ∧ late (.imageAck die f))) ∧
    -- windows close; in phase 4 of bring-up an image flood follows the discovery, and a result doubleword is left
    (∀ die fnum, (bootOf s die).lastf = fnum →
      let b := bootOf s die
      let result := fun (t : State) => readWord t (lengthsmanBase (lengthsman die 0) + 0x5000) =
        BitVec.ofNat 64 ((if b.ans ≠ (answered b).length ∨ b.imgack ≠ (answered b).length ∨ b.rej = true ∨ b.late = true then 2 ^ 48
          else 0) + 2 ^ 32 * b.imgack + 2 ^ 16 * b.ans + (answered b).length)
      (floodPhase s = false → Gives (.discoveryWindowEnd die fnum) s fun t =>
        bootOf t die = { b with busy := false } ∧ Undisturbed s t) ∧
      (floodPhase s = true → Gives (.discoveryWindowEnd die fnum) s fun t =>
        bootOf t die = { b with busy := false, img := 0x40000#64 } ∧ (∃ c, s.cyc < c ∧ ⟨c, .event (.bootImageFlood die
          (BitVec.ofNat 64 (256 * ((b.lastf.toNat + 1) % 256) + 0x21)))⟩ ∈ t.agenda) ∧ t.regs = s.regs ∧ t.threads = s.threads) ∧
      (b.busy = false → Gives (.imageWindowEnd die fnum) s fun t => t = s) ∧
      (b.busy = true → Gives (.imageWindowEnd die fnum) s fun t => bootOf t die = { b with busy := false } ∧
        t.regs = s.regs ∧ t.threads = s.threads ∧ (floodPhase s = false → Undisturbed s t) ∧ (floodPhase s = true → result t))) ∧
    -- updates
    (s.power.state = .idle ∨ s.power.state = .run → s.power.saved = false → s.fwu.phase = 0 →
      let b := !s.nv.activeB
      Gives .fwActivate s fun t => t.fwu.tgt = b ∧ t.fwu.updn = s.fwu.updn + 1 ∧ t.nv = s.nv ∧
        if imagePasses s b then t.fwu.phase = 1 ∧
          readBytes t (if b then 0xFB0800000 else 0xFB0000000) (imageBody s b) = cellBytes (slotCells s b) 64 (imageBody s b) ∧
          OnlyBytes s t (if b then 0xFB0800000 else 0xFB0000000) (imageBody s b) ∧ ∃ c, s.cyc < c ∧ ⟨c, .event .fwuQuiesced⟩ ∈ t.agenda
        else t.fwu.phase = 0 ∧ t.fwu.result = 4 ∧ t.mem = s.mem) ∧
    (s.fwu.phase = 1 → Gives .fwuQuiesced s fun t => t.fwu = { s.fwu with phase := 2 } ∧ InCycles t 1 .fwuQuiesced ∧ Undisturbed s t) ∧
    (s.fwu.phase = 2 → (∀ d ∈ s.agenda, ∀ t, d.act ≠ .event (.dispatchEnterRotation t)) → Gives .fwuQuiesced s fun t =>
      t.fwu = { s.fwu with phase := 3 } ∧ InCycles t 6000000 (.fwuHandoverTimeout s.fwu.updn.toNat)) ∧
    (s.fwu.phase = 3 →
      let back := fun (i : Instr) => Gives i s fun t => t.fwu.phase = 0 ∧ t.fwu.result = 5 ∧ t.nv = s.nv
      back (.fwuSigFail (oldThread s)) ∧ back (.fwuHandoverTimeout s.fwu.updn.toNat) ∧
      Gives (.fwuSigDone (oldThread s)) s fun t => t.fwu.phase = 4 ∧ t.fwu.t0 = BitVec.ofNat 64 s.cyc ∧ t.nv = s.nv ∧
        InCycles t 60000001 (.fwuHeartbeatTimeout s.fwu.updn.toNat) ∧
        readBytes t (0xFBFF00000 + 8) 32 = sha256 (readBytes s (0xFBFF00000 + 40) (min (leNat (readBytes s (0xFBFF00000 + 4) 4)) (0x100000 - 40)))) ∧
    (s.fwu.phase = 4 → Gives (.fwuHeartbeatTimeout s.fwu.updn.toNat) s fun t => t.fwu.phase = 0 ∧ t.fwu.result = 5 ∧ t.nv = s.nv) ∧
    (∀ (t : ThreadId) (seq : BitVec 16), s.fwu.phase = 4 → seq ≠ 0 → t.core.isLengthsman = true → (8 ≤ t.slot ↔ s.fwu.tgt = true) →
      s.cyc ≤ s.fwu.t0.toNat + 60000000 → Gives (.fwHbWrite t seq) s fun u => u.fwu.phase = 0 ∧ u.fwu.result = 0 ∧
        u.nv = { s.nv with activeB := s.fwu.tgt, svnFloor := imageSvn s s.fwu.tgt }) ∧
    ∀ (slot : Byte) (off : Nat) (data : List Byte), s.power.state ≠ .moored → s.power.saved = false → slot.toNat ≤ 1 → data ≠ [] → data.length ≤ 4032 →
      off + data.length ≤ 8388608 →
      let b := decide (slot = 1)
      (b ≠ s.nv.activeB ∨ (s.power.state = .standby ∧ s.power.code = 1) → Gives (.fwWrite slot off data) s fun t =>
        cellBytes (slotCells t b) off data.length = data ∧ slotCells t (!b) = slotCells s (!b) ∧
        (∀ a, (a < off ∨ off + data.length ≤ a) → cellGet (slotCells t b) a = cellGet (slotCells s b) a) ∧ t.mem = s.mem) ∧
      (b = s.nv.activeB → ¬ (s.power.state = .standby ∧ s.power.code = 1) → Gives (.fwWrite slot off data) s fun t =>
        t.nv = s.nv ∧ t.mem = s.mem)

/-! ## The debug module -/

/-- R144 to R148, R152, R153. Each operation of the debug conversation with the status and value it answers: halt and
cross-trigger, resume and the point at which the creel goes on, one step, the registers of the block and of a halted
thread, the dumps of a team and of a creel; and a sample. -/
def Obligations.DebugOperations : Prop :=
  ∀ (s : State) (c : CreelId),
    let answers := fun (i : Instr) (status : Nat) (v : Word) => Gives i s fun t => t = debugReply s status v
    let at_ : Nat → Nat → ThreadId := fun node slot => ⟨⟨c.x, c.y, node⟩, slot⟩
    (creelThere s c = false → answers (.dbgHalt c) 1 0 ∧ answers (.dbgResume c) 1 0 ∧ answers (.dbgDumpCreel c) 1 0 ∧
      (∀ off, answers (.dbgRegRead c off) 1 0) ∧ (∀ off v, answers (.dbgRegWrite c off v) 1 0) ∧
      (∀ node slot, answers (.dbgStep (at_ node slot)) 1 0) ∧ (∀ node slot n, answers (.dbgThreadRegRead (at_ node slot) n) 1 0) ∧
      ∀ node slot l, answers (.dbgDumpTeam (at_ node slot) l) 1 0) ∧
    (creelThere s c = true →
      let haltsBy := fun (u : State) (cause : Nat) => ∃ h, (creelOf u c).halt = some h ∧ h.h = s.cyc + 1 ∧ h.cause = cause ∧
        h.ring = 0 ∧ h.resume = none ∧ dbgReg u c 0x10 = BitVec.ofNat 64 (s.cyc + 1) ∧ Undisturbed s u
      (isHalted s c = false → traceOn s c 6 0 0 = false →
        (Gives (.dbgHalt c) s fun t => ∃ u, t = debugReply u 0 (BitVec.ofNat 64 (s.cyc + 1)) ∧ haltsBy u 1) ∧
        Gives (.haltCrossTrigger c) s fun t => haltsBy t 5) ∧
      (isHalted s c = true → answers (.dbgHalt c) 0 (dbgReg s c 0x10)) ∧
      (isHalted s c = false → answers (.dbgResume c) 2 0 ∧ answers (.dbgDumpCreel c) 2 0) ∧
      (∀ h, (creelOf s c).halt = some h → h.resume = none → ∃ r, s.cyc < r ∧ r ≤ s.cyc + 16 ∧ r % 16 = h.h % 16 ∧
        Gives (.dbgResume c) s fun t => ∃ u, t = debugReply u 0 (BitVec.ofNat 64 r) ∧ Undisturbed s u ∧
          (creelOf u c).halt = some { h with resume := some r } ∧ ⟨r - 1, .event (.debugResumePoint c)⟩ ∈ u.agenda) ∧
      (∀ off, (off % 8 = 0 → off < 0x200 → answers (.dbgRegRead c off) 0 ((dbgRead s c off).getD 0)) ∧
        (¬ (off % 8 = 0 ∧ off < 0x200) → answers (.dbgRegRead c off) 4 0 ∧ ∀ v, answers (.dbgRegWrite c off v) 4 0)) ∧
      (∀ off v, off % 8 = 0 → (off = 0 ∨ 0x18 ≤ off ∧ off < 0x78 ∨ off = 0x80 ∨ off = 0x88) →
        Gives (.dbgRegWrite c off v) s fun t => ∃ u, t = debugReply u 0 0 ∧ Undisturbed s u ∧
          dbgReg u c off = (dbgReg s c off &&& ~~~dbgMask off) ||| (v &&& dbgMask off) ∧
          ∀ o, o ≠ off → dbgReg u c o = dbgReg s c o) ∧
      (∀ node ≤ 6, ∀ slot ≤ 15, let i := at_ node slot
        (isHalted s c = false → (∀ n, answers (.dbgThreadRegRead i n) 2 0) ∧ answers (.dbgStep i) 2 0) ∧
        (isHalted s c = true → (s.threads.find i = none → (∀ n, answers (.dbgThreadRegRead i n) 3 0)) ∧
          ∀ th, s.threads.find i = some th →
            (∀ n, (n < th.nregs → answers (.dbgThreadRegRead i n) (if (regOf s i n).s then 0x80 else 0) (regOf s i n).d) ∧
              (th.nregs ≤ n → answers (.dbgThreadRegRead i n) 4 0)) ∧
            ∀ h, (creelOf s c).halt = some h → h.resume = none →
              (th.wait = .run → th.stopping = false → Gives (.dbgStep i) s fun t =>
                (creelOf t c).halt = some { h with step := some i } ∧ Undisturbed s t) ∧
              (th.wait ≠ .run → answers (.dbgStep i) 3 0)) ∧
        (∀ h, (creelOf s c).halt = some h → h.step = some i →
          (s.tried.contains (i, true) = true → Gives (.debugStepComplete i) s fun t =>
            ∃ u, t = debugReply u 0 ((threadOf s i).pc.setWidth 64) ∧ Undisturbed s u ∧
              (creelOf u c).halt = some { h with
                step := none, cause := 6, stepped := if (threadOf s i).wait ≠ .run then i :: h.stepped else h.stepped }) ∧
          (s.tried.contains (i, true) = false → Gives (.debugStepComplete i) s fun t => t = s)) ∧
        (∀ l, ((teamsAt s c).find? fun q => decide (q.1.level = l)) = none → answers (.dbgDumpTeam i l) 4 0) ∧
        ∀ l k u, ((teamsAt s c).find? fun q => decide (q.1.level = l)) = some (k, u) → s.teams.find k = some u →
          ((u.phase = .placed ∨ u.phase = .leaving 0 ∨ u.phase = .leaving 2 ∨ u.phase = .leaving 3) →
            Gives (.dbgDumpTeam i l) s fun t => (∃ v, t.teams.find k = some v ∧ v.dump = true) ∧
              (u.phase = .placed → ⟨boundaryEve s.cyc, .event (.preemptBoundaryStop k)⟩ ∈ t.agenda) ∧
              t.mem = s.mem ∧ t.regs = s.regs ∧ t.threads = s.threads) ∧
          (u.phase = .fenced ∨ u.phase = .leaving 1 → answers (.dbgDumpTeam i l) 4 0)) ∧
      (isHalted s c = true → Gives (.dbgDumpCreel c) s fun t => ∃ u, t = debugReply u 0 (Config.poolAddress (s.free + 1)) ∧
        u.regs = s.regs ∧ u.threads = s.threads ∧ isHalted u c = true ∧
        ((∃ d cap north, homeOf s (Config.poolAddress (s.free + 1)).toNat = some (.control d cap north)) →
          readBytes u (Config.poolAddress (s.free + 1)).toNat 8 = leBytes 4 0x44554D50 ++ leBytes 2 1 ++ leBytes 2 2))) ∧
    -- the resume point, and the end of the skew
    (∀ (h : Halt) (r : Nat), (creelOf s c).halt = some h → h.resume = some r →
      (r ≤ s.cyc → h.step = none → Gives (.debugResumePoint c) s fun t => (creelOf t c).halt = none ∧ Undisturbed s t) ∧
      (r ≤ s.cyc → h.step ≠ none → Gives (.debugResumePoint c) s fun t => (creelOf t c).halt = some h ∧
        InCycles t 16 (.debugResumePoint c) ∧ Undisturbed s t) ∧
      (s.cyc < r → (∀ n ∈ [3, 4, 5, 6], (coreOf s ⟨c.x, c.y, n⟩).mrun = none ∧ (coreOf s ⟨c.x, c.y, n⟩).mqueue = []) →
        ∀ (i : ThreadId) (w d : Nat), h.waits = [(i, w, d)] → (s.threads.find i).isSome = true → (threadOf s i).wait = .run →
          (threadOf s i).ready = w → h.h + 16 ≤ w →
          Gives (.debugResumePoint c) s fun t => (threadOf t i).ready = w + (r - h.h) ∧
            ⟨r + 2, .event (.debugResumePoint c)⟩ ∈ t.agenda ∧ ∀ j, j ≠ i → t.threads.find j = s.threads.find j)) ∧
    let ctl := dbgReg s c 0x90
    let p := (creelOf s c).sample % 112
    let log2p := (ctl.extractLsb' 0 5).toNat
    (ctl.getLsbD 8 = true → 8 ≤ log2p → log2p ≤ 24 → traceOn s c 7 (p / 16) (p % 16) = false → Gives (.sampleTick c) s fun t =>
      (creelOf t c).sample = (p + 1) % 112 ∧ InCycles t (2 ^ log2p) (.sampleTick c) ∧ Undisturbed s t) ∧
    (ctl.getLsbD 8 = false ∨ log2p < 8 ∨ 24 < log2p → Gives (.sampleTick c) s fun t => t = s)

/-! ## The scheduler -/

/-- R87, R90 to R93, R97 to R102, R104 to R106, R109, R110. A team that waits is placed on the tile chosen for it; an examination
dispatches the packet chosen, whose thread enters the rotation 8 cycles later with the packet's registers; a gate's reply
is noted; a thief's attempts, what its victim gives, and its wait; and the done messages of a team's tree, up to the word
that the launch receives. -/
def Obligations.SchedulerActs : Prop :=
  ∀ s : State,
    (∀ (k : TeamKey) (u : TeamSt) (px py i x y : Nat), updateHolds s = false → mooringHolds s = false → s.teams.find k = some u →
      u.phase = .waiting →
      parentCorner s k = some (px, py) → chooseFoot s (recordOf s k.lslot) k.level px py = some i → chooseTile s k i px py = some (x, y) →
      Gives (.teamPlacement k) s fun t => ∃ v, t.teams.find k = some v ∧ v.phase = .placed ∧ v.x = x ∧ v.y = y ∧
        (v.w, v.h) = lvRect (recordOf s k.lslot) k.level ∧ v.foot = i ∧ v.placedAt = s.cyc ∧ t.threads = s.threads ∧ t.regs = s.regs) ∧
    (∀ (k : TeamKey) (u : TeamSt) (px py : Nat), updateHolds s = false → mooringHolds s = false → s.teams.find k = some u →
      u.phase = .waiting →
      parentCorner s k = some (px, py) → chooseFoot s (recordOf s k.lslot) k.level px py = none → Gives (.teamPlacement k) s fun t => t = s) ∧
    -- the examination of a queue
    (∀ c : CreelId, (residentLaunch s c = none → Gives (.queueExamination c) s fun t => t = s) ∧
      ∀ l, residentLaunch s c = some l →
        let a := windows (feedCreel s c) c
        let b := testGates a.1 c l a.2
        ∀ (w : Waiting) (i : ThreadId) (base : Nat), firstFit b.1 c l b.2 = some (w, [(i, base)]) →
          Gives (.queueExamination c) s fun t => ∃ th, t.threads.find i = some th ∧ th.pc = BitVec.ofNat 57 (pkEntry w.bytes) ∧
            th.fmt = BitVec.ofNat 64 (pkFmt w.bytes) ∧ th.scl = BitVec.ofNat 64 (pkScl w.bytes) ∧ th.status = 0 ∧
            th.base = base ∧ th.nregs = pkRegs w.bytes ∧ th.wait = .stopped ∧ th.key = some (w.key l) ∧ th.estamp = w.stamp ∧
            th.dstamp = s.cyc ∧ regOf t i 1 = mkEntry (BitVec.ofNat 64 (pkArg w.bytes)) false ∧
            InCycles t 8 (.dispatchEnterRotation i) ∧ Soon t (.queueExamination c)) ∧
    (∀ (c : CreelId) (r n g : Nat) (full : Bool) (x : GateTest),
      let same := fun x : GateTest => decide (x.ring = r ∧ x.unit = n ∧ x.gate = g)
      (creelOf s c).gates.find? same = some x → Gives (.gateTestReply c r n g full) s fun t =>
        (creelOf t c).gates.find? same = some { x with full := some full, sent := false } ∧ Undisturbed s t) ∧
    -- stealing
    (∀ (v h : CreelId) (k : TeamKey),
      let hop := meshCycles v.x v.y h.x h.y
      (residentLaunch s v = none → Gives (.stealRequest v h k) s fun t => InCycles t hop (.stealReply h v k 0 0 []) ∧ Undisturbed s t) ∧
      (∀ l, residentLaunch s v = some l →
        let a := windows s v
        let b := testGates a.1 v l a.2
        let mine := (eligible b.1 v b.2).filter fun w => decide (l = k.lslot ∧ w.key l = k) && !pkStatic (recordOf b.1 l) w.bytes
        (mine = [] → Gives (.stealRequest v h k) s fun t => InCycles t hop (.stealReply h v k 0 0 [])) ∧
        ∀ (w : Waiting) (r : List Waiting) (u : TeamSt), mine = w :: r → b.1.teams.find k = some u → u.phase = .placed →
          isHalted b.1 v = false → (doneOf b.1 v k).sent = false → (maskBit b.1 v = false ∨ placesFor b.1 v k w.bytes = none) →
          Gives (.stealRequest v h k) s fun t => InCycles t hop (.stealReply h v k w.ring w.stamp w.bytes) ∧
            k ∈ (creelOf t v).given ∧ t.threads = s.threads ∧ t.regs = s.regs) ∧
      (∀ f : Thief, (creelOf s h).thief = some f → f.busy = true → f.key = k →
        (∀ r m, Gives (.stealReply h v k r m []) s fun t => (creelOf t h).thief = some { f with busy := false, next := f.next + 1 } ∧
          Undisturbed s t) ∧
        ∀ (r m n : Nat) (b : List Byte), b ≠ [] → (teamsAt s h).any (fun q => decide (q.1 = k)) = true → ringRoom s h r (pkLen b) = some n →
          ringMeets s h r n (pkLen b) = false → Gives (.stealReply h v k r m b) s fun t => t.mem = (ringPut s h r n m b).mem ∧
            (ringPtr t h r).1 = (ringPtr s h r).1 + n + pkLen b ∧ (creelOf t h).thief = none ∧ t.threads = s.threads ∧ t.regs = s.regs) ∧
      ∀ f : Thief, (creelOf s h).thief = some f → f.sleeping = true → Gives (.stealBackoffExpiry h) s fun t =>
        (creelOf t h).thief = some { f with sleeping := false, next := 0 } ∧ Undisturbed s t) ∧
    -- the done tree
    ∀ (c : CreelId) (k : TeamKey) (u : TeamSt), s.teams.find k = some u →
      let d := doneOf s c k
      (∀ w, Gives (.doneReceive c k w) s fun t =>
        doneOf t c k = { d with word := joinWords d.word w, children := d.children + 1 } ∧ Undisturbed s t) ∧
      (doneReady s c k = true →
        (∀ p, treeParent u c = some p → Gives (.doneSend c k) s fun t => doneOf t c k = { d with sent := true } ∧
          InCycles t (meshCycles c.x c.y p.x p.y) (.doneReceive p k d.word) ∧ Undisturbed s t) ∧
        (treeParent u c = none → c = ⟨u.x, u.y⟩ →
          (u.kidsOpen ≠ 0 → Gives (.doneSend c k) s fun t => doneOf t c k = { d with sent := true } ∧ Undisturbed s t) ∧
          ∀ l, u.kidsOpen = 0 → parentKey (recordOf s k.lslot) k = none → s.launches.find k.lslot = some l →
            (s.teams.any fun q => decide (q.1.lslot = k.lslot ∧ q.1.level = 0 ∧ q.1 ≠ k)) = true →
            Gives (.doneSend c k) s fun t => t.teams.find k = none ∧
              t.launches.find k.lslot = some { l with word := joinWords l.word (kidsWord u.kids d.word), zeros := l.zeros + 1 }))

/-! ## Errors, fences, pairs and links -/

/-- R38, R39, R41 to R44, R137 to R140, R142, R196, R225, R424. A fence's steps from the error that begins it to the reset of its
rectangle, and negative acknowledgements; a pair whose effect is held too long; soft errors; the links between dies; the
frames, pauses and registers of the Ethernet ports. -/
def Obligations.FencesErrorsAndLinks : Prop :=
  ∀ s : State,
    (∀ k : TeamKey,
      (s.fences = [] → ∀ u, s.teams.find (fenceTeam s 9 k) = some u → Gives (.fenceBoundary k) s fun t =>
        t.fences = [⟨fenceTeam s 9 k, u.x, u.y, u.w, u.h, 0, s.cyc⟩] ∧ InCycles t 512 (.fenceBoundary (fenceTeam s 9 k)) ∧
        t.mem = s.mem ∧ t.regs = s.regs ∧ t.threads = s.threads) ∧
      ∀ f : FenceSt, s.fences = [f] → f.key = k →
        (f.step = 0 → s.cyc = f.since + 512 → Gives (.fenceBoundary k) s fun t => t.fences = [{ f with step := 1 }] ∧
          InCycles t 512 (.fenceStop k) ∧ Undisturbed s t) ∧
        (f.step = 1 → Gives (.fenceStop k) s fun t => t.fences = [{ f with step := 2 }] ∧ InCycles t 15360 (.fenceReset k) ∧
          ∀ i th, t.threads.find i = some th → ofTeams (descendants s k) th = false) ∧
        (f.step = 2 → ∀ u, s.teams.find k = some u → Gives (.fenceReset k) s fun t => t.fences = [{ f with step := 3 }] ∧
          ∃ v, t.teams.find k = some v ∧ v.phase = .gone)) ∧
    (∀ m : Msg,
      let src := addrCore m.src
      let dst := addrCore m.dst
      let within := s.fences.any fun f => decide (1 ≤ f.step) && inFence f ⟨src.x, src.y⟩ && inFence f ⟨dst.x, dst.y⟩
      (within = true → Gives (.boundaryNack m) s fun t => t = s) ∧
      (within = false → addrMod m.src = modSelf s → Gives (.boundaryNack m) s fun t =>
        InCycles t (msgCycles dst src 1) (.nackReceive m) ∧ Undisturbed s t) ∧
      (expectsReply m = false → Gives (.nackReceive m) s fun t => Undisturbed s t ∧ t.agenda = s.agenda) ∧
      (expectsReply m = true → isServer m.src = false → isHost s m.src = false → m.mtype ≠ 0xFA →
        Gives (.nackReceive m) s fun t => t = closeEp s src (addrEp m.src) 4 none)) ∧
    (∀ (i : ThreadId) (n : Nat), (threadOf s i).wait = .redo .pair → (threadOf s i).pairSince = n →
      Gives (.pairedHoldTimeout i n) s fun t => t = consumeError (count s i.core.die 72) i) ∧
    -- soft errors
    (∀ (pa : Nat) (bad : Bool) (h : Home), homeOf s pa = some h →
      let a := pa / unitLen pa * unitLen pa
      (bad = true → Gives (.softError (.memory pa bad)) s fun t => unitState t pa = 2 ∧ t.mem = s.mem ∧ t.bits = s.bits ∧
        ∀ x, x ≠ a → cellGet t.err x = cellGet s.err x) ∧
      (bad = false → unitState s pa = 2 → Gives (.softError (.memory pa bad)) s fun t => t = s)) ∧
    (∀ (c : CoreId) (n : Nat) (v : Word), n < 2048 → Gives (.softError (.register c n v)) s fun t =>
      let e := s.regs.get (c, n) RegEntry.zero
      t.regs.get (c, n) RegEntry.zero = { e with d := e.d ^^^ v } ∧ t.mem = s.mem ∧ t.threads = s.threads ∧
        ∀ k, k ≠ (c, n) → t.regs.find k = s.regs.find k) ∧
    (∀ (c : CoreId) (store bank : Nat), (store = 3 ∨ store = 4) → bankValid ⟨store, c.node, bank, true⟩ = true →
      creelThere s c.creel = true → bankRetired (creelOf s c.creel) ⟨store, c.node, bank, true⟩ = false →
      ∀ bad k, k = (if bad then 8 else 7) → let n := fun t : State => t.dieRegs.get (c.die, 0x20000 + 8 * k) 0
        Gives (.softError (.bank c store bank bad)) s fun t => n t = (if n s = BitVec.allOnes 64 then n s else n s + 1)) ∧
    -- links between dies
    (∀ e l : Nat, e < 10 → l < 34 →
      let g := edgeOf s e
      let n := fun (t : State) (k : Nat) => t.dieRegs.get (edgeDie e, 0x20000 + 8 * k) 0
      let once := fun (t : State) (k : Nat) => n t k = (if n s k = BitVec.allOnes 64 then n s k else n s k + 1)
      (Gives (.dieLinkReplay e l) s fun t => once t 1 ∧ Undisturbed s t) ∧
      (g.training.contains l = false → g.failed.contains l = false → Gives (.dieLinkRetrain e l) s fun t => once t 2 ∧
        Undisturbed s t ∧ edgeOf t e = { g with training := g.training ++ [l], replays := g.replays.del l }) ∧
      (g.training.contains l = true →
        (Gives (.dieLinkRetrainEnd e l true) s fun t => edgeOf t e = { g with training := g.training.filter (· ≠ l) } ∧ Undisturbed s t) ∧
        -- a link that fails it is carried by a spare, which is no fold, or else folded onto the nearest working link
        (g.failed.contains l = false → g.failed.length < 33 → g.carriers = [] →
          let failed := { g with training := g.training.filter (· ≠ l), failed := g.failed ++ [l] }
          (l < 32 → g.failed.contains 32 = false → Gives (.dieLinkRetrainEnd e l false) s fun t =>
            edgeOf t e = { failed with carriers := [(l, 32)] } ∧ n t 3 = n s 3 ∧ Undisturbed s t) ∧
          (∀ k, l < 32 → g.failed.contains 32 = true → g.failed.contains 33 = true → nearestLink failed l = some k →
            Gives (.dieLinkRetrainEnd e l false) s fun t => edgeOf t e = { failed with carriers := [(l, k)] } ∧ once t 3 ∧
              Undisturbed s t) ∧
          (32 ≤ l → Gives (.dieLinkRetrainEnd e l false) s fun t => edgeOf t e = failed ∧ n t 3 = n s 3 ∧ Undisturbed s t)))) ∧
    -- Ethernet
    ∀ p : Nat, p < 16 → s.power.state ≠ .off →
      let e := ethPort s p
      let f := framesSee s p
      (Gives (.ethLinkDown p) s fun t => ethPort t p = { e with link := false, paused := 0, queued := [] } ∧ Undisturbed s t) ∧
      (Gives (.ethLinkUp p) s fun t => ethPort t p = { e with link := true } ∧ Undisturbed s t ∧
        ((ethCfg f p).getLsbD 0 = true → Output.code "gratuitous ARP" (p * 2 ^ 48 + macOf s p) ∈ t.out) ∧
        ((ethCfg f p).getLsbD 0 = false → (ethCfg f p).getLsbD 1 = true →
          Output.code "unsolicited advertisement" (p * 2 ^ 48 + macOf s p) ∈ t.out)) ∧
      (∀ v : Word, let xon := (v.extractLsb' 24 8).toNat
        let xoff := (v.extractLsb' 16 8).toNat
        (1 ≤ xon ∧ xon < xoff ∧ xoff ≤ 99 → Gives (.ethCfgWrite p v) s fun t =>
          ethCfg t p = v &&& 0x0000FFF0FFFFFF03#64 ∧ ethCfg (framesSee t p) p = ethCfg f p ∧ Undisturbed s t) ∧
        (¬ (1 ≤ xon ∧ xon < xoff ∧ xoff ≤ 99) → Gives (.ethCfgWrite p v) s fun t => t = s)) ∧
      (Gives .ethHostPersist s fun t => t.nv = { s.nv with ip4 := ethRead s s.hostPort 8, ip6lo := ethRead s s.hostPort 0x10
                                                           ip6hi := ethRead s s.hostPort 0x18
                                                           enables := (ethCfg s s.hostPort).extractLsb' 0 2 } ∧ Undisturbed s t) ∧
      (∀ q, Gives (.ethHostPortWrite q) s fun t => t.nv = { s.nv with hostPort := q } ∧ Undisturbed s t) ∧
      (∀ m : Byte, (s.launches = [] → Gives (.modSelfWrite m) s fun t => modSelf t = m ∧ Undisturbed s t) ∧
        (s.launches ≠ [] → Gives (.modSelfWrite m) s fun t => t = s)) ∧
      (e.link = true →
        (∀ ip : BitVec 32, (ethCfg f p).getLsbD 0 = true → (ethRead f p 8).extractLsb' 0 32 = ip →
          Gives (.arpRequest p ip) s fun t => Output.code "ARP reply" (p * 2 ^ 48 + macOf s p) ∈ t.out ∧ Undisturbed s t) ∧
        (∀ ip : BitVec 128, (ethCfg f p).getLsbD 1 = true → ethRead f p 0x18 ++ ethRead f p 0x10 = ip →
          Gives (.neighbourSolicitation p ip) s fun t => Output.code "neighbour advertisement" (p * 2 ^ 48 + macOf s p) ∈ t.out ∧
            Undisturbed s t) ∧
        (∀ q < 8, (ethCfg f p).getLsbD (8 + q) = true →
          (Gives (.pfcPauseReceive p q true) s fun t => ethPort t p = { e with paused := e.paused ||| (1#8 <<< q) } ∧ Undisturbed s t) ∧
          Gives (.pfcPauseReceive p q false) s fun t => (ethPort t p).paused = e.paused &&& ~~~(1#8 <<< q) ∧ Undisturbed s t) ∧
        ∀ x : EthFrame, x.len ≤ 9216 →
          ((ethCfg f p).getLsbD (8 + x.pcp) = false → 524288 < e.held.getD x.pcp 0 + x.len → Gives (.ethFrameReceive p x) s fun t =>
            Undisturbed s t ∧ t.inputs = s.inputs) ∧
          -- a Towline packet at the host port comes to its session
          ∀ (src ip : BitVec 32) (sport : Nat) (b : List Byte), e.held.getD x.pcp 0 + x.len ≤ 524288 → x.ce = false →
            p = s.hostPort → x.body = .ipv4 src ip false false true sport 19470 true b → (ethCfg f p).getLsbD 0 = true → (ethRead f p 8).extractLsb' 0 32 = ip →
            packetValid b = true → fieldAt b 1 1 = 2 → Gives (.ethFrameReceive p x) s fun t =>
              t.inputs = s.inputs ++ [.towlineAck (fieldAt b 2 1) (BitVec.ofNat 32 (fieldAt b 8 4)) (decide (fieldAt b 3 1 = 1))] ∧
              (ethPort t p).peers.find (fieldAt b 2 1) = some (mapped4 src, sport) ∧ Undisturbed s t)

/-! ## The host's conversations and the built-in services -/

/-- R28, R64 to R66, R69 to R75, R83 to R85, R89, R93, R208, R406. Register reads and writes with the status each is answered with;
launches refused and accepted; the attestation responses; Towline sessions: their opening, the data and acknowledgements
they carry, retransmission and failure; tile reads and writes, their end, and bulk memory. That GET_VERSION and the other
responses have these codes is SPDM as published, which the model presumes (PRESUMED, log 15). -/
def Obligations.HostConversations : Prop :=
  ∀ s : State,
    let on := s.power.state = .idle ∨ s.power.state = .run
    (∀ a v : Word,
      (regPlace a = none → on → (Gives (.regRead a) s fun t => t = regData s 1 0) ∧ Gives (.regWrite a v) s fun t => t = regDone s 1) ∧
      ∀ die off, regPlace a = some (die, off) →
        (regServed s die off false = false → Gives (.regRead a) s fun t => t = regData s 6 0) ∧
        (regServed s die off true = false → Gives (.regWrite a v) s fun t => t = regDone s 6) ∧
        (elsewhere die off = false →
          (∀ w, regServed s die off false = true → dieRead s die off = some w → Gives (.regRead a) s fun t => t = regData s 0 w) ∧
          (regServed s die off false = true → dieRead s die off = none → Gives (.regRead a) s fun t => t = regData s 1 0) ∧
          (regServed s die off true = true →
            (dieRead s die off = none → Gives (.regWrite a v) s fun t => t = regDone s 1) ∧
            ((dieRead s die off).isSome = true → Gives (.regWrite a v) s fun t =>
              t = if dieWritable off then regDone (dieWrite s die off v none) 0 else regDone s 2)))) ∧
    -- an answer goes to the port over the mesh, and, while that is not clocked, leaves on the session of its client
    (∀ (c : Conv) (a w : Word) (die off : Nat), (s.convs.find? fun c => decide (serviceOf c.server = some 0)) = some c →
      isHost s c.client = true → addrNode c.server = 8 → regPlace a = some (die, off) → regServed s die off false = true →
      elsewhere die off = false → dieRead s die off = some w →
      let m : Msg := ⟨0x11, flitsOf 9, false, 9, c.client, c.server, c.sseq, 1, 0, 0, 0 :: leBytes 8 w.toNat⟩
      (on → Gives (.regRead a) s fun t => ∃ n, s.cyc ≤ n ∧ ⟨n, .arrive m⟩ ∈ t.agenda) ∧
      let k := addrEp c.client / 8
      let n := sessionOf s k
      (¬ on → n.isOpen = true → n.waiting = [] → n.unacked.length < n.window → (ethPort s s.hostPort).link = true →
        (ethPort s s.hostPort).paused.getLsbD 3 = false → Gives (.regRead a) s fun t =>
          Output.datagram s.hostPort (datagramOf s k true (towPacket 1 k 0 n.sendSeq n.recvSeq (flitBytes m).flatten)) ∈ t.out)) ∧
    -- launches
    (∀ r : List Byte,
      (updateHolds s = true → Gives (.launch r) s fun t => t = holdEvent s (.launch r)) ∧
      (updateHolds s = false → launchStatus s r ≠ 0 → Gives (.launch r) s fun t => t = launchAck (count s 0 48) (launchStatus s r) 0) ∧
      ∀ n, updateHolds s = false → launchStatus s r = 0 → freeLaunch s = some n → (initialPackets s r n).1 ≠ [] →
        ((initialPackets s r n).1.map fun p => pkLen p.bytes).sum ≤ 16384 → Gives (.launch r) s fun t =>
          if Config.poolHas s.free then
            t.launches.find n = some ⟨(s.serial * 64 + n) % 2 ^ 32, r, s.cyc, 0, 0, []⟩ ∧ t.serial = s.serial + 1 ∧
            t.pending = s.pending ++ (initialPackets s r n).1 ∧ ∀ p ∈ (initialPackets s r n).1, (t.teams.find p.key).isSome = true
          else t.launches = s.launches ∧ t.teams = s.teams ∧ t.pending = s.pending) ∧
    -- attestation
    (
      let answersWith := fun (i : Instr) (bs : List Byte) => Gives i s fun t => t = hostReply s 4 0x41 bs
      answersWith .getVersion [0x10, 0x04, 0, 0, 0, 1, 0, 0x13] ∧ answersWith .getDigests ([0x13, 0x01, 1, 1] ++ sha256 Config.certChain) ∧
      (∀ code, answersWith (.spdmUnsupported code) [0x13, 0x7F, 7, code]) ∧
      answersWith .negotiateAlgorithms ([0x13, 0x63, 0, 0] ++ leBytes 2 40 ++ [1, 0] ++ leBytes 4 2 ++ leBytes 4 0 ++ leBytes 4 1
        ++ List.replicate 12 0 ++ [1, 0, 0, 0] ++ [4, 0] ++ leBytes 2 Config.hssAlgorithm.toNat) ∧
      (Gives .getCapabilities s fun t => ∃ e, t = hostReply s.drawn 4 0x41 ([0x13, 0x61, 0, 0, 0, e, 0, 0] ++ leBytes 4 0x16
        ++ leBytes 4 4136 ++ leBytes 4 4136)) ∧
      (∀ slot off len, Gives (.getCertificate slot off len) s fun t =>
        let c := Config.certChain
        let n := min (min len (c.length - off)) 4128
        t = if slot % 16 ≠ 0 ∨ c.length ≤ off then hostReply s 4 0x41 [0x13, 0x7F, 1, 0]
          else hostReply s 4 0x41 ([0x13, 0x02, 0, 0] ++ leBytes 2 n ++ leBytes 2 (c.length - off - n) ++ (c.drop off).take n)) ∧
      (∀ b, s.nv.leaf < 1048576 → Gives (.challenge b) s fun t => t.nv = { s.nv with leaf := s.nv.leaf + 1 } ∧ t.mem = s.mem) ∧
      (∀ b, 1048576 ≤ s.nv.leaf → Gives (.challenge b) s fun t => t.nv = s.nv ∧ t.mem = s.mem) ∧
      (∀ i b, 5 < i → i ≠ 255 → ∀ g, answersWith (.getMeasurements i g b) [0x13, 0x7F, 1, 0]) ∧
      (∀ b, Gives (.getMeasurements 0 false b) s fun t => ∃ u n, n.length = 32 ∧ u.nv = s.nv ∧ u.mem = s.mem ∧
        t = hostReply u 4 0x41 ([0x13, 0x60, 5, 0, 0] ++ leBytes 3 0 ++ n ++ leBytes 2 0 ++ b.drop 32)) ∧
      ∀ i b, i ≤ 5 → s.nv.leaf < 1048576 → Gives (.getMeasurements i true b) s fun t =>
        t.nv = { s.nv with leaf := s.nv.leaf + 1 } ∧ t.mem = s.mem) ∧
    (s.notices = [] → Gives .noticeAck s fun t => t.notices = [] ∧ Undisturbed s t ∧
      ∀ c ∈ t.convs, serviceOf c.server = some 1 → c.busy = false) ∧
    -- Towline sessions
    (∀ (k : Nat) (m : Msg) (seq ack : BitVec 32), k < 8 → let n := sessionOf s k
      (s.power.state ≠ .moored → n.isOpen = false → Gives (.towlineOpen k) s fun t =>
        sessionOf t k = { Session.initial with isOpen := true } ∧ Undisturbed s t) ∧
      (s.power.state = .moored → Gives (.towlineOpen k) s fun t => t = towAnswer s k 6) ∧
      (n.isOpen = true → Gives (.towlineReset k) s fun t => sessionOf t k = Session.initial ∧
        ∀ c ∈ t.convs, ¬ (isHost s c.client = true ∧ addrEp c.client / 8 = k)) ∧
      (n.isOpen = true → n.waiting = [] → n.unacked.length < 2 ^ 32 → ∀ d ≤ n.unacked.length,
        Gives (.towlineAck k (n.sendSeq - BitVec.ofNat 32 (n.unacked.length - d)) false) s fun t =>
          (sessionOf t k).unacked = n.unacked.drop d ∧ (sessionOf t k).window = min 256 (n.window + (n.acked + d) / 256) ∧
          Undisturbed s t) ∧
      (s.power.state = .moored → serviceOf m.dst ≠ some 0 → Gives (.towlineData k seq ack false m) s fun t => t = towAnswer s k 6) ∧
      (s.power.state ≠ .moored → n.isOpen = false → Gives (.towlineData k seq ack false m) s fun t => t = towAnswer s k 5) ∧
      (s.power.state ≠ .moored → n.isOpen = true → n.early = [] →
        Gives (.towlineData k n.recvSeq ack false m) s fun t => (sessionOf t k).recvSeq = n.recvSeq + 1) ∧
      (s.power.state ≠ .moored → n.isOpen = true → 2 ^ 31 ≤ (seq - n.recvSeq).toNat →
        Gives (.towlineData k seq ack false m) s fun t => t = portCount (towAnswer s k 2) s.hostPort 5) ∧
      (s.power.state ≠ .moored → n.isOpen = true → n.early = [] → 256 ≤ (seq - n.recvSeq).toNat → (seq - n.recvSeq).toNat < 2 ^ 31 →
        Gives (.towlineData k seq ack false m) s fun t => t = portCount s s.hostPort 6) ∧
      (∀ u, n.unacked.find? (fun u => decide (u.seq = seq)) = some u → n.moored = false →
        (u.tries < 12 → Gives (.towlineRetransmitTimeout k seq) s fun t =>
          (sessionOf t k).unacked = n.unacked.map (fun v => if v.seq = seq then { v with tries := v.tries + 1 } else v) ∧
          ⟨s.wall + min 3840000 (30000 * 2 ^ (u.tries + 1)), .event (.towlineRetransmitTimeout k seq)⟩ ∈ t.wallAgenda ∧ Undisturbed s t) ∧
        (12 ≤ u.tries → Gives (.towlineRetransmitTimeout k seq) s fun t => (sessionOf t k).isOpen = false)) ∧
      Gives (.towlineMooredReceive k) s fun t => sessionOf t k = { n with moored := true } ∧ Undisturbed s t ∧
        ∀ u ∈ n.unacked, ⟨s.wall + 6000000, .event (.towlineRetransmitTimeout k u.seq)⟩ ∈ t.wallAgenda) ∧
    -- tiles
    (∀ m : Msg, let p := m.payload
      let w := formatBits (tqEt p) / 8
      let ps := tqPlaces p
      (∀ n, tqStatus s m.dst p = n → n ≠ 0 → Gives (.treq m) s fun t => t = answerRequest s m.dst m.src 0xE3 0 false [BitVec.ofNat 8 n]) ∧
      (tqStatus s m.dst p = 0 → tqLfmt p = 0 → 8 ≤ formatBits (tqEt p) → (etTagged (tqEt p) = true → ∀ x ∈ ps, tagAt s x.pa = false) →
        Gives (.treq m) s fun t => t = answerRequest (ps.foldl (fun s x => noteRead s x.pa w) s) m.dst m.src 0xE1 0
          (ps.any fun x => poisoned s x.pa w) (ps.flatMap fun x => readBytes s x.pa w)) ∧
      (tqStatus s m.dst p = 0 → tqLfmt p = 0 → 8 ≤ formatBits (tqEt p) → p.length = 40 + tqBytes p →
        (∀ x ∈ ps, partialPoison s x.pa w w = false) → ps.Pairwise (fun a b => a.pa + w ≤ b.pa ∨ b.pa + w ≤ a.pa) →
        s.moves = [] → s.waiters = [] → Gives (.twrite m) s fun t =>
          (∀ i, ∀ x, ps[i]? = some x → readBytes t x.pa w = (p.drop (40 + i * w)).take w) ∧
          (∀ a, (∀ x ∈ ps, a < x.pa ∨ x.pa + w ≤ a) → cellGet t.mem a = cellGet s.mem a) ∧
          t.regs = s.regs ∧ t.threads = s.threads ∧ t.eps = s.eps) ∧
      ∀ c, convFind s m.dst m.src = some c → Gives (.tbye m) s fun t => (∃ d, convFind t m.dst m.src = some d ∧ d.ended = true) ∧
        Undisturbed s t) ∧
    -- bulk memory
    ∀ (server : BitVec 32) (pa len : Nat) (data : List Byte),
      (∀ n, bulkStatus s server pa len 4096 = n → Gives (.bulkRead server pa len) s fun t =>
        t = if n = 0 then bulkAnswer (noteRead s pa len) server 0x31 (poisoned s pa len) (readBytes s pa len)
          else bulkAnswer s server 0x34 false [BitVec.ofNat 8 n]) ∧
      (∀ n, bulkStatus s server pa data.length 4088 = n → n ≠ 0 → Gives (.bulkWrite server pa data) s fun t =>
        t = bulkAnswer s server 0x34 false [BitVec.ofNat 8 n]) ∧
      (bulkStatus s server pa data.length 4088 = 0 → partialPoison s pa data.length data.length = false → s.moves = [] → s.waiters = [] →
        Gives (.bulkWrite server pa data) s fun t => readBytes t pa data.length = data ∧ OnlyBytes s t pa data.length ∧
          ∀ a, pa / 8 * 8 ≤ a → a < (pa + data.length + 7) / 8 * 8 → tagAt t a = false)

/-! ## Pre-emption, sluices, translation and migration -/

/-- R54 to R61, R78, R112 to R119, R122 to R131, R134, R153. Pre-emption requests, the boundary at which threads stop, the image and
the relaunch from it; the retirement of a bank through the states of its sluice; walks and shootdowns; and the migration
of pages between the tiers. -/
def Obligations.PreemptionSluicesAndPages : Prop :=
  ∀ s : State,
    -- a request that names one team
    (∀ v : Word, updateHolds s = false → v.getLsbD 0 = false →
      let k := requestKey v
      let asks := fun (i : Instr) (a : Nat) => Gives i s fun t => (∃ u, t.teams.find k = some u ∧ u.phase = .leaving a ∧ u.asked = s.cyc ∧
        u.deadline = s.cyc + (v.extractLsb' 40 24).toNat * 256) ∧ ⟨boundaryEve s.cyc, .event (.preemptBoundaryStop k)⟩ ∈ t.agenda ∧
        t.preReqs = s.preReqs + 1 ∧ t.preLast = 0 ∧ t.preAction = BitVec.ofNat 8 a ∧ t.mem = s.mem ∧ t.regs = s.regs ∧ t.threads = s.threads
      let turned := fun (i : Instr) (n : Byte) => Gives i s fun t => t.preLast = n ∧ t.preReqs = s.preReqs ∧ Undisturbed s t
      (∀ u, s.teams.find k = some u → u.phase = .placed →
        (v.extractLsb' 38 2 = 0 → asks (.preReqEstimate v) (estimate s k u ((v.extractLsb' 40 24).toNat * 256))) ∧
        (v.extractLsb' 38 2 = 1 → asks (.preReqSave v) 2) ∧ (v.extractLsb' 38 2 = 3 → asks (.preReqDrain v) 0) ∧
        (v.extractLsb' 38 2 = 2 → if lvRestart (recordOf s k.lslot) k.level then asks (.preReqDiscard v) 1 else turned (.preReqDiscard v) 2) ∧
        turned (.preReqResume v) 4) ∧
      (s.teams.find k = none → turned (.preReqEstimate v) 1 ∧ turned (.preReqSave v) 1 ∧ turned (.preReqDiscard v) 1 ∧
        turned (.preReqDrain v) 1 ∧ turned (.preReqResume v) 4) ∧
      ∀ u, s.teams.find k = some u → u.phase = .kept → Gives (.preReqResume v) s fun t =>
        (∃ w, t.teams.find k = some w ∧ w.phase = .saved ∧ w.dump = false) ∧ t.preReqs = s.preReqs + 1 ∧ t.preLast = 0) ∧
    (∀ (c : CoreId) (n : Nat) (k : TeamKey) (u : TeamSt), (threadOf s ⟨c, (epOf s c n).slot⟩).key = some k → s.teams.find k = some u →
      let e := epOf s c n
      if e.est = .delegated ∧ e.fwdEnd = false then
        Gives (.snapshotMarker c n) s fun t => t = sendMsg s (mkMsg s c n e.fwd 0xFE e.sseq 0 [])
      else Gives (.snapshotMarker c n) s fun t => epOf t c n = { e with mark := true } ∧
        (∃ v, t.teams.find k = some v ∧ (c, n) ∈ v.marked) ∧ t.mem = s.mem ∧ t.regs = s.regs) ∧
    (∀ (k : TeamKey) (u : TeamSt), s.teams.find k = some u →
      -- a team without threads saves at once; a thread that runs stops at the boundary; a drain waits for a task
      (u.phase = .leaving 2 → s.threads = [] → Gives (.preemptBoundaryStop k) s fun t =>
        (lvGraph (recordOf s k.lslot) k.level = false → withDescendants s k = [k] →
          InCycles t (saveTime s k u [k] true) (.saveComplete k)) ∧ t.teams = s.teams ∧ t.mem = s.mem) ∧
      (∀ i th, u.phase = .leaving 2 → s.threads = [(i, th)] → th.key = some k → th.wait = .run → th.going = false →
        th.partner = none → lvGraph (recordOf s k.lslot) k.level = false → Gives (.preemptBoundaryStop k) s fun t =>
          (threadOf t i).wait = .stopped ∧ (threadOf t i).pc = th.pc ∧ t.regs = s.regs ∧ t.mem = s.mem) ∧
      (∀ i th, u.phase = .leaving 0 → s.threads = [(i, th)] → th.key = some k → th.bound = false →
        Gives (.preemptBoundaryStop k) s fun t => InCycles t 16 (.preemptBoundaryStop k) ∧ Undisturbed s t) ∧
      (u.phase = .leaving 1 → Gives (.preemptBoundaryStop k) s fun t => (∃ v, t.teams.find k = some v ∧ v.phase = .gone) ∧
        t.images.find k = none ∧ ∀ i th, t.threads.find i = some th → th.key ≠ some k) ∧
      (u.phase = .leaving 2 → u.dump = false → lvRestart (recordOf s k.lslot) k.level = true → Gives (.saveComplete k) s fun t =>
        ∃ v, t.teams.find k = some v ∧
          if Config.poolHas s.free then v.phase = .saved ∧ (t.images.find k).isSome = true else v.phase = .gone) ∧
      (∀ px py i x y, updateHolds s = false → mooringHolds s = false → parentCorner s k = some (px, py) → u.phase = .gone →
        lvRestart (recordOf s k.lslot) k.level = true → chooseFoot s (recordOf s k.lslot) k.level px py = some i →
        chooseTile s k i px py = some (x, y) → Gives (.teamRelaunch k) s fun t => ∃ v, t.teams.find k = some v ∧ v.phase = .placed ∧
          v.x = x ∧ v.y = y ∧ v.foot = i ∧ v.placedAt = s.cyc) ∧
      (∀ px py img, updateHolds s = false → mooringHolds s = false → parentCorner s k = some (px, py) → u.phase = .saved → s.images.find k = some img →
        fitsSome s (recordOf s k.lslot) k.level px py img.foot = true → usableRect s k img.foot u.x u.y = true → img.threads = [] →
        Gives (.teamRelaunch k) s fun t => (∃ v, t.teams.find k = some v ∧ v.phase = .leaving 3 ∧ v.x = u.x ∧ v.y = u.y) ∧
          t.images.find k = none ∧ ∃ c, s.cyc < c ∧ ⟨c, .event (.restoreComplete k)⟩ ∈ t.agenda) ∧
      (u.phase = .leaving 3 → u.asked = 0 → s.power.trans ≠ .mooring → Gives (.restoreComplete k) s fun t => (∃ v, t.teams.find k = some v ∧ v.phase = .placed ∧ v.word = 0) ∧
        t.mem = s.mem ∧ t.regs = s.regs ∧ ∀ i th, s.threads = [(i, th)] → th.key = some k → th.wait ≠ .halted →
          (threadOf t i).wait = .run ∧ (threadOf t i).stopping = false ∧ (threadOf t i).pc = th.pc)) ∧
    -- the retirement of a bank
    (∀ c : CreelId, let q := creelOf s c
      (∀ v : Word, Gives (.retCtlRetire c v) s fun t => (creelOf t c).thresh = v.extractLsb' 32 16 ∧ Undisturbed s t ∧
        (v.getLsbD 0 = false → (creelOf t c).lastRet = q.lastRet ∧ (creelOf t c).sluiceQ = q.sluiceQ) ∧
        ∀ r : BankReq, r = ⟨(v.extractLsb' 2 3).toNat, (v.extractLsb' 5 3).toNat, (v.extractLsb' 8 8).toNat, false⟩ → v.getLsbD 0 = true →
          (creelThere s c = false ∨ bankValid r = false → (creelOf t c).lastRet = 1 ∧ (creelOf t c).sluiceQ = q.sluiceQ) ∧
          (creelThere s c = true → bankValid r = true → bankRetired q r = true ∨ bankQueued q r = true →
            (creelOf t c).lastRet = 2 ∧ (creelOf t c).sluiceQ = q.sluiceQ) ∧
          (creelThere s c = true → bankValid r = true → bankRetired q r = false → bankQueued q r = false →
            (creelOf t c).lastRet = (if mooringHolds s then 3 else 0) ∧ (creelOf t c).sluiceQ = q.sluiceQ ++ [r])) ∧
      (∀ r rest, q.sluice = none → q.sluiceQ = r :: rest → mooringHolds s = false → Gives (.sluiceStart c) s fun t =>
        (creelOf t c).sluice = some ⟨r, 2, [], none, []⟩ ∧ (creelOf t c).sluiceQ = rest ∧ (creelOf t c).capVer = q.capVer + 1 ∧
        t.capDver = s.capDver + 1 ∧ (r.store = 1 → (creelOf t c).spBytes = q.spBytes - 8192) ∧
        (r.store = 2 → ((creelOf t c).capCore.get r.core CapCore.initial).lsBytes = (q.capCore.get r.core CapCore.initial).lsBytes - 8192) ∧
        (r.store = 3 → ((creelOf t c).capCore.get r.core CapCore.initial).regN = (q.capCore.get r.core CapCore.initial).regN - 128)) ∧
      ∀ u : Sluice, q.sluice = some u → u.req.core ≤ 6 → traceOn s c 8 u.req.core 0 = false →
        (u.phase = 2 → misfits s c = [] → u.req.forError = false → Gives (.sluiceWaitfitDone c) s fun t =>
          (creelOf t c).sluice = some { u with phase := 3 } ∧ Undisturbed s t) ∧
        (∀ w ws, u.phase = 3 → bankPinned s c u.req = false → regsMisfit s c u.req = none → u.req.store ≠ 4 →
          sluiceUnits s c u.req = w :: ws → Gives (.sluicePinDone c) s fun t =>
            (creelOf t c).sluice = some ⟨u.req, 5, w :: ws, none, if u.req.store = 3 then regPlaces s ⟨c.x, c.y, u.req.core⟩ else []⟩ ∧
            (∃ n, s.cyc < n ∧ ⟨n, .event (.sluiceUnitCopy c)⟩ ∈ t.agenda) ∧ Undisturbed s t) ∧
        (u.phase = 3 → bankPinned s c u.req = false → regsMisfit s c u.req = none → u.req.store = 4 → Gives (.sluicePinDone c) s fun t =>
          (creelOf t c).sluice = none ∧ (creelOf t c).mapv = q.mapv + 1 ∧ t.mem = s.mem ∧ t.regs = s.regs) ∧
        (∀ w ws, u.units = w :: ws → u.copying = none → Gives (.sluiceUnitCopy c) s fun t =>
          (creelOf t c).sluice = some { u with units := ws, copying := some w } ∧ InCycles t 2 (.sluiceUnitCopy c) ∧ Undisturbed s t) ∧
        (∀ w x ws, u.units = x :: ws → u.copying = some w → u.req.store = 3 → Gives (.sluiceUnitCopy c) s fun t =>
          (creelOf t c).sluice = some { u with copying := none } ∧ (∃ n, s.cyc < n ∧ ⟨n, .event (.sluiceUnitCopy c)⟩ ∈ t.agenda) ∧
          Undisturbed s t) ∧
        ∀ w, u.units = [] → u.copying = some w → u.req.store = 3 → Gives (.sluiceUnitCopy c) s fun t =>
          (creelOf t c).sluice = none ∧ (creelOf t c).mapv = q.mapv + 1 ∧ t.mem = s.mem) ∧
    -- walks and shootdowns
    (∀ (w : Walk) (e : Word), s.walks = [w] → w.walker < 2 ^ 20 → (match readEntry s e w.level w.va with
        | .leaf => true
        | _ => false) = true → Gives (.walkEntryReply w.id e 0) s fun t =>
      ⟨s.cyc + walkerCycles w.thread.core w.walker, .walkEnd w.id e w.addr (4 - w.level) 0⟩ ∈ t.agenda ∧ Undisturbed s t) ∧
    (∀ (c : CreelId) (a : BitVec 16) (n size : Nat), Gives (.tlbMigEntryExpiry c a n size) s fun t => Undisturbed s t ∧
      ∀ e, e ∈ (creelOf t c).tlb ↔ e ∈ (creelOf s c).tlb ∧ ¬ (e.asid = a ∧ e.vpage = n ∧ e.size = size ∧ e.walked + 2 ^ 24 ≤ s.cyc)) ∧
    (∀ (i : ThreadId) (v : Word), let r := tsdOf s i
      let size := (v.extractLsb' 8 3).toNat
      let reach := (v.extractLsb' 0 3).toNat
      let bad := r.busy = true ∨ 6 ≤ size ∨ reach ∉ [0, 2, 3, 4]
      (bad → Gives (.tsdCtlShootdown i v) s fun t => tsdOf t i = { r with rej := true } ∧ Undisturbed s t ∧ t.agenda = s.agenda) ∧
      (¬ bad → Gives (.tsdCtlShootdown i v) s fun t =>
        tsdOf t i = { r with expect := (reachOf s i reach).length, count := 0, busy := true } ∧ Undisturbed s t ∧
        ∀ k ∈ reachOf s i reach, InCycles t (meshCycles i.core.x i.core.y k.x k.y)
          (.shootdownReceive k ⟨i, v.extractLsb' 48 16, (r.va.extractLsb' 16 41).toNat, size⟩)) ∧
      Gives (.shootdownCompletion i) s fun t => Undisturbed s t ∧
        tsdOf t i = { r with count := r.count + 1, busy := r.busy && decide (r.count + 1 ≠ r.expect) }) ∧
    (∀ (c : CreelId) (sd : Shootdown),
      (Gives (.shootdownReceive c sd) s fun t => Undisturbed s t ∧
        InCycles t 1 (if sdHeld s c sd || (besideControl c && sdHeld s (controlRegion c.die) sd) then .shootdownReceive c sd else .shootdownCreelDone c sd)) ∧
      Gives (.shootdownCreelDone c sd) s fun t => Undisturbed s t ∧
        InCycles t (treeCycles c.x c.y sd.issuer.core.x sd.issuer.core.y) (.shootdownCompletion sd.issuer) ∧
        ∀ e, e ∈ (creelOf t c).tlb ↔ e ∈ (creelOf s c).tlb ∧ sdCovers sd e.asid (e.vpage * pageBytes e.size) (pageBytes e.size) = false) ∧
    -- frames and migration
    (∀ (die ring : Nat) (v : Word) (head n : Nat), s.frameRings.get (die, ring) (0, 0) = (head, n) →
      let f := (v.extractLsb' 16 36).toNat * 65536
      let pushed := fun (i : Instr) (f : Nat) => Gives i s fun t => t.frameRings.get (die, ring) (0, 0) = (head, n + 1) ∧
        readWord t (ringAddr s die ring (head + n)) = BitVec.ofNat 64 f ∧ OnlyBytes s t (ringAddr s die ring (head + n)) 8
      let room := n < ringSize s die ring ∧ ringReach s die ring (head + n) = true
      (frameSuits s die ring f = true → room → pushed (.migFreeWrite die ring v) f) ∧
      (¬ (frameSuits s die ring f = true ∧ room) → Gives (.migFreeWrite die ring v) s fun t =>
        t.frameRings = s.frameRings ∧ Undisturbed s t) ∧
      (∀ g, room → pushed (.migrationFrameRelease die ring g) g) ∧
      (migEn s die = true → Gives (.migRbaseWrite die ring v) s fun t => t = s) ∧
      (migEn s die = false → Gives (.migRbaseWrite die ring v) s fun t => migRbase t die ring = v &&& 0x000FFFFFFFFFF01F#64 ∧
        t.frameRings.get (die, ring) (0, 0) = (0, 0) ∧ Undisturbed s t)) ∧
    (∀ die : Nat, (migEn s die = false → Gives (.migrationEpochEnd die) s fun t => t = s) ∧
      (migEn s die = true → Gives (.migrationEpochEnd die) s fun t => InCycles t (2 ^ 24) (.migrationEpochEnd die) ∧ Undisturbed s t ∧
        (∀ f cap north, homeOf s (65536 * f) = some (.control die cap north) → t.frameCount.get f 0 = 0) ∧
        ∀ e ∈ s.frameHeat, (∃ cap north, homeOf s e.1 = some (.control die cap north)) → ∀ f ∈ pageFrames e.1 (decide (e.2.1 = 1)),
          s.frameCount.get f 0 ≠ 0 → t.idleEpochs.get f 0 = 0)) ∧
    ∀ m : Move, s.moves = [m] →
      (m.old + m.bytes ≤ m.new ∨ m.new + m.bytes ≤ m.old → 64 * m.line < m.bytes → Gives (.migrationLineCopy m.die m.id) s fun t =>
        readBytes t (m.new + 64 * m.line) 64 = readBytes s (m.old + 64 * m.line) 64 ∧ OnlyBytes s t (m.new + 64 * m.line) 64 ∧
        t.moves = [{ m with line := m.line + 1 }] ∧ ∃ c, s.cyc < c ∧ ⟨c, .event (if 64 * (m.line + 1) < m.bytes then
          .migrationLineCopy m.die m.id else .migrationCommit m.die m.id)⟩ ∈ t.agenda) ∧
      (s.waiters = [] → readWord s m.leafAddr = m.leaf → Gives (.migrationCommit m.die m.id) s fun t => t.moves = [] ∧
        readWord t m.leafAddr = movedLeaf m ∧ OnlyBytes s t m.leafAddr 8 ∧
        InCycles t (2 ^ 24) (.migrationFrameRelease m.die ((if m.up then 2 else 0) + (if m.big then 1 else 0)) m.old)) ∧
      ∀ head n, readWord s m.leafAddr ≠ m.leaf →
        let ring := (if m.up then 0 else 2) + (if m.big then 1 else 0)
        s.frameRings.get (m.die, ring) (0, 0) = (head, n) → n < ringSize s m.die ring →
        ringReach s m.die ring (head + n) = true →
        Gives (.migrationCommit m.die m.id) s fun t => t.moves = [] ∧ t.frameVer = s.frameVer ∧
          t.frameRings.get (m.die, ring) (0, 0) = (head, n + 1) ∧ OnlyBytes s t (ringAddr s m.die ring (head + n)) 8

/-! ## Decoding and the step -/

/-- R261, R263, R264, R270 to R272. Slots that the spec's worked encodings give, and slots it refuses, as the decoder reads them. -/
def Obligations.WorkedEncodings : Prop :=
  (∀ p ∈ [(0x00E18281#32, Instr.add 7 6 5), (0x3182C503#32, .div 12 11 10), (0x12440C05#32, .lea 1 18 16 24), (0x00610217#32, .shli 3 4 4),
      (0xFFFEC1A1#32, .li 0x3FFFB 3), (0xFFFD4225#32, .bnz 0xFFFD 4), (0x03C084A9#32, .ld 3 6 2 9), (0x30E182AB#32, .ldx 3 7 6 5),
      (0x0280822D#32, .st 2 4 2 4), (0xFFC101AF#32, .lda 0xFF 6 4 3), (0x000182B7#32, .ldfe 6 5), (0x710243BB#32, .amocasAcq 8 9 7),
      (0x1000003F#32, .fenceRel), (0x50E1003F#32, .bwait 7 4), (0xB2C54A41#32, .ffma 22 21 20), (0x020102C3#32, .fcvt 0 2 0 4 5),
      (0xFFFD03D5#32, .loop 0xFFFD 7), (0x00C002DB#32, .sysrd 6 5), (0x30C1405F#32, .pushc 6 5), (0x00C422E1#32, .send 6 0x21 5),
      (0x208001E3#32, .connect 4 3), (0x401A21E9#32, .vfma 1 0 2 1 0 3), (0x00C14175#32, .zbind 6 5 2), (0xC000207B#32, .mma 6 0 1 0 0),
      (0x6810B07D#32, .mepi 1 1 0 1 0 5 4 0)],
    decodeSlot p.1 false = .ok p.2) ∧
  decodeSlot 0x1902F8D4#32 false = .ok (.cAddi 0x1F 3) ∧ decodeSlot 0x1902F8D4#32 true = .ok (.cMov 3 4) ∧
  decodeSlot 0x00000000#32 false = .error .reservedOp5 ∧ decodeSlot 0xFFFFFFFF#32 false = .error .unassignedMajor ∧
  decodeSlot 0x00E18281#32 true = .error .highParcelOf32 ∧ decodeSlot 0x0001F8D4#32 false = .error .highParcelNotCompact ∧
  decodeSlot 0x00000076#32 false = .error .compactNonzero ∧ decodeSlot 0xB000003F#32 false = .error .unassignedSelector

/-- R261, R263, R264, R270 to R272. Decoding what the encoder writes gives the instruction back, with every operand at every value:
a 32-bit instruction from its slot, a compact one from either parcel of a slot whose other parcel is compact too. -/
def Obligations.DecodeReadsWhatEncodeWrites : Prop :=
  ∀ i : Instr,
    (∀ w, encode i = .slot w → decodeSlot w false = .ok i) ∧
    (∀ p, encode i = .parcel p → ∀ q : BitVec 16, q.getLsbD 0 = false →
      decodeSlot (q ++ p) false = .ok i ∧ decodeSlot (p ++ q) true = .ok i)

/-- R159, R261, R265, R171. The issue of a thread whose slot stands in the instruction cache: the step performs the instruction that
the slot decodes to, or the ILLEGAL of a slot that has none, in the state whose turn is taken; the line's use and the
thread's issue are noted, and nothing else of the state is changed. -/
def Obligations.StepPerformsTheDecodedInstruction : Prop :=
  ∀ (s : State) (t : ThreadId) (r : List Turn) (th : Thread) (l : Line), s.inputs = [] → s.hand = none → s.turn = .issue t :: r →
    s.sampled = none → s.late = none → s.threads.find t = some th → th.trap = none → th.partner = none → th.region = none → th.going = false → th.delay = 0 → stepping s t = false →
    lineFind s t.core th.asid th.pc.toNat = some l →
    let w := slotIn l.bytes th.pc.toNat
    let issued := { touchLine s t.core th.asid th.pc.toNat with
      turn := r, tried := s.tried ++ [(t, true)], cur := t, word := w, high := th.pc.getLsbD 1, again := false, buffered := false
      threads := s.threads.put t (perfAdd { th with lent := none } 1 1) }
    breakHit s t th (!w.getLsbD 0) = none →
    (∀ i, decodeSlot w (th.pc.getLsbD 1) = .ok i → step s = exec i issued) ∧
    (∀ e, decodeSlot w (th.pc.getLsbD 1) = .error e → step s = exec (.illegalEncoding w (th.pc.getLsbD 1)) issued)

/-- R159, R162, R265, R274. Every row of the table answers a next state: an event of the machine in every state, and an encoded
instruction, or the ILLEGAL of a slot that encodes none, wherever the slot that performs it holds a thread. What that next
state holds is for the statements of the rows. -/
def Obligations.EveryInstructionCompletes : Prop :=
  (∀ (e : Event) (s : State), (∀ slot high, e ≠ .illegalEncoding slot high) → ∃ t, exec e.toInstr s = .next t) ∧
  ∀ (i : Instr) (s : State), (s.threads.find s.cur).isSome = true → ∃ t, exec i s = .next t

/-- R10, R25, R26, R29, R184, R411, R424. The machine right after power-good: bring-up at phase 0 in STANDBY, READY low, the power
block at its reset values, and every register, byte of memory, tag and full/empty bit, endpoint and boot unit as
initialised; its memory has the canonical form. That reset is the moment of power-good is the model's choice (DESIGN CHOICE, log 1), as
are the values of the registers and bytes for which the spec gives none (logs 3 and 4). -/
def Obligations.ResetState : Prop :=
  let s := State.reset
  s.Inv ∧ s.power.state = .standby ∧ s.power.trans = .bringup ∧ s.power.phase = 0 ∧ s.power.ready = false ∧
    pwrStat s.power = 0x40011 ∧ s.power.limit = 495 ∧ s.power.watts = 0 ∧ s.power.moorDur = 0 ∧ s.power.moorCount = 0 ∧ s.cyc = 0 ∧
    bootStat s = 0 ∧ s.threads = [] ∧ s.teams = [] ∧ s.launches = [] ∧
    (∀ t n, regOf s t n = ⟨0, false, residue 0 false⟩) ∧ (∀ a n, readBytes s a n = List.replicate n 0) ∧
    (∀ a, tagAt s a = false ∧ isFull s a = true ∧ unitState s a = 0) ∧ (∀ c n, (epOf s c n).est = .free) ∧
    (∀ c, (coreOf s c).queue = [] ∧ ∀ n, (mboxOf s c n).full = false) ∧
    ∀ d, floodStat (bootOf s d) d = bitsAt d 8

/-- R26, R239, R314, R424. What homes, controllers, migration and soft errors do to memory keeps its canonical form (addresses rising, no
entry that an unlisted address reads as): the invariant under which equal memories are equal data. -/
def Obligations.MemoryKeepsItsForm : Prop :=
  ∀ s t : State, s.Inv →
    (∀ q : MemReq, ∀ i ∈ [Instr.memLoad q, .memStore q, .memAtomic q, .memSubByteStore q, .memDestAdd q, .memDestMin q, .memDestMax q,
      .memFullEmpty q, .waiterStoreResend q], exec i s = .next t → t.Inv) ∧
    (∀ site, exec (.softError site) s = .next t → t.Inv) ∧
    (∀ die move, exec (.migrationLineCopy die move) s = .next t → t.Inv) ∧
    (∀ die ring v, exec (.migFreeWrite die ring v) s = .next t → t.Inv) ∧
    (∀ die ring f, exec (.migrationFrameRelease die ring f) s = .next t → t.Inv) ∧
    (∀ server pa data, exec (.bulkWrite server pa data) s = .next t → t.Inv) ∧
    (∀ c port f, exec (.imagePacketArrival c port f) s = .next t → t.Inv) ∧
    exec .supplyRemoved s = .next t → t.Inv
end

