-- ==== Sys2Proof/Laws/Arms.lean ====
section
/-! SUPPORT. The arm of every instruction and event: what `exec` calls for it. -/

namespace Sys2Proof.Machine

variable (s : State)

@[simp] theorem exec_moorReqRise : exec (.moorReqRise) s = execMoorReqRise s := rfl
@[simp] theorem exec_moorReqFall : exec (.moorReqFall) s = execMoorReqFall s := rfl
@[simp] theorem exec_powerGood : exec (.powerGood) s = execPowerGood s := rfl
@[simp] theorem exec_supplyRemoved : exec (.supplyRemoved) s = execSupplyRemoved s := rfl
@[simp] theorem exec_bringupPhaseComplete {r} : exec (.bringupPhaseComplete r) s = execBringupPhaseComplete r s := rfl
@[simp] theorem exec_pwrCmdStandby : exec (.pwrCmdStandby) s = execPwrCmdStandby s := rfl
@[simp] theorem exec_pwrCmdWake : exec (.pwrCmdWake) s = execPwrCmdWake s := rfl
@[simp] theorem exec_pwrCmdIdle : exec (.pwrCmdIdle) s = execPwrCmdIdle s := rfl
@[simp] theorem exec_pwrCmdRun : exec (.pwrCmdRun) s = execPwrCmdRun s := rfl
@[simp] theorem exec_pwrCmdMoor : exec (.pwrCmdMoor) s = execPwrCmdMoor s := rfl
@[simp] theorem exec_pwrCmdResume : exec (.pwrCmdResume) s = execPwrCmdResume s := rfl
@[simp] theorem exec_pwrCmdInvalid {c} : exec (.pwrCmdInvalid c) s = execPwrCmdInvalid c s := rfl
@[simp] theorem exec_standbyEntryComplete : exec (.standbyEntryComplete) s = execStandbyEntryComplete s := rfl
@[simp] theorem exec_idleEntryComplete : exec (.idleEntryComplete) s = execIdleEntryComplete s := rfl
@[simp] theorem exec_runEntryComplete : exec (.runEntryComplete) s = execRunEntryComplete s := rfl
@[simp] theorem exec_pwrLimitWrite {v} : exec (.pwrLimitWrite v) s = execPwrLimitWrite v s := rfl
@[simp] theorem exec_pwrMaskWrite {n v} : exec (.pwrMaskWrite n v) s = execPwrMaskWrite n v s := rfl
@[simp] theorem exec_powerWindowEnd {watts} : exec (.powerWindowEnd watts) s = execPowerWindowEnd watts s := rfl
@[simp] theorem exec_moorEntryComplete : exec (.moorEntryComplete) s = execMoorEntryComplete s := rfl
@[simp] theorem exec_moorEntryTimeout {lost} : exec (.moorEntryTimeout lost) s = execMoorEntryTimeout lost s := rfl
@[simp] theorem exec_resumptionComplete {bad} : exec (.resumptionComplete bad) s = execResumptionComplete bad s := rfl
@[simp] theorem exec_dieLinkReplay {edge link} : exec (.dieLinkReplay edge link) s = execDieLinkReplay edge link s := rfl
@[simp] theorem exec_dieLinkRetrain {edge link} : exec (.dieLinkRetrain edge link) s = execDieLinkRetrain edge link s := rfl
@[simp] theorem exec_dieLinkRetrainEnd {edge link ok} : exec (.dieLinkRetrainEnd edge link ok) s = execDieLinkRetrainEnd edge link ok s := rfl
@[simp] theorem exec_ethFrameReceive {port f} : exec (.ethFrameReceive port f) s = execEthFrameReceive port f s := rfl
@[simp] theorem exec_pfcPauseReceive {port prio pause} : exec (.pfcPauseReceive port prio pause) s = execPfcPauseReceive port prio pause s := rfl
@[simp] theorem exec_arpRequest {port ip} : exec (.arpRequest port ip) s = execArpRequest port ip s := rfl
@[simp] theorem exec_neighbourSolicitation {port ip} : exec (.neighbourSolicitation port ip) s = execNeighbourSolicitation port ip s := rfl
@[simp] theorem exec_ethLinkUp {port} : exec (.ethLinkUp port) s = execEthLinkUp port s := rfl
@[simp] theorem exec_ethCfgWrite {port v} : exec (.ethCfgWrite port v) s = execEthCfgWrite port v s := rfl
@[simp] theorem exec_ethHostPersist : exec (.ethHostPersist) s = execEthHostPersist s := rfl
@[simp] theorem exec_ethHostPortWrite {p} : exec (.ethHostPortWrite p) s = execEthHostPortWrite p s := rfl
@[simp] theorem exec_modSelfWrite {m} : exec (.modSelfWrite m) s = execModSelfWrite m s := rfl
@[simp] theorem exec_walkEntryReply {walk entry status} : exec (.walkEntryReply walk entry status) s = execWalkEntryReply walk entry status s := rfl
@[simp] theorem exec_tlbMigEntryExpiry {c asid vpage size} : exec (.tlbMigEntryExpiry c asid vpage size) s = execTlbMigEntryExpiry c asid vpage size s := rfl
@[simp] theorem exec_tsdCtlShootdown {t v} : exec (.tsdCtlShootdown t v) s = execTsdCtlShootdown t v s := rfl
@[simp] theorem exec_shootdownReceive {c sd} : exec (.shootdownReceive c sd) s = execShootdownReceive c sd s := rfl
@[simp] theorem exec_shootdownCreelDone {c sd} : exec (.shootdownCreelDone c sd) s = execShootdownCreelDone c sd s := rfl
@[simp] theorem exec_shootdownCompletion {t} : exec (.shootdownCompletion t) s = execShootdownCompletion t s := rfl
@[simp] theorem exec_migrationEpochEnd {die} : exec (.migrationEpochEnd die) s = execMigrationEpochEnd die s := rfl
@[simp] theorem exec_migrationLineCopy {die move} : exec (.migrationLineCopy die move) s = execMigrationLineCopy die move s := rfl
@[simp] theorem exec_migrationCommit {die move} : exec (.migrationCommit die move) s = execMigrationCommit die move s := rfl
@[simp] theorem exec_migrationFrameRelease {die ring frame} : exec (.migrationFrameRelease die ring frame) s = execMigrationFrameRelease die ring frame s := rfl
@[simp] theorem exec_migFreeWrite {die ring v} : exec (.migFreeWrite die ring v) s = execMigFreeWrite die ring v s := rfl
@[simp] theorem exec_migRbaseWrite {die ring v} : exec (.migRbaseWrite die ring v) s = execMigRbaseWrite die ring v s := rfl
@[simp] theorem exec_towlineData {session seq acknum ece m} : exec (.towlineData session seq acknum ece m) s = execTowlineData session seq acknum ece m s := rfl
@[simp] theorem exec_towlineAck {session acknum ece} : exec (.towlineAck session acknum ece) s = execTowlineAck session acknum ece s := rfl
@[simp] theorem exec_towlineOpen {session} : exec (.towlineOpen session) s = execTowlineOpen session s := rfl
@[simp] theorem exec_towlineReset {session} : exec (.towlineReset session) s = execTowlineReset session s := rfl
@[simp] theorem exec_towlineRetransmitTimeout {session seq} : exec (.towlineRetransmitTimeout session seq) s = execTowlineRetransmitTimeout session seq s := rfl
@[simp] theorem exec_regRead {addr} : exec (.regRead addr) s = execRegRead addr s := rfl
@[simp] theorem exec_regWrite {addr v} : exec (.regWrite addr v) s = execRegWrite addr v s := rfl
@[simp] theorem exec_fwWrite {slot off data} : exec (.fwWrite slot off data) s = execFwWrite slot off data s := rfl
@[simp] theorem exec_fwActivate : exec (.fwActivate) s = execFwActivate s := rfl
@[simp] theorem exec_noticeAck : exec (.noticeAck) s = execNoticeAck s := rfl
@[simp] theorem exec_launch {rec} : exec (.launch rec) s = execLaunch rec s := rfl
@[simp] theorem exec_bulkRead {server pa len} : exec (.bulkRead server pa len) s = execBulkRead server pa len s := rfl
@[simp] theorem exec_bulkWrite {server pa data} : exec (.bulkWrite server pa data) s = execBulkWrite server pa data s := rfl
@[simp] theorem exec_getVersion : exec (.getVersion) s = execGetVersion s := rfl
@[simp] theorem exec_getCapabilities : exec (.getCapabilities) s = execGetCapabilities s := rfl
@[simp] theorem exec_negotiateAlgorithms : exec (.negotiateAlgorithms) s = execNegotiateAlgorithms s := rfl
@[simp] theorem exec_getDigests : exec (.getDigests) s = execGetDigests s := rfl
@[simp] theorem exec_getCertificate {slot off len} : exec (.getCertificate slot off len) s = execGetCertificate slot off len s := rfl
@[simp] theorem exec_challenge {nonce} : exec (.challenge nonce) s = execChallenge nonce s := rfl
@[simp] theorem exec_getMeasurements {index sign nonce} : exec (.getMeasurements index sign nonce) s = execGetMeasurements index sign nonce s := rfl
@[simp] theorem exec_spdmUnsupported {code} : exec (.spdmUnsupported code) s = execSpdmUnsupported code s := rfl
@[simp] theorem exec_fwuQuiesced : exec (.fwuQuiesced) s = execFwuQuiesced s := rfl
@[simp] theorem exec_fwuSigDone {t} : exec (.fwuSigDone t) s = execFwuSigDone t s := rfl
@[simp] theorem exec_fwuSigFail {t} : exec (.fwuSigFail t) s = execFwuSigFail t s := rfl
@[simp] theorem exec_fwuHandoverTimeout {upd} : exec (.fwuHandoverTimeout upd) s = execFwuHandoverTimeout upd s := rfl
@[simp] theorem exec_fwHbWrite {t seq} : exec (.fwHbWrite t seq) s = execFwHbWrite t seq s := rfl
@[simp] theorem exec_fwuHeartbeatTimeout {upd} : exec (.fwuHeartbeatTimeout upd) s = execFwuHeartbeatTimeout upd s := rfl
@[simp] theorem exec_teamPlacement {k} : exec (.teamPlacement k) s = execTeamPlacement k s := rfl
@[simp] theorem exec_queueExamination {c} : exec (.queueExamination c) s = execQueueExamination c s := rfl
@[simp] theorem exec_gateTestReply {c ring unit gate full} : exec (.gateTestReply c ring unit gate full) s = execGateTestReply c ring unit gate full s := rfl
@[simp] theorem exec_dispatchEnterRotation {t} : exec (.dispatchEnterRotation t) s = execDispatchEnterRotation t s := rfl
@[simp] theorem exec_stealRequest {victim thief k} : exec (.stealRequest victim thief k) s = execStealRequest victim thief k s := rfl
@[simp] theorem exec_stealReply {thief victim k ring stamp pkt} : exec (.stealReply thief victim k ring stamp pkt) s = execStealReply thief victim k ring stamp pkt s := rfl
@[simp] theorem exec_stealBackoffExpiry {c} : exec (.stealBackoffExpiry c) s = execStealBackoffExpiry c s := rfl
@[simp] theorem exec_doneSend {c k} : exec (.doneSend c k) s = execDoneSend c k s := rfl
@[simp] theorem exec_doneReceive {c k word} : exec (.doneReceive c k word) s = execDoneReceive c k word s := rfl
@[simp] theorem exec_preReqEstimate {v} : exec (.preReqEstimate v) s = execPreReqEstimate v s := rfl
@[simp] theorem exec_preReqSave {v} : exec (.preReqSave v) s = execPreReqSave v s := rfl
@[simp] theorem exec_preReqDiscard {v} : exec (.preReqDiscard v) s = execPreReqDiscard v s := rfl
@[simp] theorem exec_preReqDrain {v} : exec (.preReqDrain v) s = execPreReqDrain v s := rfl
@[simp] theorem exec_preReqResume {v} : exec (.preReqResume v) s = execPreReqResume v s := rfl
@[simp] theorem exec_preemptBoundaryStop {k} : exec (.preemptBoundaryStop k) s = execPreemptBoundaryStop k s := rfl
@[simp] theorem exec_saveComplete {k} : exec (.saveComplete k) s = execSaveComplete k s := rfl
@[simp] theorem exec_snapshotMarker {core ep} : exec (.snapshotMarker core ep) s = execSnapshotMarker core ep s := rfl
@[simp] theorem exec_teamRelaunch {k} : exec (.teamRelaunch k) s = execTeamRelaunch k s := rfl
@[simp] theorem exec_restoreComplete {k} : exec (.restoreComplete k) s = execRestoreComplete k s := rfl
@[simp] theorem exec_retCtlRetire {c v} : exec (.retCtlRetire c v) s = execRetCtlRetire c v s := rfl
@[simp] theorem exec_sluiceStart {c} : exec (.sluiceStart c) s = execSluiceStart c s := rfl
@[simp] theorem exec_sluiceWaitfitDone {c} : exec (.sluiceWaitfitDone c) s = execSluiceWaitfitDone c s := rfl
@[simp] theorem exec_sluicePinDone {c} : exec (.sluicePinDone c) s = execSluicePinDone c s := rfl
@[simp] theorem exec_sluiceUnitCopy {c} : exec (.sluiceUnitCopy c) s = execSluiceUnitCopy c s := rfl
@[simp] theorem exec_bceWrite {c reg v} : exec (.bceWrite c reg v) s = execBceWrite c reg v s := rfl
@[simp] theorem exec_errorCounterWrite {die n v} : exec (.errorCounterWrite die n v) s = execErrorCounterWrite die n v s := rfl
@[simp] theorem exec_pairedHoldTimeout {t item} : exec (.pairedHoldTimeout t item) s = execPairedHoldTimeout t item s := rfl
@[simp] theorem exec_fenceBoundary {k} : exec (.fenceBoundary k) s = execFenceBoundary k s := rfl
@[simp] theorem exec_fenceStop {k} : exec (.fenceStop k) s = execFenceStop k s := rfl
@[simp] theorem exec_fenceReset {k} : exec (.fenceReset k) s = execFenceReset k s := rfl
@[simp] theorem exec_boundaryNack {m} : exec (.boundaryNack m) s = execBoundaryNack m s := rfl
@[simp] theorem exec_nackReceive {m} : exec (.nackReceive m) s = execNackReceive m s := rfl
@[simp] theorem exec_dbgHalt {c} : exec (.dbgHalt c) s = execDbgHalt c s := rfl
@[simp] theorem exec_dbgResume {c} : exec (.dbgResume c) s = execDbgResume c s := rfl
@[simp] theorem exec_dbgStep {t} : exec (.dbgStep t) s = execDbgStep t s := rfl
@[simp] theorem exec_dbgRegRead {c off} : exec (.dbgRegRead c off) s = execDbgRegRead c off s := rfl
@[simp] theorem exec_dbgRegWrite {c off v} : exec (.dbgRegWrite c off v) s = execDbgRegWrite c off v s := rfl
@[simp] theorem exec_dbgThreadRegRead {t n} : exec (.dbgThreadRegRead t n) s = execDbgThreadRegRead t n s := rfl
@[simp] theorem exec_dbgDumpTeam {t level} : exec (.dbgDumpTeam t level) s = execDbgDumpTeam t level s := rfl
@[simp] theorem exec_dbgDumpCreel {c} : exec (.dbgDumpCreel c) s = execDbgDumpCreel c s := rfl
@[simp] theorem exec_haltCrossTrigger {c} : exec (.haltCrossTrigger c) s = execHaltCrossTrigger c s := rfl
@[simp] theorem exec_debugResumePoint {c} : exec (.debugResumePoint c) s = execDebugResumePoint c s := rfl
@[simp] theorem exec_debugStepComplete {t} : exec (.debugStepComplete t) s = execDebugStepComplete t s := rfl
@[simp] theorem exec_sampleTick {c} : exec (.sampleTick c) s = execSampleTick c s := rfl
@[simp] theorem exec_slotStart {t v} : exec (.slotStart t v) s = execSlotStart t v s := rfl
@[simp] theorem exec_chpoolWrite {core v} : exec (.chpoolWrite core v) s = execChpoolWrite core v s := rfl
@[simp] theorem exec_statusWrite {t v} : exec (.statusWrite t v) s = execStatusWrite t v s := rfl
@[simp] theorem exec_devDataRead {t d} : exec (.devDataRead t d) s = execDevDataRead t d s := rfl
@[simp] theorem exec_devDataWrite {t v} : exec (.devDataWrite t v) s = execDevDataWrite t v s := rfl
@[simp] theorem exec_registerWrite {t n v} : exec (.registerWrite t n v) s = execRegisterWrite t n v s := rfl
@[simp] theorem exec_bargeTake {core} : exec (.bargeTake core) s = execBargeTake core s := rfl
@[simp] theorem exec_handlerStart {core ep} : exec (.handlerStart core ep) s = execHandlerStart core ep s := rfl
@[simp] theorem exec_icacheLineFill {t va pa bytes status} : exec (.icacheLineFill t va pa bytes status) s = execIcacheLineFill t va pa bytes status s := rfl
@[simp] theorem exec_repBufferBeat {t} : exec (.repBufferBeat t) s = execRepBufferBeat t s := rfl
@[simp] theorem exec_wfeTimeout {t since} : exec (.wfeTimeout t since) s = execWfeTimeout t since s := rfl
@[simp] theorem exec_userMessageArrival {m} : exec (.userMessageArrival m) s = execUserMessageArrival m s := rfl
@[simp] theorem exec_connectMessage {m} : exec (.connectMessage m) s = execConnectMessage m s := rfl
@[simp] theorem exec_acceptMessage {m} : exec (.acceptMessage m) s = execAcceptMessage m s := rfl
@[simp] theorem exec_creditReturn {m} : exec (.creditReturn m) s = execCreditReturn m s := rfl
@[simp] theorem exec_delegateTransfer {m} : exec (.delegateTransfer m) s = execDelegateTransfer m s := rfl
@[simp] theorem exec_taken {m} : exec (.taken m) s = execTaken m s := rfl
@[simp] theorem exec_redirect {m} : exec (.redirect m) s = execRedirect m s := rfl
@[simp] theorem exec_redirected {m} : exec (.redirected m) s = execRedirected m s := rfl
@[simp] theorem exec_fwdEnd {m} : exec (.fwdEnd m) s = execFwdEnd m s := rfl
@[simp] theorem exec_closedNotice {m} : exec (.closedNotice m) s = execClosedNotice m s := rfl
@[simp] theorem exec_inlineCodeRun {core ep} : exec (.inlineCodeRun core ep) s = execInlineCodeRun core ep s := rfl
@[simp] theorem exec_memLoad {q} : exec (.memLoad q) s = execMemLoad q s := rfl
@[simp] theorem exec_memStore {q} : exec (.memStore q) s = execMemStore q s := rfl
@[simp] theorem exec_memAtomic {q} : exec (.memAtomic q) s = execMemAtomic q s := rfl
@[simp] theorem exec_memSubByteStore {q} : exec (.memSubByteStore q) s = execMemSubByteStore q s := rfl
@[simp] theorem exec_memDestAdd {q} : exec (.memDestAdd q) s = execMemDestAdd q s := rfl
@[simp] theorem exec_memDestMin {q} : exec (.memDestMin q) s = execMemDestMin q s := rfl
@[simp] theorem exec_memDestMax {q} : exec (.memDestMax q) s = execMemDestMax q s := rfl
@[simp] theorem exec_memFullEmpty {q} : exec (.memFullEmpty q) s = execMemFullEmpty q s := rfl
@[simp] theorem exec_memoryReply {r} : exec (.memoryReply r) s = execMemoryReply r s := rfl
@[simp] theorem exec_waitCancel {q} : exec (.waitCancel q) s = execWaitCancel q s := rfl
@[simp] theorem exec_waiterStoreResend {q} : exec (.waiterStoreResend q) s = execWaiterStoreResend q s := rfl
@[simp] theorem exec_treq {m} : exec (.treq m) s = execTreq m s := rfl
@[simp] theorem exec_twrite {m} : exec (.twrite m) s = execTwrite m s := rfl
@[simp] theorem exec_tbye {m} : exec (.tbye m) s = execTbye m s := rfl
@[simp] theorem exec_autloadComplete {t} : exec (.autloadComplete t) s = execAutloadComplete t s := rfl
@[simp] theorem exec_enqRemoteArrival {t k pkt} : exec (.enqRemoteArrival t k pkt) s = execEnqRemoteArrival t k pkt s := rfl
@[simp] theorem exec_enqAnswer {t code} : exec (.enqAnswer t code) s = execEnqAnswer t code s := rfl
@[simp] theorem exec_engineCommandComplete {c eng cmd} : exec (.engineCommandComplete c eng cmd) s = execEngineCommandComplete c eng cmd s := rfl
@[simp] theorem exec_matrixAccept {core} : exec (.matrixAccept core) s = execMatrixAccept core s := rfl
@[simp] theorem exec_matrixCommit {core} : exec (.matrixCommit core) s = execMatrixCommit core s := rfl
@[simp] theorem exec_mteamBlockArrival {core blk} : exec (.mteamBlockArrival core blk) s = execMteamBlockArrival core blk s := rfl
@[simp] theorem exec_mswapMessageArrival {core m} : exec (.mswapMessageArrival core m) s = execMswapMessageArrival core m s := rfl
@[simp] theorem exec_bootDiscoveryFlood {die v} : exec (.bootDiscoveryFlood die v) s = execBootDiscoveryFlood die v s := rfl
@[simp] theorem exec_bootImageFlood {die v} : exec (.bootImageFlood die v) s = execBootImageFlood die v s := rfl
@[simp] theorem exec_floodFlitArrival {c port f} : exec (.floodFlitArrival c port f) s = execFloodFlitArrival c port f s := rfl
@[simp] theorem exec_floodAnswer {die f} : exec (.floodAnswer die f) s = execFloodAnswer die f s := rfl
@[simp] theorem exec_imagePacketArrival {c port f} : exec (.imagePacketArrival c port f) s = execImagePacketArrival c port f s := rfl
@[simp] theorem exec_imageAck {die f} : exec (.imageAck die f) s = execImageAck die f s := rfl
@[simp] theorem exec_discoveryWindowEnd {die fnum} : exec (.discoveryWindowEnd die fnum) s = execDiscoveryWindowEnd die fnum s := rfl
@[simp] theorem exec_imageWindowEnd {die fnum} : exec (.imageWindowEnd die fnum) s = execImageWindowEnd die fnum s := rfl
@[simp] theorem exec_add {b a d} : exec (.add b a d) s = execAdd b a d s := rfl
@[simp] theorem exec_sub {b a d} : exec (.sub b a d) s = execSub b a d s := rfl
@[simp] theorem exec_and {b a d} : exec (.and b a d) s = execAnd b a d s := rfl
@[simp] theorem exec_or {b a d} : exec (.or b a d) s = execOr b a d s := rfl
@[simp] theorem exec_xor {b a d} : exec (.xor b a d) s = execXor b a d s := rfl
@[simp] theorem exec_andn {b a d} : exec (.andn b a d) s = execAndn b a d s := rfl
@[simp] theorem exec_orn {b a d} : exec (.orn b a d) s = execOrn b a d s := rfl
@[simp] theorem exec_shl {b a d} : exec (.shl b a d) s = execShl b a d s := rfl
@[simp] theorem exec_shr {b a d} : exec (.shr b a d) s = execShr b a d s := rfl
@[simp] theorem exec_sar {b a d} : exec (.sar b a d) s = execSar b a d s := rfl
@[simp] theorem exec_rol {b a d} : exec (.rol b a d) s = execRol b a d s := rfl
@[simp] theorem exec_min {b a d} : exec (.min b a d) s = execMin b a d s := rfl
@[simp] theorem exec_max {b a d} : exec (.max b a d) s = execMax b a d s := rfl
@[simp] theorem exec_minn {b a d} : exec (.minn b a d) s = execMinn b a d s := rfl
@[simp] theorem exec_maxn {b a d} : exec (.maxn b a d) s = execMaxn b a d s := rfl
@[simp] theorem exec_sel {b a d} : exec (.sel b a d) s = execSel b a d s := rfl
@[simp] theorem exec_mul {b a d} : exec (.mul b a d) s = execMul b a d s := rfl
@[simp] theorem exec_mulh {b a d} : exec (.mulh b a d) s = execMulh b a d s := rfl
@[simp] theorem exec_mulhn {b a d} : exec (.mulhn b a d) s = execMulhn b a d s := rfl
@[simp] theorem exec_div {b a d} : exec (.div b a d) s = execDiv b a d s := rfl
@[simp] theorem exec_divn {b a d} : exec (.divn b a d) s = execDivn b a d s := rfl
@[simp] theorem exec_rem {b a d} : exec (.rem b a d) s = execRem b a d s := rfl
@[simp] theorem exec_remn {b a d} : exec (.remn b a d) s = execRemn b a d s := rfl
@[simp] theorem exec_slt {b a d} : exec (.slt b a d) s = execSlt b a d s := rfl
@[simp] theorem exec_sltn {b a d} : exec (.sltn b a d) s = execSltn b a d s := rfl
@[simp] theorem exec_seq {b a d} : exec (.seq b a d) s = execSeq b a d s := rfl
@[simp] theorem exec_lea {h b a d} : exec (.lea h b a d) s = execLea h b a d s := rfl
@[simp] theorem exec_clz {a d} : exec (.clz a d) s = execClz a d s := rfl
@[simp] theorem exec_ctz {a d} : exec (.ctz a d) s = execCtz a d s := rfl
@[simp] theorem exec_popc {a d} : exec (.popc a d) s = execPopc a d s := rfl
@[simp] theorem exec_brev {a d} : exec (.brev a d) s = execBrev a d s := rfl
@[simp] theorem exec_bswap {a d} : exec (.bswap a d) s = execBswap a d s := rfl
@[simp] theorem exec_exts {w a d} : exec (.exts w a d) s = execExts w a d s := rfl
@[simp] theorem exec_extz {w a d} : exec (.extz w a d) s = execExtz w a d s := rfl
@[simp] theorem exec_bfx {l p a d} : exec (.bfx l p a d) s = execBfx l p a d s := rfl
@[simp] theorem exec_bfi {l p a d} : exec (.bfi l p a d) s = execBfi l p a d s := rfl
@[simp] theorem exec_addi {imm a d} : exec (.addi imm a d) s = execAddi imm a d s := rfl
@[simp] theorem exec_andi {imm a d} : exec (.andi imm a d) s = execAndi imm a d s := rfl
@[simp] theorem exec_ori {imm a d} : exec (.ori imm a d) s = execOri imm a d s := rfl
@[simp] theorem exec_xori {imm a d} : exec (.xori imm a d) s = execXori imm a d s := rfl
@[simp] theorem exec_shli {n a d} : exec (.shli n a d) s = execShli n a d s := rfl
@[simp] theorem exec_shri {n a d} : exec (.shri n a d) s = execShri n a d s := rfl
@[simp] theorem exec_sari {n a d} : exec (.sari n a d) s = execSari n a d s := rfl
@[simp] theorem exec_slti {imm a d} : exec (.slti imm a d) s = execSlti imm a d s := rfl
@[simp] theorem exec_sltni {imm a d} : exec (.sltni imm a d) s = execSltni imm a d s := rfl
@[simp] theorem exec_muli {imm a d} : exec (.muli imm a d) s = execMuli imm a d s := rfl
@[simp] theorem exec_li {imm d} : exec (.li imm d) s = execLi imm d s := rfl
@[simp] theorem exec_lix {imm d} : exec (.lix imm d) s = execLix imm d s := rfl
@[simp] theorem exec_bz {imm a} : exec (.bz imm a) s = execBz imm a s := rfl
@[simp] theorem exec_bnz {imm a} : exec (.bnz imm a) s = execBnz imm a s := rfl
@[simp] theorem exec_bltz {imm a} : exec (.bltz imm a) s = execBltz imm a s := rfl
@[simp] theorem exec_bgez {imm a} : exec (.bgez imm a) s = execBgez imm a s := rfl
@[simp] theorem exec_jal {imm d} : exec (.jal imm d) s = execJal imm d s := rfl
@[simp] theorem exec_ld {o w a d} : exec (.ld o w a d) s = execLd o w a d s := rfl
@[simp] theorem exec_ldx {w b a d} : exec (.ldx w b a d) s = execLdx w b a d s := rfl
@[simp] theorem exec_st {o w a x} : exec (.st o w a x) s = execSt o w a x s := rfl
@[simp] theorem exec_lda {o w a d} : exec (.lda o w a d) s = execLda o w a d s := rfl
@[simp] theorem exec_stl {o w a x} : exec (.stl o w a x) s = execStl o w a x s := rfl
@[simp] theorem exec_spill {imm a x} : exec (.spill imm a x) s = execSpill imm a x s := rfl
@[simp] theorem exec_fill {imm a d} : exec (.fill imm a d) s = execFill imm a d s := rfl
@[simp] theorem exec_ldfe {a d} : exec (.ldfe a d) s = execLdfe a d s := rfl
@[simp] theorem exec_ldff {a d} : exec (.ldff a d) s = execLdff a d s := rfl
@[simp] theorem exec_stef {b a} : exec (.stef b a) s = execStef b a s := rfl
@[simp] theorem exec_stff {b a} : exec (.stff b a) s = execStff b a s := rfl
@[simp] theorem exec_feset {a} : exec (.feset a) s = execFeset a s := rfl
@[simp] theorem exec_fepeek {a d} : exec (.fepeek a d) s = execFepeek a d s := rfl
@[simp] theorem exec_sbstLo {b a} : exec (.sbstLo b a) s = execSbstLo b a s := rfl
@[simp] theorem exec_sbstHi {b a} : exec (.sbstHi b a) s = execSbstHi b a s := rfl
@[simp] theorem exec_amoadd {b a d} : exec (.amoadd b a d) s = execAmoadd b a d s := rfl
@[simp] theorem exec_amoand {b a d} : exec (.amoand b a d) s = execAmoand b a d s := rfl
@[simp] theorem exec_amoor {b a d} : exec (.amoor b a d) s = execAmoor b a d s := rfl
@[simp] theorem exec_amoxor {b a d} : exec (.amoxor b a d) s = execAmoxor b a d s := rfl
@[simp] theorem exec_amomin {b a d} : exec (.amomin b a d) s = execAmomin b a d s := rfl
@[simp] theorem exec_amomax {b a d} : exec (.amomax b a d) s = execAmomax b a d s := rfl
@[simp] theorem exec_amoswap {b a d} : exec (.amoswap b a d) s = execAmoswap b a d s := rfl
@[simp] theorem exec_amocas {b a d} : exec (.amocas b a d) s = execAmocas b a d s := rfl
@[simp] theorem exec_amofadd {b a d} : exec (.amofadd b a d) s = execAmofadd b a d s := rfl
@[simp] theorem exec_amodf {b a d} : exec (.amodf b a d) s = execAmodf b a d s := rfl
@[simp] theorem exec_amoaddAcq {b a d} : exec (.amoaddAcq b a d) s = execAmoaddAcq b a d s := rfl
@[simp] theorem exec_amoandAcq {b a d} : exec (.amoandAcq b a d) s = execAmoandAcq b a d s := rfl
@[simp] theorem exec_amoorAcq {b a d} : exec (.amoorAcq b a d) s = execAmoorAcq b a d s := rfl
@[simp] theorem exec_amoxorAcq {b a d} : exec (.amoxorAcq b a d) s = execAmoxorAcq b a d s := rfl
@[simp] theorem exec_amominAcq {b a d} : exec (.amominAcq b a d) s = execAmominAcq b a d s := rfl
@[simp] theorem exec_amomaxAcq {b a d} : exec (.amomaxAcq b a d) s = execAmomaxAcq b a d s := rfl
@[simp] theorem exec_amoswapAcq {b a d} : exec (.amoswapAcq b a d) s = execAmoswapAcq b a d s := rfl
@[simp] theorem exec_amocasAcq {b a d} : exec (.amocasAcq b a d) s = execAmocasAcq b a d s := rfl
@[simp] theorem exec_amofaddAcq {b a d} : exec (.amofaddAcq b a d) s = execAmofaddAcq b a d s := rfl
@[simp] theorem exec_amodfAcq {b a d} : exec (.amodfAcq b a d) s = execAmodfAcq b a d s := rfl
@[simp] theorem exec_amoaddRel {b a d} : exec (.amoaddRel b a d) s = execAmoaddRel b a d s := rfl
@[simp] theorem exec_amoandRel {b a d} : exec (.amoandRel b a d) s = execAmoandRel b a d s := rfl
@[simp] theorem exec_amoorRel {b a d} : exec (.amoorRel b a d) s = execAmoorRel b a d s := rfl
@[simp] theorem exec_amoxorRel {b a d} : exec (.amoxorRel b a d) s = execAmoxorRel b a d s := rfl
@[simp] theorem exec_amominRel {b a d} : exec (.amominRel b a d) s = execAmominRel b a d s := rfl
@[simp] theorem exec_amomaxRel {b a d} : exec (.amomaxRel b a d) s = execAmomaxRel b a d s := rfl
@[simp] theorem exec_amoswapRel {b a d} : exec (.amoswapRel b a d) s = execAmoswapRel b a d s := rfl
@[simp] theorem exec_amocasRel {b a d} : exec (.amocasRel b a d) s = execAmocasRel b a d s := rfl
@[simp] theorem exec_amofaddRel {b a d} : exec (.amofaddRel b a d) s = execAmofaddRel b a d s := rfl
@[simp] theorem exec_amodfRel {b a d} : exec (.amodfRel b a d) s = execAmodfRel b a d s := rfl
@[simp] theorem exec_fenceAcq : exec (.fenceAcq) s = execFenceAcq s := rfl
@[simp] theorem exec_fenceRel : exec (.fenceRel) s = execFenceRel s := rfl
@[simp] theorem exec_fenceFull : exec (.fenceFull) s = execFenceFull s := rfl
@[simp] theorem exec_ifence : exec (.ifence) s = execIfence s := rfl
@[simp] theorem exec_barrive {a d} : exec (.barrive a d) s = execBarrive a d s := rfl
@[simp] theorem exec_bwait {b a} : exec (.bwait b a) s = execBwait b a s := rfl
@[simp] theorem exec_waitmsg : exec (.waitmsg) s = execWaitmsg s := rfl
@[simp] theorem exec_msgpop {d} : exec (.msgpop d) s = execMsgpop d s := rfl
@[simp] theorem exec_mbput {n a} : exec (.mbput n a) s = execMbput n a s := rfl
@[simp] theorem exec_mbget {n d} : exec (.mbget n d) s = execMbget n d s := rfl
@[simp] theorem exec_tagset {b a} : exec (.tagset b a) s = execTagset b a s := rfl
@[simp] theorem exec_fadd {b a d} : exec (.fadd b a d) s = execFadd b a d s := rfl
@[simp] theorem exec_fsub {b a d} : exec (.fsub b a d) s = execFsub b a d s := rfl
@[simp] theorem exec_fmul {b a d} : exec (.fmul b a d) s = execFmul b a d s := rfl
@[simp] theorem exec_fdiv {b a d} : exec (.fdiv b a d) s = execFdiv b a d s := rfl
@[simp] theorem exec_fsqrt {a d} : exec (.fsqrt a d) s = execFsqrt a d s := rfl
@[simp] theorem exec_fmin {b a d} : exec (.fmin b a d) s = execFmin b a d s := rfl
@[simp] theorem exec_fmax {b a d} : exec (.fmax b a d) s = execFmax b a d s := rfl
@[simp] theorem exec_fabs {a d} : exec (.fabs a d) s = execFabs a d s := rfl
@[simp] theorem exec_fneg {a d} : exec (.fneg a d) s = execFneg a d s := rfl
@[simp] theorem exec_fcmp {b a d} : exec (.fcmp b a d) s = execFcmp b a d s := rfl
@[simp] theorem exec_fclass {a d} : exec (.fclass a d) s = execFclass a d s := rfl
@[simp] theorem exec_ffma {b a d} : exec (.ffma b a d) s = execFfma b a d s := rfl
@[simp] theorem exec_fcvt {k y x a d} : exec (.fcvt k y x a d) s = execFcvt k y x a d s := rfl
@[simp] theorem exec_frnd {o a d} : exec (.frnd o a d) s = execFrnd o a d s := rfl
@[simp] theorem exec_sget {a d} : exec (.sget a d) s = execSget a d s := rfl
@[simp] theorem exec_sset {b a d} : exec (.sset b a d) s = execSset b a d s := rfl
@[simp] theorem exec_sclr {a d} : exec (.sclr a d) s = execSclr a d s := rfl
@[simp] theorem exec_qenc {w a d} : exec (.qenc w a d) s = execQenc w a d s := rfl
@[simp] theorem exec_qdec {w a d} : exec (.qdec w a d) s = execQdec w a d s := rfl
@[simp] theorem exec_cbload {n a} : exec (.cbload n a) s = execCbload n a s := rfl
@[simp] theorem exec_paddW32 {b a d} : exec (.paddW32 b a d) s = execPaddW32 b a d s := rfl
@[simp] theorem exec_psubW32 {b a d} : exec (.psubW32 b a d) s = execPsubW32 b a d s := rfl
@[simp] theorem exec_pmulW32 {b a d} : exec (.pmulW32 b a d) s = execPmulW32 b a d s := rfl
@[simp] theorem exec_pfmaW32 {b a d} : exec (.pfmaW32 b a d) s = execPfmaW32 b a d s := rfl
@[simp] theorem exec_pminW32 {b a d} : exec (.pminW32 b a d) s = execPminW32 b a d s := rfl
@[simp] theorem exec_pmaxW32 {b a d} : exec (.pmaxW32 b a d) s = execPmaxW32 b a d s := rfl
@[simp] theorem exec_pdotW32 {b a d} : exec (.pdotW32 b a d) s = execPdotW32 b a d s := rfl
@[simp] theorem exec_pshufW32 {b a d} : exec (.pshufW32 b a d) s = execPshufW32 b a d s := rfl
@[simp] theorem exec_pcvtBf16W32 {g a d} : exec (.pcvtBf16W32 g a d) s = execPcvtBf16W32 g a d s := rfl
@[simp] theorem exec_pcvtFp16W32 {g a d} : exec (.pcvtFp16W32 g a d) s = execPcvtFp16W32 g a d s := rfl
@[simp] theorem exec_pcvtI8W32 {g a d} : exec (.pcvtI8W32 g a d) s = execPcvtI8W32 g a d s := rfl
@[simp] theorem exec_pcvtI32W32 {g a d} : exec (.pcvtI32W32 g a d) s = execPcvtI32W32 g a d s := rfl
@[simp] theorem exec_paddBf16 {b a d} : exec (.paddBf16 b a d) s = execPaddBf16 b a d s := rfl
@[simp] theorem exec_psubBf16 {b a d} : exec (.psubBf16 b a d) s = execPsubBf16 b a d s := rfl
@[simp] theorem exec_pmulBf16 {b a d} : exec (.pmulBf16 b a d) s = execPmulBf16 b a d s := rfl
@[simp] theorem exec_pfmaBf16 {b a d} : exec (.pfmaBf16 b a d) s = execPfmaBf16 b a d s := rfl
@[simp] theorem exec_pminBf16 {b a d} : exec (.pminBf16 b a d) s = execPminBf16 b a d s := rfl
@[simp] theorem exec_pmaxBf16 {b a d} : exec (.pmaxBf16 b a d) s = execPmaxBf16 b a d s := rfl
@[simp] theorem exec_pdotBf16 {b a d} : exec (.pdotBf16 b a d) s = execPdotBf16 b a d s := rfl
@[simp] theorem exec_pshufBf16 {b a d} : exec (.pshufBf16 b a d) s = execPshufBf16 b a d s := rfl
@[simp] theorem exec_pcvtW32Bf16 {g a d} : exec (.pcvtW32Bf16 g a d) s = execPcvtW32Bf16 g a d s := rfl
@[simp] theorem exec_pcvtFp16Bf16 {g a d} : exec (.pcvtFp16Bf16 g a d) s = execPcvtFp16Bf16 g a d s := rfl
@[simp] theorem exec_pcvtI8Bf16 {g a d} : exec (.pcvtI8Bf16 g a d) s = execPcvtI8Bf16 g a d s := rfl
@[simp] theorem exec_pcvtI32Bf16 {g a d} : exec (.pcvtI32Bf16 g a d) s = execPcvtI32Bf16 g a d s := rfl
@[simp] theorem exec_paddFp16 {b a d} : exec (.paddFp16 b a d) s = execPaddFp16 b a d s := rfl
@[simp] theorem exec_psubFp16 {b a d} : exec (.psubFp16 b a d) s = execPsubFp16 b a d s := rfl
@[simp] theorem exec_pmulFp16 {b a d} : exec (.pmulFp16 b a d) s = execPmulFp16 b a d s := rfl
@[simp] theorem exec_pfmaFp16 {b a d} : exec (.pfmaFp16 b a d) s = execPfmaFp16 b a d s := rfl
@[simp] theorem exec_pminFp16 {b a d} : exec (.pminFp16 b a d) s = execPminFp16 b a d s := rfl
@[simp] theorem exec_pmaxFp16 {b a d} : exec (.pmaxFp16 b a d) s = execPmaxFp16 b a d s := rfl
@[simp] theorem exec_pdotFp16 {b a d} : exec (.pdotFp16 b a d) s = execPdotFp16 b a d s := rfl
@[simp] theorem exec_pshufFp16 {b a d} : exec (.pshufFp16 b a d) s = execPshufFp16 b a d s := rfl
@[simp] theorem exec_pcvtW32Fp16 {g a d} : exec (.pcvtW32Fp16 g a d) s = execPcvtW32Fp16 g a d s := rfl
@[simp] theorem exec_pcvtBf16Fp16 {g a d} : exec (.pcvtBf16Fp16 g a d) s = execPcvtBf16Fp16 g a d s := rfl
@[simp] theorem exec_pcvtI8Fp16 {g a d} : exec (.pcvtI8Fp16 g a d) s = execPcvtI8Fp16 g a d s := rfl
@[simp] theorem exec_pcvtI32Fp16 {g a d} : exec (.pcvtI32Fp16 g a d) s = execPcvtI32Fp16 g a d s := rfl
@[simp] theorem exec_paddI8 {b a d} : exec (.paddI8 b a d) s = execPaddI8 b a d s := rfl
@[simp] theorem exec_psubI8 {b a d} : exec (.psubI8 b a d) s = execPsubI8 b a d s := rfl
@[simp] theorem exec_pmulI8 {b a d} : exec (.pmulI8 b a d) s = execPmulI8 b a d s := rfl
@[simp] theorem exec_pfmaI8 {b a d} : exec (.pfmaI8 b a d) s = execPfmaI8 b a d s := rfl
@[simp] theorem exec_pminI8 {b a d} : exec (.pminI8 b a d) s = execPminI8 b a d s := rfl
@[simp] theorem exec_pmaxI8 {b a d} : exec (.pmaxI8 b a d) s = execPmaxI8 b a d s := rfl
@[simp] theorem exec_pdotI8 {b a d} : exec (.pdotI8 b a d) s = execPdotI8 b a d s := rfl
@[simp] theorem exec_pshufI8 {b a d} : exec (.pshufI8 b a d) s = execPshufI8 b a d s := rfl
@[simp] theorem exec_pcvtW32I8 {g a d} : exec (.pcvtW32I8 g a d) s = execPcvtW32I8 g a d s := rfl
@[simp] theorem exec_pcvtBf16I8 {g a d} : exec (.pcvtBf16I8 g a d) s = execPcvtBf16I8 g a d s := rfl
@[simp] theorem exec_pcvtFp16I8 {g a d} : exec (.pcvtFp16I8 g a d) s = execPcvtFp16I8 g a d s := rfl
@[simp] theorem exec_pcvtI32I8 {g a d} : exec (.pcvtI32I8 g a d) s = execPcvtI32I8 g a d s := rfl
@[simp] theorem exec_paddI32 {b a d} : exec (.paddI32 b a d) s = execPaddI32 b a d s := rfl
@[simp] theorem exec_psubI32 {b a d} : exec (.psubI32 b a d) s = execPsubI32 b a d s := rfl
@[simp] theorem exec_pmulI32 {b a d} : exec (.pmulI32 b a d) s = execPmulI32 b a d s := rfl
@[simp] theorem exec_pfmaI32 {b a d} : exec (.pfmaI32 b a d) s = execPfmaI32 b a d s := rfl
@[simp] theorem exec_pminI32 {b a d} : exec (.pminI32 b a d) s = execPminI32 b a d s := rfl
@[simp] theorem exec_pmaxI32 {b a d} : exec (.pmaxI32 b a d) s = execPmaxI32 b a d s := rfl
@[simp] theorem exec_pdotI32 {b a d} : exec (.pdotI32 b a d) s = execPdotI32 b a d s := rfl
@[simp] theorem exec_pshufI32 {b a d} : exec (.pshufI32 b a d) s = execPshufI32 b a d s := rfl
@[simp] theorem exec_pcvtW32I32 {g a d} : exec (.pcvtW32I32 g a d) s = execPcvtW32I32 g a d s := rfl
@[simp] theorem exec_pcvtBf16I32 {g a d} : exec (.pcvtBf16I32 g a d) s = execPcvtBf16I32 g a d s := rfl
@[simp] theorem exec_pcvtFp16I32 {g a d} : exec (.pcvtFp16I32 g a d) s = execPcvtFp16I32 g a d s := rfl
@[simp] theorem exec_pcvtI8I32 {g a d} : exec (.pcvtI8I32 g a d) s = execPcvtI8I32 g a d s := rfl
@[simp] theorem exec_addpc {imm d} : exec (.addpc imm d) s = execAddpc imm d s := rfl
@[simp] theorem exec_jalr {imm a d} : exec (.jalr imm a d) s = execJalr imm a d s := rfl
@[simp] theorem exec_loop {imm a} : exec (.loop imm a) s = execLoop imm a s := rfl
@[simp] theorem exec_nop : exec (.nop) s = execNop s := rfl
@[simp] theorem exec_yield : exec (.yield) s = execYield s := rfl
@[simp] theorem exec_halt : exec (.halt) s = execHalt s := rfl
@[simp] theorem exec_xret : exec (.xret) s = execXret s := rfl
@[simp] theorem exec_bkpt : exec (.bkpt) s = execBkpt s := rfl
@[simp] theorem exec_wfe : exec (.wfe) s = execWfe s := rfl
@[simp] theorem exec_perfrd {a d} : exec (.perfrd a d) s = execPerfrd a d s := rfl
@[simp] theorem exec_trap {imm} : exec (.trap imm) s = execTrap imm s := rfl
@[simp] theorem exec_sysrd {imm d} : exec (.sysrd imm d) s = execSysrd imm d s := rfl
@[simp] theorem exec_syswr {imm a} : exec (.syswr imm a) s = execSyswr imm a s := rfl
@[simp] theorem exec_enq {a d} : exec (.enq a d) s = execEnq a d s := rfl
@[simp] theorem exec_tdone {a} : exec (.tdone a) s = execTdone a s := rfl
@[simp] theorem exec_progress {a} : exec (.progress a) s = execProgress a s := rfl
@[simp] theorem exec_pushc {b a} : exec (.pushc b a) s = execPushc b a s := rfl
@[simp] theorem exec_popr {a d} : exec (.popr a d) s = execPopr a d s := rfl
@[simp] theorem exec_srbegin {a} : exec (.srbegin a) s = execSrbegin a s := rfl
@[simp] theorem exec_srend : exec (.srend) s = execSrend s := rfl
@[simp] theorem exec_repload {b a} : exec (.repload b a) s = execRepload b a s := rfl
@[simp] theorem exec_reprun {b a} : exec (.reprun b a) s = execReprun b a s := rfl
@[simp] theorem exec_repstop : exec (.repstop) s = execRepstop s := rfl
@[simp] theorem exec_send {a t e} : exec (.send a t e) s = execSend a t e s := rfl
@[simp] theorem exec_sendt {a t e} : exec (.sendt a t e) s = execSendt a t e s := rfl
@[simp] theorem exec_recv {a t e} : exec (.recv a t e) s = execRecv a t e s := rfl
@[simp] theorem exec_recvt {a t e} : exec (.recvt a t e) s = execRecvt a t e s := rfl
@[simp] theorem exec_offer {a e} : exec (.offer a e) s = execOffer a e s := rfl
@[simp] theorem exec_select {a t e} : exec (.select a t e) s = execSelect a t e s := rfl
@[simp] theorem exec_deleg {a e} : exec (.deleg a e) s = execDeleg a e s := rfl
@[simp] theorem exec_autload {a} : exec (.autload a) s = execAutload a s := rfl
@[simp] theorem exec_epopen {a e} : exec (.epopen a e) s = execEpopen a e s := rfl
@[simp] theorem exec_connect {a e} : exec (.connect a e) s = execConnect a e s := rfl
@[simp] theorem exec_accept {a e} : exec (.accept a e) s = execAccept a e s := rfl
@[simp] theorem exec_close {a e} : exec (.close a e) s = execClose a e s := rfl
@[simp] theorem exec_epstat {a e} : exec (.epstat a e) s = execEpstat a e s := rfl
@[simp] theorem exec_epfree {e} : exec (.epfree e) s = execEpfree e s := rfl
@[simp] theorem exec_msgvec {a t} : exec (.msgvec a t) s = execMsgvec a t s := rfl
@[simp] theorem exec_vadd {r t b a d} : exec (.vadd r t b a d) s = execVadd r t b a d s := rfl
@[simp] theorem exec_vsub {r t b a d} : exec (.vsub r t b a d) s = execVsub r t b a d s := rfl
@[simp] theorem exec_vmul {r t b a d} : exec (.vmul r t b a d) s = execVmul r t b a d s := rfl
@[simp] theorem exec_vfma {r t c b a d} : exec (.vfma r t c b a d) s = execVfma r t c b a d s := rfl
@[simp] theorem exec_vmin {r t b a d} : exec (.vmin r t b a d) s = execVmin r t b a d s := rfl
@[simp] theorem exec_vmax {r t b a d} : exec (.vmax r t b a d) s = execVmax r t b a d s := rfl
@[simp] theorem exec_vabs {r t a d} : exec (.vabs r t a d) s = execVabs r t a d s := rfl
@[simp] theorem exec_vneg {r t a d} : exec (.vneg r t a d) s = execVneg r t a d s := rfl
@[simp] theorem exec_vcpy {t a d} : exec (.vcpy t a d) s = execVcpy t a d s := rfl
@[simp] theorem exec_vfill {t a d} : exec (.vfill t a d) s = execVfill t a d s := rfl
@[simp] theorem exec_vclamp {r t c b a d} : exec (.vclamp r t c b a d) s = execVclamp r t c b a d s := rfl
@[simp] theorem exec_vscl {r t c b a d} : exec (.vscl r t c b a d) s = execVscl r t c b a d s := rfl
@[simp] theorem exec_vexp2 {r t a d} : exec (.vexp2 r t a d) s = execVexp2 r t a d s := rfl
@[simp] theorem exec_vlog2 {r t a d} : exec (.vlog2 r t a d) s = execVlog2 r t a d s := rfl
@[simp] theorem exec_vrcp {r t a d} : exec (.vrcp r t a d) s = execVrcp r t a d s := rfl
@[simp] theorem exec_vrsq {r t a d} : exec (.vrsq r t a d) s = execVrsq r t a d s := rfl
@[simp] theorem exec_vsqrt {r t a d} : exec (.vsqrt r t a d) s = execVsqrt r t a d s := rfl
@[simp] theorem exec_vtanh {r t a d} : exec (.vtanh r t a d) s = execVtanh r t a d s := rfl
@[simp] theorem exec_vsigm {r t a d} : exec (.vsigm r t a d) s = execVsigm r t a d s := rfl
@[simp] theorem exec_vrsum {r t a d} : exec (.vrsum r t a d) s = execVrsum r t a d s := rfl
@[simp] theorem exec_vrmax {r t a d} : exec (.vrmax r t a d) s = execVrmax r t a d s := rfl
@[simp] theorem exec_vrmin {r t a d} : exec (.vrmin r t a d) s = execVrmin r t a d s := rfl
@[simp] theorem exec_vscan {r t a d} : exec (.vscan r t a d) s = execVscan r t a d s := rfl
@[simp] theorem exec_vdot {r t b a d} : exec (.vdot r t b a d) s = execVdot r t b a d s := rfl
@[simp] theorem exec_vcount {r t a d} : exec (.vcount r t a d) s = execVcount r t a d s := rfl
@[simp] theorem exec_vcmpEq {r t b a d} : exec (.vcmpEq r t b a d) s = execVcmpEq r t b a d s := rfl
@[simp] theorem exec_vcmpNe {r t b a d} : exec (.vcmpNe r t b a d) s = execVcmpNe r t b a d s := rfl
@[simp] theorem exec_vcmpLt {r t b a d} : exec (.vcmpLt r t b a d) s = execVcmpLt r t b a d s := rfl
@[simp] theorem exec_vcmpLe {r t b a d} : exec (.vcmpLe r t b a d) s = execVcmpLe r t b a d s := rfl
@[simp] theorem exec_vcmpGt {r t b a d} : exec (.vcmpGt r t b a d) s = execVcmpGt r t b a d s := rfl
@[simp] theorem exec_vcmpGe {r t b a d} : exec (.vcmpGe r t b a d) s = execVcmpGe r t b a d s := rfl
@[simp] theorem exec_vsel {r t c b a d} : exec (.vsel r t c b a d) s = execVsel r t c b a d s := rfl
@[simp] theorem exec_vand {r t b a d} : exec (.vand r t b a d) s = execVand r t b a d s := rfl
@[simp] theorem exec_vor {r t b a d} : exec (.vor r t b a d) s = execVor r t b a d s := rfl
@[simp] theorem exec_vxor {r t b a d} : exec (.vxor r t b a d) s = execVxor r t b a d s := rfl
@[simp] theorem exec_vshl {r t b a d} : exec (.vshl r t b a d) s = execVshl r t b a d s := rfl
@[simp] theorem exec_vshr {r t b a d} : exec (.vshr r t b a d) s = execVshr r t b a d s := rfl
@[simp] theorem exec_vgath {t b a d} : exec (.vgath t b a d) s = execVgath t b a d s := rfl
@[simp] theorem exec_vscat {t b a d} : exec (.vscat t b a d) s = execVscat t b a d s := rfl
@[simp] theorem exec_vshuf {t b a d} : exec (.vshuf t b a d) s = execVshuf t b a d s := rfl
@[simp] theorem exec_viota {r t d} : exec (.viota r t d) s = execViota r t d s := rfl
@[simp] theorem exec_vcvt {r t a d} : exec (.vcvt r t a d) s = execVcvt r t a d s := rfl
@[simp] theorem exec_vqenc {r t c b a d} : exec (.vqenc r t c b a d) s = execVqenc r t c b a d s := rfl
@[simp] theorem exec_vqdec {r t c b a d} : exec (.vqdec r t c b a d) s = execVqdec r t c b a d s := rfl
@[simp] theorem exec_zbind {b a n} : exec (.zbind b a n) s = execZbind b a n s := rfl
@[simp] theorem exec_zbindc {b a n} : exec (.zbindc b a n) s = execZbindc b a n s := rfl
@[simp] theorem exec_zstat {n d} : exec (.zstat n d) s = execZstat n d s := rfl
@[simp] theorem exec_mset {a} : exec (.mset a) s = execMset a s := rfl
@[simp] theorem exec_mclr {n q} : exec (.mclr n q) s = execMclr n q s := rfl
@[simp] theorem exec_mload {c a q} : exec (.mload c a q) s = execMload c a q s := rfl
@[simp] theorem exec_mstat {a} : exec (.mstat a) s = execMstat a s := rfl
@[simp] theorem exec_mma {c z b a q} : exec (.mma c z b a q) s = execMma c z b a q s := rfl
@[simp] theorem exec_mmag {c z x b a q} : exec (.mmag c z x b a q) s = execMmag c z x b a q s := rfl
@[simp] theorem exec_mteam {c z b a q} : exec (.mteam c z b a q) s = execMteam c z b a q s := rfl
@[simp] theorem exec_mswap {b a} : exec (.mswap b a) s = execMswap b a s := rfl
@[simp] theorem exec_mldt {c a q} : exec (.mldt c a q) s = execMldt c a q s := rfl
@[simp] theorem exec_mepi {r p o g n b a q} : exec (.mepi r p o g n b a q) s = execMepi r p o g n b a q s := rfl
@[simp] theorem exec_cMov {a d} : exec (.cMov a d) s = execCMov a d s := rfl
@[simp] theorem exec_cAdd {a d} : exec (.cAdd a d) s = execCAdd a d s := rfl
@[simp] theorem exec_cSub {a d} : exec (.cSub a d) s = execCSub a d s := rfl
@[simp] theorem exec_cAnd {a d} : exec (.cAnd a d) s = execCAnd a d s := rfl
@[simp] theorem exec_cOr {a d} : exec (.cOr a d) s = execCOr a d s := rfl
@[simp] theorem exec_cXor {a d} : exec (.cXor a d) s = execCXor a d s := rfl
@[simp] theorem exec_cShl {a d} : exec (.cShl a d) s = execCShl a d s := rfl
@[simp] theorem exec_cShr {a d} : exec (.cShr a d) s = execCShr a d s := rfl
@[simp] theorem exec_cSar {a d} : exec (.cSar a d) s = execCSar a d s := rfl
@[simp] theorem exec_cAddi {imm d} : exec (.cAddi imm d) s = execCAddi imm d s := rfl
@[simp] theorem exec_cLi {imm d} : exec (.cLi imm d) s = execCLi imm d s := rfl
@[simp] theorem exec_cShli {n d} : exec (.cShli n d) s = execCShli n d s := rfl
@[simp] theorem exec_cShri {n d} : exec (.cShri n d) s = execCShri n d s := rfl
@[simp] theorem exec_cSari {n d} : exec (.cSari n d) s = execCSari n d s := rfl
@[simp] theorem exec_cAndi {imm d} : exec (.cAndi imm d) s = execCAndi imm d s := rfl
@[simp] theorem exec_cSlt {a d} : exec (.cSlt a d) s = execCSlt a d s := rfl
@[simp] theorem exec_cSeq {a d} : exec (.cSeq a d) s = execCSeq a d s := rfl
@[simp] theorem exec_cMin {a d} : exec (.cMin a d) s = execCMin a d s := rfl
@[simp] theorem exec_cMax {a d} : exec (.cMax a d) s = execCMax a d s := rfl
@[simp] theorem exec_cLd {a d} : exec (.cLd a d) s = execCLd a d s := rfl
@[simp] theorem exec_cSt {a d} : exec (.cSt a d) s = execCSt a d s := rfl
@[simp] theorem exec_cNeg {a d} : exec (.cNeg a d) s = execCNeg a d s := rfl
@[simp] theorem exec_cNot {a d} : exec (.cNot a d) s = execCNot a d s := rfl
@[simp] theorem exec_cBz {imm d} : exec (.cBz imm d) s = execCBz imm d s := rfl
@[simp] theorem exec_cBnz {imm d} : exec (.cBnz imm d) s = execCBnz imm d s := rfl
@[simp] theorem exec_cJ {imm} : exec (.cJ imm) s = execCJ imm s := rfl
@[simp] theorem exec_cJr {a} : exec (.cJr a) s = execCJr a s := rfl
@[simp] theorem exec_cNop : exec (.cNop) s = execCNop s := rfl
@[simp] theorem exec_cYield : exec (.cYield) s = execCYield s := rfl
@[simp] theorem exec_cFadd {a d} : exec (.cFadd a d) s = execCFadd a d s := rfl
@[simp] theorem exec_illegalEncoding {slot high} : exec (.illegalEncoding slot high) s = execIllegalEncoding slot high s := rfl
@[simp] theorem exec_softError {site} : exec (.softError site) s = execSoftError site s := rfl
@[simp] theorem exec_ethLinkDown {port} : exec (.ethLinkDown port) s = execEthLinkDown port s := rfl
@[simp] theorem exec_towlineMooredReceive {session} : exec (.towlineMooredReceive session) s = execTowlineMooredReceive session s := rfl

end Sys2Proof.Machine
end

