-- ==== Sys2Proof/Laws/Decode.lean ====
section
/-! SUPPORT. Fields of a code put together with ++: a field that lies in one part of the code is that part's field. -/

namespace Sys2Proof

/-- A field above the lower part is a field of the upper part. -/
theorem extract_append_hi {m n k : Nat} (x : BitVec m) (y : BitVec n) (lo : Nat) (h : n ≤ lo) :
    (x ++ y).extractLsb' lo k = x.extractLsb' (lo - n) k := by
  ext i hi
  simp only [BitVec.getElem_extractLsb', BitVec.getLsbD_append]
  rw [if_neg (by omega)]; congr 1; omega

/-- A field inside the lower part is a field of the lower part. -/
theorem extract_append_lo {m n k : Nat} (x : BitVec m) (y : BitVec n) (lo : Nat) (h : lo + k ≤ n) :
    (x ++ y).extractLsb' lo k = y.extractLsb' lo k := by
  ext i hi
  simp only [BitVec.getElem_extractLsb', BitVec.getLsbD_append]
  rw [if_pos (by omega)]

/-- A part as wide as its field is its field. -/
theorem extract_whole {n : Nat} (x : BitVec n) : x.extractLsb' 0 n = x := by
  ext i hi; simp

end Sys2Proof
end

