-- ==== Sys2Proof/Laws/Memory.lean ====
section
/-! SUPPORT. The laws of memory: what is read after a write, and that every operation keeps the canonical form. -/

namespace Sys2Proof.Machine

/-! ## Cells -/

/-- A cell reads as it was set. -/
@[simp] theorem cellGet_cellSet_same (m : List Host.Cell) (k : Nat) (v : BitVec 8) : cellGet (cellSet m k v) k = v := by
  induction m with
  | nil => by_cases h : v = 0#8 <;> simp [cellSet, cellGet, h]
  | cons c r ih =>
    obtain ⟨a, b⟩ := c
    by_cases hv : v = 0#8
    · subst hv
      by_cases ha : a = k
      · simpa [cellSet, ha] using ih
      · simpa [cellSet, cellGet, ha] using ih
    · by_cases h1 : k < a
      · simp [cellSet, cellGet, hv, h1]
      · by_cases h2 : k = a
        · simp [cellSet, cellGet, hv, h2]
        · simpa [cellSet, cellGet, hv, h1, h2, Ne.symm h2] using ih

/-- The other cells keep their values. -/
theorem cellGet_cellSet_other (m : List Host.Cell) {j k : Nat} (v : BitVec 8) (h : j ≠ k) :
    cellGet (cellSet m k v) j = cellGet m j := by
  induction m with
  | nil => by_cases hv : v = 0#8 <;> simp [cellSet, cellGet, hv, Ne.symm h]
  | cons c r ih =>
    obtain ⟨a, b⟩ := c
    by_cases hv : v = 0#8
    · subst hv
      by_cases ha : a = k
      · subst ha
        simpa [cellSet, cellGet, Ne.symm h] using ih
      · simp [cellSet, cellGet, ha, ih]
    · by_cases h1 : k < a
      · simp [cellSet, cellGet, hv, h1, Ne.symm h]
      · by_cases h2 : k = a
        · subst h2; simp [cellSet, cellGet, hv, Ne.symm h]
        · simp [cellSet, cellGet, hv, h1, h2, ih]

/-- A write read back anywhere. -/
theorem cellGet_cellSet (m : List Host.Cell) (j k : Nat) (v : BitVec 8) :
    cellGet (cellSet m k v) j = if j = k then v else cellGet m j := by
  by_cases h : j = k
  · simp [h]
  · rw [cellGet_cellSet_other m v h, if_neg h]

theorem cellsFrom_mono {m : List Host.Cell} {lo hi : Nat} (h : cellsFrom hi m = true) (hl : lo ≤ hi) :
    cellsFrom lo m = true := by
  cases m with
  | nil => rfl
  | cons c r =>
    simp only [cellsFrom, Bool.and_eq_true, decide_eq_true_eq] at h ⊢
    exact ⟨⟨Nat.le_trans hl h.1.1, h.1.2⟩, h.2⟩

/-- A cell removed keeps the form from any bound on. -/
theorem cellsFrom_cellSet_zero {m : List Host.Cell} {lo : Nat} (k : Nat) (h : cellsFrom lo m = true) :
    cellsFrom lo (cellSet m k 0#8) = true := by
  induction m generalizing lo with
  | nil => rfl
  | cons c r ih =>
    obtain ⟨a, b⟩ := c
    simp only [cellsFrom, Bool.and_eq_true, decide_eq_true_eq] at h
    obtain ⟨⟨h1, h2⟩, h3⟩ := h
    by_cases ha : a = k
    · subst ha; simpa [cellSet] using cellsFrom_mono (ih h3) (by omega)
    · simp only [cellSet, if_neg ha, if_true, cellsFrom, Bool.and_eq_true, decide_eq_true_eq]
      exact ⟨⟨h1, h2⟩, ih h3⟩

/-- A cell set at or above a bound keeps the form from that bound on. -/
theorem cellsFrom_cellSet {m : List Host.Cell} {lo : Nat} (k : Nat) (v : BitVec 8) (h : cellsFrom lo m = true)
    (hk : lo ≤ k) : cellsFrom lo (cellSet m k v) = true := by
  by_cases hv : v = 0#8
  · subst hv; exact cellsFrom_cellSet_zero k h
  · induction m generalizing lo with
    | nil => simpa [cellSet, cellsFrom, hv] using hk
    | cons c r ih =>
      obtain ⟨a, b⟩ := c
      simp only [cellsFrom, Bool.and_eq_true, decide_eq_true_eq] at h
      obtain ⟨⟨h1, h2⟩, h3⟩ := h
      by_cases h4 : k < a
      · simp only [cellSet, hv, h4, if_true, if_false, cellsFrom, Bool.and_eq_true, decide_eq_true_eq]
        exact ⟨⟨hk, by simpa using hv⟩, ⟨by omega, h2⟩, h3⟩
      · by_cases h5 : k = a
        · subst h5; simp [cellSet, hv, cellsFrom, h3, hk]
        · simp only [cellSet, hv, h4, h5, if_false, cellsFrom, Bool.and_eq_true, decide_eq_true_eq]
          exact ⟨⟨h1, h2⟩, ih h3 (by omega)⟩

/-- A cell set keeps the canonical form. -/
theorem cellsWf_cellSet {m : List Host.Cell} (k : Nat) (v : BitVec 8) (h : cellsWf m = true) :
    cellsWf (cellSet m k v) = true := cellsFrom_cellSet k v h (Nat.zero_le k)

/-- Cells left out keep the form. -/
theorem cellsFrom_filter {m : List Host.Cell} {lo : Nat} (p : Host.Cell → Bool) (h : cellsFrom lo m = true) :
    cellsFrom lo (m.filter p) = true := by
  induction m generalizing lo with
  | nil => rfl
  | cons c r ih =>
    obtain ⟨a, b⟩ := c
    simp only [cellsFrom, Bool.and_eq_true, decide_eq_true_eq] at h
    obtain ⟨⟨h1, h2⟩, h3⟩ := h
    by_cases hp : p (a, b) = true
    · simp only [List.filter_cons_of_pos hp, cellsFrom, Bool.and_eq_true, decide_eq_true_eq]
      exact ⟨⟨h1, h2⟩, ih h3⟩
    · simpa [List.filter_cons_of_neg hp] using cellsFrom_mono (ih h3) (by omega)

theorem cellsWf_filter {m : List Host.Cell} (p : Host.Cell → Bool) (h : cellsWf m = true) : cellsWf (m.filter p) = true :=
  cellsFrom_filter p h

/-! ## Bytes -/

/-- Bytes below or above those written keep their values. -/
theorem cellGet_putBytes_other (bs : List Byte) : ∀ (m : List Host.Cell) (pa : Nat) {a : Nat}, (a < pa ∨ pa + bs.length ≤ a) →
    cellGet (putBytes m pa bs) a = cellGet m a := by
  induction bs with
  | nil => intro m pa a _; rfl
  | cons b r ih =>
    intro m pa a h
    simp only [List.length_cons] at h
    rw [putBytes, ih _ _ (by omega), cellGet_cellSet_other m b (by omega)]

/-- Byte i of those written reads as it was written. -/
theorem cellGet_putBytes_same (bs : List Byte) : ∀ (m : List Host.Cell) (pa i : Nat) (h : i < bs.length),
    cellGet (putBytes m pa bs) (pa + i) = bs[i] := by
  induction bs with
  | nil => intro m pa i h; simp at h
  | cons b r ih =>
    intro m pa i h
    cases i with
    | zero => simp [putBytes, cellGet_putBytes_other r _ (pa + 1) (a := pa) (Or.inl (by omega))]
    | succ j =>
      have := ih (cellSet m pa b) (pa + 1) j (by simpa using h)
      simpa [putBytes, Nat.add_assoc, Nat.add_comm 1 j] using this

/-- n bytes read are the cells in their order. -/
theorem readBytes_eq (s : State) (n : Nat) : ∀ pa, readBytes s pa n = (List.range n).map fun i => cellGet s.mem (pa + i) := by
  induction n with
  | zero => intro pa; rfl
  | succ n ih =>
    intro pa
    rw [readBytes, ih, List.range_succ_eq_map, List.map_cons, List.map_map]
    simp [Function.comp_def, Nat.add_assoc, Nat.add_comm 1]

@[simp] theorem readBytes_length (s : State) (pa n : Nat) : (readBytes s pa n).length = n := by simp [readBytes_eq]

theorem readBytes_congr {s t : State} {pa n : Nat} (h : ∀ i < n, cellGet t.mem (pa + i) = cellGet s.mem (pa + i)) :
    readBytes t pa n = readBytes s pa n := by
  simp only [readBytes_eq]
  exact List.map_congr_left fun i hi => h i (List.mem_range.mp hi)

theorem readBytes_of_mem {s t : State} (h : t.mem = s.mem) (pa n : Nat) : readBytes t pa n = readBytes s pa n :=
  readBytes_congr fun i _ => by rw [h]

/-- What has been written is read back. -/
@[simp] theorem readBytes_writeBytes_same (s : State) (pa : Nat) (bs : List Byte) (b : Bool) :
    readBytes (writeBytes s pa bs b) pa bs.length = bs := by
  rw [readBytes_eq]
  apply List.ext_getElem
  · simp
  · intro i h1 h2
    simp only [List.getElem_map, List.getElem_range]
    exact cellGet_putBytes_same bs s.mem pa i h2

/-- Bytes beside those written are read as before. -/
theorem readBytes_writeBytes_other (s : State) (pa : Nat) (bs : List Byte) (b : Bool) {a n : Nat}
    (h : a + n ≤ pa ∨ pa + bs.length ≤ a) : readBytes (writeBytes s pa bs b) a n = readBytes s a n :=
  readBytes_congr fun i hi => cellGet_putBytes_other bs s.mem pa (by omega)

@[simp] theorem leBytes_length (n : Nat) : ∀ v, (leBytes n v).length = n := by
  induction n with
  | zero => intro v; rfl
  | succ n ih => intro v; simp [leBytes, ih]

/-- A number comes back from its bytes, modulo their range. -/
@[simp] theorem leNat_leBytes (n : Nat) : ∀ v, leNat (leBytes n v) = v % 256 ^ n := by
  induction n with
  | zero => intro v; simp [leBytes, leNat, Nat.mod_one]
  | succ n ih =>
    intro v
    simp only [leBytes, leNat, ih, BitVec.toNat_ofNat]
    have h : (256 : Nat) ^ (n + 1) = 256 * 256 ^ n := by rw [Nat.pow_succ, Nat.mul_comm]
    rw [h, Nat.mod_mul]

/-- A word written is read back. -/
@[simp] theorem readWord_writeWord_same (s : State) (pa : Nat) (w : Word) : readWord (writeWord s pa w) pa = w := by
  have h := readBytes_writeBytes_same s pa (leBytes 8 w.toNat) false
  rw [leBytes_length] at h
  have hw := w.isLt
  rw [readWord, writeWord, h, leNat_leBytes, Nat.mod_eq_of_lt (by simpa using hw), BitVec.ofNat_toNat]
  simp

/-- A write of bytes changes memory alone. -/
theorem writeBytes_eq (s : State) (pa : Nat) (bs : List Byte) (b : Bool) : writeBytes s pa bs b =
    { s with mem := (writeBytes s pa bs b).mem, bits := (writeBytes s pa bs b).bits, err := (writeBytes s pa bs b).err } := rfl

@[simp] theorem writeBytes_regs (s : State) (pa : Nat) (bs : List Byte) (b : Bool) : (writeBytes s pa bs b).regs = s.regs := rfl
@[simp] theorem writeBytes_threads (s : State) (pa : Nat) (bs : List Byte) (b : Bool) :
    (writeBytes s pa bs b).threads = s.threads := rfl
@[simp] theorem writeBytes_eps (s : State) (pa : Nat) (bs : List Byte) (b : Bool) : (writeBytes s pa bs b).eps = s.eps := rfl
@[simp] theorem setFull_mem (s : State) (pa : Nat) (b : Bool) : (setFull s pa b).mem = s.mem := rfl

/-- The full/empty bit of a word reads as it was set. -/
@[simp] theorem isFull_setFull_same (s : State) (pa : Nat) (b : Bool) : isFull (setFull s pa b) pa = b := by
  cases b <;> simp [isFull, setFull, wordBits]

/-- The full/empty bits of other words are as they were. -/
theorem isFull_setFull_other (s : State) {pa a : Nat} (b : Bool) (h : a / 8 ≠ pa / 8) :
    isFull (setFull s pa b) a = isFull s a := by
  simp [isFull, setFull, wordBits, cellGet_cellSet_other _ _ h]

/-! ## The canonical form is kept -/

theorem cellsWf_putBytes (bs : List Byte) : ∀ (m : List Host.Cell) (pa : Nat), cellsWf m = true →
    cellsWf (putBytes m pa bs) = true := by
  induction bs with
  | nil => intro m pa h; exact h
  | cons b r ih => intro m pa h; exact ih _ _ (cellsWf_cellSet pa b h)

theorem cellsWf_putTag {m : List Host.Cell} (pa : Nat) (b : Bool) (h : cellsWf m = true) : cellsWf (putTag m pa b) = true :=
  cellsWf_cellSet _ _ h

theorem cellsWf_clearTags (n : Nat) : ∀ (m : List Host.Cell) (pa : Nat), cellsWf m = true → cellsWf (clearTags m pa n) = true := by
  induction n with
  | zero => intro m pa h; exact h
  | succ n ih => intro m pa h; exact ih _ _ (cellsWf_putTag pa false h)

theorem cellsWf_putTags (bs : List Bool) : ∀ (m : List Host.Cell) (pa : Nat), cellsWf m = true → cellsWf (putTags m pa bs) = true := by
  induction bs with
  | nil => intro m pa h; exact h
  | cons b r ih => intro m pa h; exact ih _ _ (cellsWf_putTag pa b h)

theorem cellsWf_healUnits (k : Nat) : ∀ (m : List Host.Cell) (pa n : Nat), cellsWf m = true → cellsWf (healUnits m pa n k) = true := by
  induction k with
  | zero => intro m pa n h; exact h
  | succ k ih =>
    intro m pa n h
    rw [healUnits]
    split
    · exact ih _ _ _ (cellsWf_cellSet _ _ h)
    · exact ih _ _ _ h

theorem cellsWf_putCells (scale x y : Nat) (l : List ((CreelId × Nat) × Byte)) : ∀ m : List Host.Cell, cellsWf m = true →
    cellsWf (putCells m scale x y l) = true := by
  induction l with
  | nil => intro m h; exact h
  | cons e r ih => intro m h; exact ih _ (cellsWf_cellSet _ _ h)

theorem cellsWf_dropAbove {m : List Host.Cell} (scale base size top : Nat) (h : cellsWf m = true) :
    cellsWf (dropAbove m scale base size top) = true := cellsWf_filter _ h

theorem inv_iff (s : State) : Memory.wf s = true ↔ cellsWf s.mem = true ∧ cellsWf s.bits = true ∧ cellsWf s.err = true := by
  simp [Memory.wf, and_assoc]

/-- The form of a state's memory lies in its memory alone. -/
theorem wf_congr {s t : State} (h1 : t.mem = s.mem) (h2 : t.bits = s.bits) (h3 : t.err = s.err) : Memory.wf t = Memory.wf s := by
  simp [Memory.wf, h1, h2, h3]

theorem wf_writeBytes {s : State} (pa : Nat) (bs : List Byte) (b : Bool) (h : Memory.wf s = true) :
    Memory.wf (writeBytes s pa bs b) = true := by
  rw [inv_iff] at h ⊢
  obtain ⟨h1, h2, h3⟩ := h
  refine ⟨cellsWf_putBytes bs _ pa h1, ?_, cellsWf_healUnits _ _ pa _ h3⟩
  simp only [writeBytes]
  split
  · exact cellsWf_putTag pa true (cellsWf_clearTags _ _ pa h2)
  · exact cellsWf_clearTags _ _ pa h2

theorem wf_writeWord {s : State} (pa : Nat) (w : Word) (h : Memory.wf s = true) : Memory.wf (writeWord s pa w) = true :=
  wf_writeBytes pa _ false h

theorem wf_setFull {s : State} (pa : Nat) (b : Bool) (h : Memory.wf s = true) : Memory.wf (setFull s pa b) = true := by
  rw [inv_iff] at h ⊢
  exact ⟨h.1, cellsWf_cellSet _ _ h.2.1, h.2.2⟩

theorem wf_copyCells (n : Nat) : ∀ (s : State) (src dst : Nat), Memory.wf s = true → Memory.wf (copyCells s src dst n) = true := by
  induction n with
  | zero => intro s src dst h; exact h
  | succ n ih =>
    intro s src dst h
    refine ih _ _ _ ?_
    rw [inv_iff] at h ⊢
    obtain ⟨h1, h2, h3⟩ := h
    refine ⟨cellsWf_cellSet _ _ h1, ?_, ?_⟩
    · show cellsWf (if src % 8 = 0 then _ else _) = true
      split
      · exact cellsWf_cellSet _ _ h2
      · exact h2
    · show cellsWf (if src % 32 = 0 then _ else _) = true
      split
      · exact cellsWf_cellSet _ _ h3
      · exact h3

/-- A fold of operations that keep the form keeps it. -/
theorem wf_foldl {α : Type} (f : State → α → State) (hf : ∀ s a, Memory.wf s = true → Memory.wf (f s a) = true) (l : List α) :
    ∀ s, Memory.wf s = true → Memory.wf (l.foldl f s) = true := by
  induction l with
  | nil => intro s h; exact h
  | cons a r ih => intro s h; exact ih _ (hf s a h)

theorem wf_mirror {s : State} (pa n : Nat) (h : Memory.wf s = true) : Memory.wf (mirror s pa n) = true := by
  refine wf_foldl _ (fun s m h => ?_) _ _ h
  dsimp only
  split
  · exact wf_copyCells _ _ _ _ h
  · exact h

theorem wf_dropPositions {s : State} (base size top : Nat) (h : Memory.wf s = true) :
    Memory.wf (dropPositions s base size top) = true := by
  rw [inv_iff] at h ⊢
  exact ⟨cellsWf_dropAbove _ _ _ _ h.1, cellsWf_dropAbove _ _ _ _ h.2.1, cellsWf_dropAbove _ _ _ _ h.2.2⟩

/-- Tags cleared keep the form. -/
theorem cellsFrom_clearQuarters (p : Nat → Bool) {m : List Host.Cell} {lo : Nat} (h : cellsFrom lo m = true) :
    cellsFrom lo (clearQuarters p m) = true := by
  unfold clearQuarters
  induction m generalizing lo with
  | nil => rfl
  | cons c r ih =>
    obtain ⟨a, b⟩ := c
    simp only [cellsFrom, Bool.and_eq_true, decide_eq_true_eq] at h
    obtain ⟨⟨h1, h2⟩, h3⟩ := h
    have hr := ih h3
    have skip := cellsFrom_mono hr (show lo ≤ a + 1 by omega)
    by_cases hp : p a = true
    · by_cases hv : b &&& 0x10 = 0#8
      · simp only [List.map_cons, hp, if_true]
        rw [List.filter_cons_of_neg (by simpa using hv)]
        exact skip
      · simp only [List.map_cons, hp, if_true]
        rw [List.filter_cons_of_pos (by simpa using hv)]
        simp only [cellsFrom, Bool.and_eq_true, decide_eq_true_eq]
        exact ⟨⟨h1, hv⟩, hr⟩
    · simp only [List.map_cons, hp]
      rw [if_neg (by simp), List.filter_cons_of_pos (by simpa using h2)]
      simp only [cellsFrom, Bool.and_eq_true, decide_eq_true_eq]
      exact ⟨⟨h1, h2⟩, hr⟩

theorem cellsWf_foldl {α : Type} (f : List Host.Cell → α → List Host.Cell) (hf : ∀ m a, cellsWf m = true → cellsWf (f m a) = true)
    (l : List α) : ∀ m, cellsWf m = true → cellsWf (l.foldl f m) = true := by
  induction l with
  | nil => intro m h; exact h
  | cons a r ih => intro m h; exact ih _ (hf m a h)

/-- An image written keeps the form (R116). -/
theorem wf_writeImage {s cur : State} (k : Option TeamKey) (a : Nat) (parts : List ImagePart) (h : Memory.wf cur = true) :
    Memory.wf (writeImage s cur k a parts) = true := by
  rw [writeImage]
  split
  · rw [inv_iff] at h ⊢
    exact ⟨cellsWf_foldl _ (fun m _ hm => cellsWf_cellSet _ _ hm) _ _ (cellsWf_filter _ h.1),
      cellsWf_foldl _ (fun m _ hm => cellsWf_putTag _ _ hm) _ _ (cellsFrom_clearQuarters _ h.2.1), cellsWf_filter _ h.2.2⟩
  · exact h

/-- Memory right after reset lists nothing, and has its form. -/
theorem wf_reset : Memory.wf State.reset = true := rfl

end Sys2Proof.Machine
end

