-- ==== Sys2Proof/Laws/State.lean ====
section
/-! SUPPORT. The finite maps, and what each named update of the state leaves as it was: one lemma a field and an update. -/

namespace Sys2Proof.Machine

namespace SMap

variable {κ α : Type} [DecidableEq κ]

@[simp] theorem find_nil (k : κ) : SMap.find ([] : SMap κ α) k = none := rfl

theorem find_cons (k' k : κ) (v : α) (r : SMap κ α) :
    SMap.find ((k', v) :: r) k = if k' = k then some v else SMap.find r k := rfl

/-- A value put is found under its key, and no other key is touched. -/
@[simp] theorem find_put (m : SMap κ α) (k k' : κ) (v : α) :
    (SMap.put m k v).find k' = if k = k' then some v else SMap.find m k' := by
  induction m with
  | nil => rfl
  | cons e r ih =>
    obtain ⟨a, w⟩ := e
    by_cases h : a = k
    · subst h
      simp only [SMap.put, if_true, find_cons]
      split <;> rfl
    · simp only [SMap.put, if_neg h, find_cons, ih]
      by_cases h2 : a = k'
      · subst h2; simp [Ne.symm h]
      · simp [h2]

theorem find_put_same (m : SMap κ α) (k : κ) (v : α) : (SMap.put m k v).find k = some v := by simp

theorem find_put_other (m : SMap κ α) (k k' : κ) (v : α) (h : k ≠ k') : (SMap.put m k v).find k' = SMap.find m k' := by
  simp [h]

@[simp] theorem get_put (m : SMap κ α) (k k' : κ) (v d : α) :
    (SMap.put m k v).get k' d = if k = k' then v else SMap.get m k' d := by
  unfold SMap.get
  rw [find_put]
  split <;> rfl

/-- A deleted key is gone, and no other key is touched. -/
@[simp] theorem find_del (m : SMap κ α) (k k' : κ) :
    (SMap.del m k).find k' = if k = k' then none else SMap.find m k' := by
  induction m with
  | nil => simp [SMap.del, find_nil]
  | cons e r ih =>
    obtain ⟨a, w⟩ := e
    simp only [SMap.del]
    by_cases h : a = k
    · subst h
      simp only [if_true, ih, find_cons]
      split <;> simp_all
    · simp only [if_neg h, find_cons, ih]
      by_cases h2 : a = k'
      · subst h2; simp [Ne.symm h]
      · simp [h2]

end SMap

variable (s : State)

/-! ### modCore -/

@[simp] theorem modCore_cyc (c : CoreId) (f : CoreSt → CoreSt) : (modCore s c f).cyc = s.cyc := rfl
@[simp] theorem modCore_inputs (c : CoreId) (f : CoreSt → CoreSt) : (modCore s c f).inputs = s.inputs := rfl
@[simp] theorem modCore_agenda (c : CoreId) (f : CoreSt → CoreSt) : (modCore s c f).agenda = s.agenda := rfl
@[simp] theorem modCore_turn (c : CoreId) (f : CoreSt → CoreSt) : (modCore s c f).turn = s.turn := rfl
@[simp] theorem modCore_hand (c : CoreId) (f : CoreSt → CoreSt) : (modCore s c f).hand = s.hand := rfl
@[simp] theorem modCore_cur (c : CoreId) (f : CoreSt → CoreSt) : (modCore s c f).cur = s.cur := rfl
@[simp] theorem modCore_word (c : CoreId) (f : CoreSt → CoreSt) : (modCore s c f).word = s.word := rfl
@[simp] theorem modCore_high (c : CoreId) (f : CoreSt → CoreSt) : (modCore s c f).high = s.high := rfl
@[simp] theorem modCore_again (c : CoreId) (f : CoreSt → CoreSt) : (modCore s c f).again = s.again := rfl
@[simp] theorem modCore_buffered (c : CoreId) (f : CoreSt → CoreSt) : (modCore s c f).buffered = s.buffered := rfl
@[simp] theorem modCore_free (c : CoreId) (f : CoreSt → CoreSt) : (modCore s c f).free = s.free := rfl
@[simp] theorem modCore_token (c : CoreId) (f : CoreSt → CoreSt) : (modCore s c f).token = s.token := rfl
@[simp] theorem modCore_out (c : CoreId) (f : CoreSt → CoreSt) : (modCore s c f).out = s.out := rfl
@[simp] theorem modCore_mem (c : CoreId) (f : CoreSt → CoreSt) : (modCore s c f).mem = s.mem := rfl
@[simp] theorem modCore_bits (c : CoreId) (f : CoreSt → CoreSt) : (modCore s c f).bits = s.bits := rfl
@[simp] theorem modCore_err (c : CoreId) (f : CoreSt → CoreSt) : (modCore s c f).err = s.err := rfl
@[simp] theorem modCore_regs (c : CoreId) (f : CoreSt → CoreSt) : (modCore s c f).regs = s.regs := rfl
@[simp] theorem modCore_threads (c : CoreId) (f : CoreSt → CoreSt) : (modCore s c f).threads = s.threads := rfl
@[simp] theorem modCore_eps (c : CoreId) (f : CoreSt → CoreSt) : (modCore s c f).eps = s.eps := rfl
@[simp] theorem modCore_creels (c : CoreId) (f : CoreSt → CoreSt) : (modCore s c f).creels = s.creels := rfl
@[simp] theorem modCore_teams (c : CoreId) (f : CoreSt → CoreSt) : (modCore s c f).teams = s.teams := rfl
@[simp] theorem modCore_dieRegs (c : CoreId) (f : CoreSt → CoreSt) : (modCore s c f).dieRegs = s.dieRegs := rfl
@[simp] theorem modCore_walks (c : CoreId) (f : CoreSt → CoreSt) : (modCore s c f).walks = s.walks := rfl
@[simp] theorem modCore_waiters (c : CoreId) (f : CoreSt → CoreSt) : (modCore s c f).waiters = s.waiters := rfl
@[simp] theorem modCore_frameVer (c : CoreId) (f : CoreSt → CoreSt) : (modCore s c f).frameVer = s.frameVer := rfl
@[simp] theorem modCore_wall (c : CoreId) (f : CoreSt → CoreSt) : (modCore s c f).wall = s.wall := rfl
@[simp] theorem modCore_wallAgenda (c : CoreId) (f : CoreSt → CoreSt) : (modCore s c f).wallAgenda = s.wallAgenda := rfl
@[simp] theorem modCore_power (c : CoreId) (f : CoreSt → CoreSt) : (modCore s c f).power = s.power := rfl
@[simp] theorem modCore_nv (c : CoreId) (f : CoreSt → CoreSt) : (modCore s c f).nv = s.nv := rfl
@[simp] theorem modCore_sessions (c : CoreId) (f : CoreSt → CoreSt) : (modCore s c f).sessions = s.sessions := rfl
@[simp] theorem modCore_notices (c : CoreId) (f : CoreSt → CoreSt) : (modCore s c f).notices = s.notices := rfl
@[simp] theorem modCore_convs (c : CoreId) (f : CoreSt → CoreSt) : (modCore s c f).convs = s.convs := rfl
@[simp] theorem modCore_launches (c : CoreId) (f : CoreSt → CoreSt) : (modCore s c f).launches = s.launches := rfl
@[simp] theorem modCore_pending (c : CoreId) (f : CoreSt → CoreSt) : (modCore s c f).pending = s.pending := rfl
@[simp] theorem modCore_images (c : CoreId) (f : CoreSt → CoreSt) : (modCore s c f).images = s.images := rfl
@[simp] theorem modCore_tsd (c : CoreId) (f : CoreSt → CoreSt) : (modCore s c f).tsd = s.tsd := rfl
@[simp] theorem modCore_moves (c : CoreId) (f : CoreSt → CoreSt) : (modCore s c f).moves = s.moves := rfl
@[simp] theorem modCore_fwu (c : CoreId) (f : CoreSt → CoreSt) : (modCore s c f).fwu = s.fwu := rfl
@[simp] theorem modCore_boot (c : CoreId) (f : CoreSt → CoreSt) : (modCore s c f).boot = s.boot := rfl
@[simp] theorem modCore_edges (c : CoreId) (f : CoreSt → CoreSt) : (modCore s c f).edges = s.edges := rfl
@[simp] theorem modCore_fences (c : CoreId) (f : CoreSt → CoreSt) : (modCore s c f).fences = s.fences := rfl
@[simp] theorem modCore_late (c : CoreId) (f : CoreSt → CoreSt) : (modCore s c f).late = s.late := rfl
@[simp] theorem modCore_sampled (c : CoreId) (f : CoreSt → CoreSt) : (modCore s c f).sampled = s.sampled := rfl
@[simp] theorem modCore_served (c : CoreId) (f : CoreSt → CoreSt) : (modCore s c f).served = s.served := rfl
@[simp] theorem modCore_tried (c : CoreId) (f : CoreSt → CoreSt) : (modCore s c f).tried = s.tried := rfl
@[simp] theorem modCore_moorage (c : CoreId) (f : CoreSt → CoreSt) : (modCore s c f).moorage = s.moorage := rfl
@[simp] theorem modCore_maskGated (c : CoreId) (f : CoreSt → CoreSt) : (modCore s c f).maskGated = s.maskGated := rfl

/-! ### modCreel -/

@[simp] theorem modCreel_cyc (k : CreelId) (f : CreelSt → CreelSt) : (modCreel s k f).cyc = s.cyc := rfl
@[simp] theorem modCreel_inputs (k : CreelId) (f : CreelSt → CreelSt) : (modCreel s k f).inputs = s.inputs := rfl
@[simp] theorem modCreel_agenda (k : CreelId) (f : CreelSt → CreelSt) : (modCreel s k f).agenda = s.agenda := rfl
@[simp] theorem modCreel_turn (k : CreelId) (f : CreelSt → CreelSt) : (modCreel s k f).turn = s.turn := rfl
@[simp] theorem modCreel_hand (k : CreelId) (f : CreelSt → CreelSt) : (modCreel s k f).hand = s.hand := rfl
@[simp] theorem modCreel_cur (k : CreelId) (f : CreelSt → CreelSt) : (modCreel s k f).cur = s.cur := rfl
@[simp] theorem modCreel_word (k : CreelId) (f : CreelSt → CreelSt) : (modCreel s k f).word = s.word := rfl
@[simp] theorem modCreel_high (k : CreelId) (f : CreelSt → CreelSt) : (modCreel s k f).high = s.high := rfl
@[simp] theorem modCreel_again (k : CreelId) (f : CreelSt → CreelSt) : (modCreel s k f).again = s.again := rfl
@[simp] theorem modCreel_buffered (k : CreelId) (f : CreelSt → CreelSt) : (modCreel s k f).buffered = s.buffered := rfl
@[simp] theorem modCreel_free (k : CreelId) (f : CreelSt → CreelSt) : (modCreel s k f).free = s.free := rfl
@[simp] theorem modCreel_token (k : CreelId) (f : CreelSt → CreelSt) : (modCreel s k f).token = s.token := rfl
@[simp] theorem modCreel_out (k : CreelId) (f : CreelSt → CreelSt) : (modCreel s k f).out = s.out := rfl
@[simp] theorem modCreel_mem (k : CreelId) (f : CreelSt → CreelSt) : (modCreel s k f).mem = s.mem := rfl
@[simp] theorem modCreel_bits (k : CreelId) (f : CreelSt → CreelSt) : (modCreel s k f).bits = s.bits := rfl
@[simp] theorem modCreel_err (k : CreelId) (f : CreelSt → CreelSt) : (modCreel s k f).err = s.err := rfl
@[simp] theorem modCreel_regs (k : CreelId) (f : CreelSt → CreelSt) : (modCreel s k f).regs = s.regs := rfl
@[simp] theorem modCreel_threads (k : CreelId) (f : CreelSt → CreelSt) : (modCreel s k f).threads = s.threads := rfl
@[simp] theorem modCreel_eps (k : CreelId) (f : CreelSt → CreelSt) : (modCreel s k f).eps = s.eps := rfl
@[simp] theorem modCreel_cores (k : CreelId) (f : CreelSt → CreelSt) : (modCreel s k f).cores = s.cores := rfl
@[simp] theorem modCreel_teams (k : CreelId) (f : CreelSt → CreelSt) : (modCreel s k f).teams = s.teams := rfl
@[simp] theorem modCreel_dieRegs (k : CreelId) (f : CreelSt → CreelSt) : (modCreel s k f).dieRegs = s.dieRegs := rfl
@[simp] theorem modCreel_walks (k : CreelId) (f : CreelSt → CreelSt) : (modCreel s k f).walks = s.walks := rfl
@[simp] theorem modCreel_waiters (k : CreelId) (f : CreelSt → CreelSt) : (modCreel s k f).waiters = s.waiters := rfl
@[simp] theorem modCreel_frameVer (k : CreelId) (f : CreelSt → CreelSt) : (modCreel s k f).frameVer = s.frameVer := rfl
@[simp] theorem modCreel_wall (k : CreelId) (f : CreelSt → CreelSt) : (modCreel s k f).wall = s.wall := rfl
@[simp] theorem modCreel_wallAgenda (k : CreelId) (f : CreelSt → CreelSt) : (modCreel s k f).wallAgenda = s.wallAgenda := rfl
@[simp] theorem modCreel_power (k : CreelId) (f : CreelSt → CreelSt) : (modCreel s k f).power = s.power := rfl
@[simp] theorem modCreel_nv (k : CreelId) (f : CreelSt → CreelSt) : (modCreel s k f).nv = s.nv := rfl
@[simp] theorem modCreel_sessions (k : CreelId) (f : CreelSt → CreelSt) : (modCreel s k f).sessions = s.sessions := rfl
@[simp] theorem modCreel_notices (k : CreelId) (f : CreelSt → CreelSt) : (modCreel s k f).notices = s.notices := rfl
@[simp] theorem modCreel_convs (k : CreelId) (f : CreelSt → CreelSt) : (modCreel s k f).convs = s.convs := rfl
@[simp] theorem modCreel_launches (k : CreelId) (f : CreelSt → CreelSt) : (modCreel s k f).launches = s.launches := rfl
@[simp] theorem modCreel_pending (k : CreelId) (f : CreelSt → CreelSt) : (modCreel s k f).pending = s.pending := rfl
@[simp] theorem modCreel_images (k : CreelId) (f : CreelSt → CreelSt) : (modCreel s k f).images = s.images := rfl
@[simp] theorem modCreel_tsd (k : CreelId) (f : CreelSt → CreelSt) : (modCreel s k f).tsd = s.tsd := rfl
@[simp] theorem modCreel_moves (k : CreelId) (f : CreelSt → CreelSt) : (modCreel s k f).moves = s.moves := rfl
@[simp] theorem modCreel_fwu (k : CreelId) (f : CreelSt → CreelSt) : (modCreel s k f).fwu = s.fwu := rfl
@[simp] theorem modCreel_boot (k : CreelId) (f : CreelSt → CreelSt) : (modCreel s k f).boot = s.boot := rfl
@[simp] theorem modCreel_edges (k : CreelId) (f : CreelSt → CreelSt) : (modCreel s k f).edges = s.edges := rfl
@[simp] theorem modCreel_fences (k : CreelId) (f : CreelSt → CreelSt) : (modCreel s k f).fences = s.fences := rfl
@[simp] theorem modCreel_late (k : CreelId) (f : CreelSt → CreelSt) : (modCreel s k f).late = s.late := rfl
@[simp] theorem modCreel_sampled (k : CreelId) (f : CreelSt → CreelSt) : (modCreel s k f).sampled = s.sampled := rfl
@[simp] theorem modCreel_served (k : CreelId) (f : CreelSt → CreelSt) : (modCreel s k f).served = s.served := rfl
@[simp] theorem modCreel_tried (k : CreelId) (f : CreelSt → CreelSt) : (modCreel s k f).tried = s.tried := rfl
@[simp] theorem modCreel_moorage (k : CreelId) (f : CreelSt → CreelSt) : (modCreel s k f).moorage = s.moorage := rfl
@[simp] theorem modCreel_maskGated (k : CreelId) (f : CreelSt → CreelSt) : (modCreel s k f).maskGated = s.maskGated := rfl

/-! ### modEp -/

@[simp] theorem modEp_cyc (c : CoreId) (n : Nat) (f : Endpoint → Endpoint) : (modEp s c n f).cyc = s.cyc := rfl
@[simp] theorem modEp_inputs (c : CoreId) (n : Nat) (f : Endpoint → Endpoint) : (modEp s c n f).inputs = s.inputs := rfl
@[simp] theorem modEp_agenda (c : CoreId) (n : Nat) (f : Endpoint → Endpoint) : (modEp s c n f).agenda = s.agenda := rfl
@[simp] theorem modEp_turn (c : CoreId) (n : Nat) (f : Endpoint → Endpoint) : (modEp s c n f).turn = s.turn := rfl
@[simp] theorem modEp_hand (c : CoreId) (n : Nat) (f : Endpoint → Endpoint) : (modEp s c n f).hand = s.hand := rfl
@[simp] theorem modEp_cur (c : CoreId) (n : Nat) (f : Endpoint → Endpoint) : (modEp s c n f).cur = s.cur := rfl
@[simp] theorem modEp_word (c : CoreId) (n : Nat) (f : Endpoint → Endpoint) : (modEp s c n f).word = s.word := rfl
@[simp] theorem modEp_high (c : CoreId) (n : Nat) (f : Endpoint → Endpoint) : (modEp s c n f).high = s.high := rfl
@[simp] theorem modEp_again (c : CoreId) (n : Nat) (f : Endpoint → Endpoint) : (modEp s c n f).again = s.again := rfl
@[simp] theorem modEp_buffered (c : CoreId) (n : Nat) (f : Endpoint → Endpoint) : (modEp s c n f).buffered = s.buffered := rfl
@[simp] theorem modEp_free (c : CoreId) (n : Nat) (f : Endpoint → Endpoint) : (modEp s c n f).free = s.free := rfl
@[simp] theorem modEp_token (c : CoreId) (n : Nat) (f : Endpoint → Endpoint) : (modEp s c n f).token = s.token := rfl
@[simp] theorem modEp_out (c : CoreId) (n : Nat) (f : Endpoint → Endpoint) : (modEp s c n f).out = s.out := rfl
@[simp] theorem modEp_mem (c : CoreId) (n : Nat) (f : Endpoint → Endpoint) : (modEp s c n f).mem = s.mem := rfl
@[simp] theorem modEp_bits (c : CoreId) (n : Nat) (f : Endpoint → Endpoint) : (modEp s c n f).bits = s.bits := rfl
@[simp] theorem modEp_err (c : CoreId) (n : Nat) (f : Endpoint → Endpoint) : (modEp s c n f).err = s.err := rfl
@[simp] theorem modEp_regs (c : CoreId) (n : Nat) (f : Endpoint → Endpoint) : (modEp s c n f).regs = s.regs := rfl
@[simp] theorem modEp_threads (c : CoreId) (n : Nat) (f : Endpoint → Endpoint) : (modEp s c n f).threads = s.threads := rfl
@[simp] theorem modEp_cores (c : CoreId) (n : Nat) (f : Endpoint → Endpoint) : (modEp s c n f).cores = s.cores := rfl
@[simp] theorem modEp_creels (c : CoreId) (n : Nat) (f : Endpoint → Endpoint) : (modEp s c n f).creels = s.creels := rfl
@[simp] theorem modEp_teams (c : CoreId) (n : Nat) (f : Endpoint → Endpoint) : (modEp s c n f).teams = s.teams := rfl
@[simp] theorem modEp_dieRegs (c : CoreId) (n : Nat) (f : Endpoint → Endpoint) : (modEp s c n f).dieRegs = s.dieRegs := rfl
@[simp] theorem modEp_walks (c : CoreId) (n : Nat) (f : Endpoint → Endpoint) : (modEp s c n f).walks = s.walks := rfl
@[simp] theorem modEp_waiters (c : CoreId) (n : Nat) (f : Endpoint → Endpoint) : (modEp s c n f).waiters = s.waiters := rfl
@[simp] theorem modEp_frameVer (c : CoreId) (n : Nat) (f : Endpoint → Endpoint) : (modEp s c n f).frameVer = s.frameVer := rfl
@[simp] theorem modEp_wall (c : CoreId) (n : Nat) (f : Endpoint → Endpoint) : (modEp s c n f).wall = s.wall := rfl
@[simp] theorem modEp_wallAgenda (c : CoreId) (n : Nat) (f : Endpoint → Endpoint) : (modEp s c n f).wallAgenda = s.wallAgenda := rfl
@[simp] theorem modEp_power (c : CoreId) (n : Nat) (f : Endpoint → Endpoint) : (modEp s c n f).power = s.power := rfl
@[simp] theorem modEp_nv (c : CoreId) (n : Nat) (f : Endpoint → Endpoint) : (modEp s c n f).nv = s.nv := rfl
@[simp] theorem modEp_sessions (c : CoreId) (n : Nat) (f : Endpoint → Endpoint) : (modEp s c n f).sessions = s.sessions := rfl
@[simp] theorem modEp_notices (c : CoreId) (n : Nat) (f : Endpoint → Endpoint) : (modEp s c n f).notices = s.notices := rfl
@[simp] theorem modEp_convs (c : CoreId) (n : Nat) (f : Endpoint → Endpoint) : (modEp s c n f).convs = s.convs := rfl
@[simp] theorem modEp_launches (c : CoreId) (n : Nat) (f : Endpoint → Endpoint) : (modEp s c n f).launches = s.launches := rfl
@[simp] theorem modEp_pending (c : CoreId) (n : Nat) (f : Endpoint → Endpoint) : (modEp s c n f).pending = s.pending := rfl
@[simp] theorem modEp_images (c : CoreId) (n : Nat) (f : Endpoint → Endpoint) : (modEp s c n f).images = s.images := rfl
@[simp] theorem modEp_tsd (c : CoreId) (n : Nat) (f : Endpoint → Endpoint) : (modEp s c n f).tsd = s.tsd := rfl
@[simp] theorem modEp_moves (c : CoreId) (n : Nat) (f : Endpoint → Endpoint) : (modEp s c n f).moves = s.moves := rfl
@[simp] theorem modEp_fwu (c : CoreId) (n : Nat) (f : Endpoint → Endpoint) : (modEp s c n f).fwu = s.fwu := rfl
@[simp] theorem modEp_boot (c : CoreId) (n : Nat) (f : Endpoint → Endpoint) : (modEp s c n f).boot = s.boot := rfl
@[simp] theorem modEp_edges (c : CoreId) (n : Nat) (f : Endpoint → Endpoint) : (modEp s c n f).edges = s.edges := rfl
@[simp] theorem modEp_fences (c : CoreId) (n : Nat) (f : Endpoint → Endpoint) : (modEp s c n f).fences = s.fences := rfl
@[simp] theorem modEp_late (c : CoreId) (n : Nat) (f : Endpoint → Endpoint) : (modEp s c n f).late = s.late := rfl
@[simp] theorem modEp_sampled (c : CoreId) (n : Nat) (f : Endpoint → Endpoint) : (modEp s c n f).sampled = s.sampled := rfl
@[simp] theorem modEp_served (c : CoreId) (n : Nat) (f : Endpoint → Endpoint) : (modEp s c n f).served = s.served := rfl
@[simp] theorem modEp_tried (c : CoreId) (n : Nat) (f : Endpoint → Endpoint) : (modEp s c n f).tried = s.tried := rfl
@[simp] theorem modEp_moorage (c : CoreId) (n : Nat) (f : Endpoint → Endpoint) : (modEp s c n f).moorage = s.moorage := rfl
@[simp] theorem modEp_maskGated (c : CoreId) (n : Nat) (f : Endpoint → Endpoint) : (modEp s c n f).maskGated = s.maskGated := rfl

/-! ### at -/

@[simp] theorem at_cyc (c : Nat) (a : Act) : (s.at c a).cyc = s.cyc := rfl
@[simp] theorem at_inputs (c : Nat) (a : Act) : (s.at c a).inputs = s.inputs := rfl
@[simp] theorem at_turn (c : Nat) (a : Act) : (s.at c a).turn = s.turn := rfl
@[simp] theorem at_hand (c : Nat) (a : Act) : (s.at c a).hand = s.hand := rfl
@[simp] theorem at_cur (c : Nat) (a : Act) : (s.at c a).cur = s.cur := rfl
@[simp] theorem at_word (c : Nat) (a : Act) : (s.at c a).word = s.word := rfl
@[simp] theorem at_high (c : Nat) (a : Act) : (s.at c a).high = s.high := rfl
@[simp] theorem at_again (c : Nat) (a : Act) : (s.at c a).again = s.again := rfl
@[simp] theorem at_buffered (c : Nat) (a : Act) : (s.at c a).buffered = s.buffered := rfl
@[simp] theorem at_free (c : Nat) (a : Act) : (s.at c a).free = s.free := rfl
@[simp] theorem at_token (c : Nat) (a : Act) : (s.at c a).token = s.token := rfl
@[simp] theorem at_out (c : Nat) (a : Act) : (s.at c a).out = s.out := rfl
@[simp] theorem at_mem (c : Nat) (a : Act) : (s.at c a).mem = s.mem := rfl
@[simp] theorem at_bits (c : Nat) (a : Act) : (s.at c a).bits = s.bits := rfl
@[simp] theorem at_err (c : Nat) (a : Act) : (s.at c a).err = s.err := rfl
@[simp] theorem at_regs (c : Nat) (a : Act) : (s.at c a).regs = s.regs := rfl
@[simp] theorem at_threads (c : Nat) (a : Act) : (s.at c a).threads = s.threads := rfl
@[simp] theorem at_eps (c : Nat) (a : Act) : (s.at c a).eps = s.eps := rfl
@[simp] theorem at_cores (c : Nat) (a : Act) : (s.at c a).cores = s.cores := rfl
@[simp] theorem at_creels (c : Nat) (a : Act) : (s.at c a).creels = s.creels := rfl
@[simp] theorem at_teams (c : Nat) (a : Act) : (s.at c a).teams = s.teams := rfl
@[simp] theorem at_dieRegs (c : Nat) (a : Act) : (s.at c a).dieRegs = s.dieRegs := rfl
@[simp] theorem at_walks (c : Nat) (a : Act) : (s.at c a).walks = s.walks := rfl
@[simp] theorem at_waiters (c : Nat) (a : Act) : (s.at c a).waiters = s.waiters := rfl
@[simp] theorem at_frameVer (c : Nat) (a : Act) : (s.at c a).frameVer = s.frameVer := rfl
@[simp] theorem at_wall (c : Nat) (a : Act) : (s.at c a).wall = s.wall := rfl
@[simp] theorem at_wallAgenda (c : Nat) (a : Act) : (s.at c a).wallAgenda = s.wallAgenda := rfl
@[simp] theorem at_power (c : Nat) (a : Act) : (s.at c a).power = s.power := rfl
@[simp] theorem at_nv (c : Nat) (a : Act) : (s.at c a).nv = s.nv := rfl
@[simp] theorem at_sessions (c : Nat) (a : Act) : (s.at c a).sessions = s.sessions := rfl
@[simp] theorem at_notices (c : Nat) (a : Act) : (s.at c a).notices = s.notices := rfl
@[simp] theorem at_convs (c : Nat) (a : Act) : (s.at c a).convs = s.convs := rfl
@[simp] theorem at_launches (c : Nat) (a : Act) : (s.at c a).launches = s.launches := rfl
@[simp] theorem at_pending (c : Nat) (a : Act) : (s.at c a).pending = s.pending := rfl
@[simp] theorem at_images (c : Nat) (a : Act) : (s.at c a).images = s.images := rfl
@[simp] theorem at_tsd (c : Nat) (a : Act) : (s.at c a).tsd = s.tsd := rfl
@[simp] theorem at_moves (c : Nat) (a : Act) : (s.at c a).moves = s.moves := rfl
@[simp] theorem at_fwu (c : Nat) (a : Act) : (s.at c a).fwu = s.fwu := rfl
@[simp] theorem at_boot (c : Nat) (a : Act) : (s.at c a).boot = s.boot := rfl
@[simp] theorem at_edges (c : Nat) (a : Act) : (s.at c a).edges = s.edges := rfl
@[simp] theorem at_fences (c : Nat) (a : Act) : (s.at c a).fences = s.fences := rfl
@[simp] theorem at_late (c : Nat) (a : Act) : (s.at c a).late = s.late := rfl
@[simp] theorem at_sampled (c : Nat) (a : Act) : (s.at c a).sampled = s.sampled := rfl
@[simp] theorem at_served (c : Nat) (a : Act) : (s.at c a).served = s.served := rfl
@[simp] theorem at_tried (c : Nat) (a : Act) : (s.at c a).tried = s.tried := rfl
@[simp] theorem at_moorage (c : Nat) (a : Act) : (s.at c a).moorage = s.moorage := rfl
@[simp] theorem at_maskGated (c : Nat) (a : Act) : (s.at c a).maskGated = s.maskGated := rfl

/-! ### after -/

@[simp] theorem after_cyc (n : Nat) (a : Act) : (s.after n a).cyc = s.cyc := rfl
@[simp] theorem after_inputs (n : Nat) (a : Act) : (s.after n a).inputs = s.inputs := rfl
@[simp] theorem after_turn (n : Nat) (a : Act) : (s.after n a).turn = s.turn := rfl
@[simp] theorem after_hand (n : Nat) (a : Act) : (s.after n a).hand = s.hand := rfl
@[simp] theorem after_cur (n : Nat) (a : Act) : (s.after n a).cur = s.cur := rfl
@[simp] theorem after_word (n : Nat) (a : Act) : (s.after n a).word = s.word := rfl
@[simp] theorem after_high (n : Nat) (a : Act) : (s.after n a).high = s.high := rfl
@[simp] theorem after_again (n : Nat) (a : Act) : (s.after n a).again = s.again := rfl
@[simp] theorem after_buffered (n : Nat) (a : Act) : (s.after n a).buffered = s.buffered := rfl
@[simp] theorem after_free (n : Nat) (a : Act) : (s.after n a).free = s.free := rfl
@[simp] theorem after_token (n : Nat) (a : Act) : (s.after n a).token = s.token := rfl
@[simp] theorem after_out (n : Nat) (a : Act) : (s.after n a).out = s.out := rfl
@[simp] theorem after_mem (n : Nat) (a : Act) : (s.after n a).mem = s.mem := rfl
@[simp] theorem after_bits (n : Nat) (a : Act) : (s.after n a).bits = s.bits := rfl
@[simp] theorem after_err (n : Nat) (a : Act) : (s.after n a).err = s.err := rfl
@[simp] theorem after_regs (n : Nat) (a : Act) : (s.after n a).regs = s.regs := rfl
@[simp] theorem after_threads (n : Nat) (a : Act) : (s.after n a).threads = s.threads := rfl
@[simp] theorem after_eps (n : Nat) (a : Act) : (s.after n a).eps = s.eps := rfl
@[simp] theorem after_cores (n : Nat) (a : Act) : (s.after n a).cores = s.cores := rfl
@[simp] theorem after_creels (n : Nat) (a : Act) : (s.after n a).creels = s.creels := rfl
@[simp] theorem after_teams (n : Nat) (a : Act) : (s.after n a).teams = s.teams := rfl
@[simp] theorem after_dieRegs (n : Nat) (a : Act) : (s.after n a).dieRegs = s.dieRegs := rfl
@[simp] theorem after_walks (n : Nat) (a : Act) : (s.after n a).walks = s.walks := rfl
@[simp] theorem after_waiters (n : Nat) (a : Act) : (s.after n a).waiters = s.waiters := rfl
@[simp] theorem after_frameVer (n : Nat) (a : Act) : (s.after n a).frameVer = s.frameVer := rfl
@[simp] theorem after_wall (n : Nat) (a : Act) : (s.after n a).wall = s.wall := rfl
@[simp] theorem after_wallAgenda (n : Nat) (a : Act) : (s.after n a).wallAgenda = s.wallAgenda := rfl
@[simp] theorem after_power (n : Nat) (a : Act) : (s.after n a).power = s.power := rfl
@[simp] theorem after_nv (n : Nat) (a : Act) : (s.after n a).nv = s.nv := rfl
@[simp] theorem after_sessions (n : Nat) (a : Act) : (s.after n a).sessions = s.sessions := rfl
@[simp] theorem after_notices (n : Nat) (a : Act) : (s.after n a).notices = s.notices := rfl
@[simp] theorem after_convs (n : Nat) (a : Act) : (s.after n a).convs = s.convs := rfl
@[simp] theorem after_launches (n : Nat) (a : Act) : (s.after n a).launches = s.launches := rfl
@[simp] theorem after_pending (n : Nat) (a : Act) : (s.after n a).pending = s.pending := rfl
@[simp] theorem after_images (n : Nat) (a : Act) : (s.after n a).images = s.images := rfl
@[simp] theorem after_tsd (n : Nat) (a : Act) : (s.after n a).tsd = s.tsd := rfl
@[simp] theorem after_moves (n : Nat) (a : Act) : (s.after n a).moves = s.moves := rfl
@[simp] theorem after_fwu (n : Nat) (a : Act) : (s.after n a).fwu = s.fwu := rfl
@[simp] theorem after_boot (n : Nat) (a : Act) : (s.after n a).boot = s.boot := rfl
@[simp] theorem after_edges (n : Nat) (a : Act) : (s.after n a).edges = s.edges := rfl
@[simp] theorem after_fences (n : Nat) (a : Act) : (s.after n a).fences = s.fences := rfl
@[simp] theorem after_late (n : Nat) (a : Act) : (s.after n a).late = s.late := rfl
@[simp] theorem after_sampled (n : Nat) (a : Act) : (s.after n a).sampled = s.sampled := rfl
@[simp] theorem after_served (n : Nat) (a : Act) : (s.after n a).served = s.served := rfl
@[simp] theorem after_tried (n : Nat) (a : Act) : (s.after n a).tried = s.tried := rfl
@[simp] theorem after_moorage (n : Nat) (a : Act) : (s.after n a).moorage = s.moorage := rfl
@[simp] theorem after_maskGated (n : Nat) (a : Act) : (s.after n a).maskGated = s.maskGated := rfl

/-! ### count -/

@[simp] theorem count_cyc (d n : Nat) : (count s d n).cyc = s.cyc := rfl
@[simp] theorem count_inputs (d n : Nat) : (count s d n).inputs = s.inputs := rfl
@[simp] theorem count_agenda (d n : Nat) : (count s d n).agenda = s.agenda := rfl
@[simp] theorem count_turn (d n : Nat) : (count s d n).turn = s.turn := rfl
@[simp] theorem count_hand (d n : Nat) : (count s d n).hand = s.hand := rfl
@[simp] theorem count_cur (d n : Nat) : (count s d n).cur = s.cur := rfl
@[simp] theorem count_word (d n : Nat) : (count s d n).word = s.word := rfl
@[simp] theorem count_high (d n : Nat) : (count s d n).high = s.high := rfl
@[simp] theorem count_again (d n : Nat) : (count s d n).again = s.again := rfl
@[simp] theorem count_buffered (d n : Nat) : (count s d n).buffered = s.buffered := rfl
@[simp] theorem count_free (d n : Nat) : (count s d n).free = s.free := rfl
@[simp] theorem count_token (d n : Nat) : (count s d n).token = s.token := rfl
@[simp] theorem count_out (d n : Nat) : (count s d n).out = s.out := rfl
@[simp] theorem count_mem (d n : Nat) : (count s d n).mem = s.mem := rfl
@[simp] theorem count_bits (d n : Nat) : (count s d n).bits = s.bits := rfl
@[simp] theorem count_err (d n : Nat) : (count s d n).err = s.err := rfl
@[simp] theorem count_regs (d n : Nat) : (count s d n).regs = s.regs := rfl
@[simp] theorem count_threads (d n : Nat) : (count s d n).threads = s.threads := rfl
@[simp] theorem count_eps (d n : Nat) : (count s d n).eps = s.eps := rfl
@[simp] theorem count_cores (d n : Nat) : (count s d n).cores = s.cores := rfl
@[simp] theorem count_creels (d n : Nat) : (count s d n).creels = s.creels := rfl
@[simp] theorem count_teams (d n : Nat) : (count s d n).teams = s.teams := rfl
@[simp] theorem count_walks (d n : Nat) : (count s d n).walks = s.walks := rfl
@[simp] theorem count_waiters (d n : Nat) : (count s d n).waiters = s.waiters := rfl
@[simp] theorem count_frameVer (d n : Nat) : (count s d n).frameVer = s.frameVer := rfl
@[simp] theorem count_wall (d n : Nat) : (count s d n).wall = s.wall := rfl
@[simp] theorem count_wallAgenda (d n : Nat) : (count s d n).wallAgenda = s.wallAgenda := rfl
@[simp] theorem count_power (d n : Nat) : (count s d n).power = s.power := rfl
@[simp] theorem count_nv (d n : Nat) : (count s d n).nv = s.nv := rfl
@[simp] theorem count_sessions (d n : Nat) : (count s d n).sessions = s.sessions := rfl
@[simp] theorem count_notices (d n : Nat) : (count s d n).notices = s.notices := rfl
@[simp] theorem count_convs (d n : Nat) : (count s d n).convs = s.convs := rfl
@[simp] theorem count_launches (d n : Nat) : (count s d n).launches = s.launches := rfl
@[simp] theorem count_pending (d n : Nat) : (count s d n).pending = s.pending := rfl
@[simp] theorem count_images (d n : Nat) : (count s d n).images = s.images := rfl
@[simp] theorem count_tsd (d n : Nat) : (count s d n).tsd = s.tsd := rfl
@[simp] theorem count_moves (d n : Nat) : (count s d n).moves = s.moves := rfl
@[simp] theorem count_fwu (d n : Nat) : (count s d n).fwu = s.fwu := rfl
@[simp] theorem count_boot (d n : Nat) : (count s d n).boot = s.boot := rfl
@[simp] theorem count_edges (d n : Nat) : (count s d n).edges = s.edges := rfl
@[simp] theorem count_fences (d n : Nat) : (count s d n).fences = s.fences := rfl
@[simp] theorem count_late (d n : Nat) : (count s d n).late = s.late := rfl
@[simp] theorem count_sampled (d n : Nat) : (count s d n).sampled = s.sampled := rfl
@[simp] theorem count_served (d n : Nat) : (count s d n).served = s.served := rfl
@[simp] theorem count_tried (d n : Nat) : (count s d n).tried = s.tried := rfl
@[simp] theorem count_moorage (d n : Nat) : (count s d n).moorage = s.moorage := rfl
@[simp] theorem count_maskGated (d n : Nat) : (count s d n).maskGated = s.maskGated := rfl

/-! ### emit -/

@[simp] theorem emit_cyc (o : Output) : (s.emit o).cyc = s.cyc := rfl
@[simp] theorem emit_inputs (o : Output) : (s.emit o).inputs = s.inputs := rfl
@[simp] theorem emit_agenda (o : Output) : (s.emit o).agenda = s.agenda := rfl
@[simp] theorem emit_turn (o : Output) : (s.emit o).turn = s.turn := rfl
@[simp] theorem emit_hand (o : Output) : (s.emit o).hand = s.hand := rfl
@[simp] theorem emit_cur (o : Output) : (s.emit o).cur = s.cur := rfl
@[simp] theorem emit_word (o : Output) : (s.emit o).word = s.word := rfl
@[simp] theorem emit_high (o : Output) : (s.emit o).high = s.high := rfl
@[simp] theorem emit_again (o : Output) : (s.emit o).again = s.again := rfl
@[simp] theorem emit_buffered (o : Output) : (s.emit o).buffered = s.buffered := rfl
@[simp] theorem emit_free (o : Output) : (s.emit o).free = s.free := rfl
@[simp] theorem emit_token (o : Output) : (s.emit o).token = s.token := rfl
@[simp] theorem emit_mem (o : Output) : (s.emit o).mem = s.mem := rfl
@[simp] theorem emit_bits (o : Output) : (s.emit o).bits = s.bits := rfl
@[simp] theorem emit_err (o : Output) : (s.emit o).err = s.err := rfl
@[simp] theorem emit_regs (o : Output) : (s.emit o).regs = s.regs := rfl
@[simp] theorem emit_threads (o : Output) : (s.emit o).threads = s.threads := rfl
@[simp] theorem emit_eps (o : Output) : (s.emit o).eps = s.eps := rfl
@[simp] theorem emit_cores (o : Output) : (s.emit o).cores = s.cores := rfl
@[simp] theorem emit_creels (o : Output) : (s.emit o).creels = s.creels := rfl
@[simp] theorem emit_teams (o : Output) : (s.emit o).teams = s.teams := rfl
@[simp] theorem emit_dieRegs (o : Output) : (s.emit o).dieRegs = s.dieRegs := rfl
@[simp] theorem emit_walks (o : Output) : (s.emit o).walks = s.walks := rfl
@[simp] theorem emit_waiters (o : Output) : (s.emit o).waiters = s.waiters := rfl
@[simp] theorem emit_frameVer (o : Output) : (s.emit o).frameVer = s.frameVer := rfl
@[simp] theorem emit_wall (o : Output) : (s.emit o).wall = s.wall := rfl
@[simp] theorem emit_wallAgenda (o : Output) : (s.emit o).wallAgenda = s.wallAgenda := rfl
@[simp] theorem emit_power (o : Output) : (s.emit o).power = s.power := rfl
@[simp] theorem emit_nv (o : Output) : (s.emit o).nv = s.nv := rfl
@[simp] theorem emit_sessions (o : Output) : (s.emit o).sessions = s.sessions := rfl
@[simp] theorem emit_notices (o : Output) : (s.emit o).notices = s.notices := rfl
@[simp] theorem emit_convs (o : Output) : (s.emit o).convs = s.convs := rfl
@[simp] theorem emit_launches (o : Output) : (s.emit o).launches = s.launches := rfl
@[simp] theorem emit_pending (o : Output) : (s.emit o).pending = s.pending := rfl
@[simp] theorem emit_images (o : Output) : (s.emit o).images = s.images := rfl
@[simp] theorem emit_tsd (o : Output) : (s.emit o).tsd = s.tsd := rfl
@[simp] theorem emit_moves (o : Output) : (s.emit o).moves = s.moves := rfl
@[simp] theorem emit_fwu (o : Output) : (s.emit o).fwu = s.fwu := rfl
@[simp] theorem emit_boot (o : Output) : (s.emit o).boot = s.boot := rfl
@[simp] theorem emit_edges (o : Output) : (s.emit o).edges = s.edges := rfl
@[simp] theorem emit_fences (o : Output) : (s.emit o).fences = s.fences := rfl
@[simp] theorem emit_late (o : Output) : (s.emit o).late = s.late := rfl
@[simp] theorem emit_sampled (o : Output) : (s.emit o).sampled = s.sampled := rfl
@[simp] theorem emit_served (o : Output) : (s.emit o).served = s.served := rfl
@[simp] theorem emit_tried (o : Output) : (s.emit o).tried = s.tried := rfl
@[simp] theorem emit_moorage (o : Output) : (s.emit o).moorage = s.moorage := rfl
@[simp] theorem emit_maskGated (o : Output) : (s.emit o).maskGated = s.maskGated := rfl

/-! ### fresh -/

@[simp] theorem fresh_cyc : (s.fresh).cyc = s.cyc := rfl
@[simp] theorem fresh_inputs : (s.fresh).inputs = s.inputs := rfl
@[simp] theorem fresh_agenda : (s.fresh).agenda = s.agenda := rfl
@[simp] theorem fresh_turn : (s.fresh).turn = s.turn := rfl
@[simp] theorem fresh_hand : (s.fresh).hand = s.hand := rfl
@[simp] theorem fresh_cur : (s.fresh).cur = s.cur := rfl
@[simp] theorem fresh_word : (s.fresh).word = s.word := rfl
@[simp] theorem fresh_high : (s.fresh).high = s.high := rfl
@[simp] theorem fresh_again : (s.fresh).again = s.again := rfl
@[simp] theorem fresh_buffered : (s.fresh).buffered = s.buffered := rfl
@[simp] theorem fresh_free : (s.fresh).free = s.free := rfl
@[simp] theorem fresh_out : (s.fresh).out = s.out := rfl
@[simp] theorem fresh_mem : (s.fresh).mem = s.mem := rfl
@[simp] theorem fresh_bits : (s.fresh).bits = s.bits := rfl
@[simp] theorem fresh_err : (s.fresh).err = s.err := rfl
@[simp] theorem fresh_regs : (s.fresh).regs = s.regs := rfl
@[simp] theorem fresh_threads : (s.fresh).threads = s.threads := rfl
@[simp] theorem fresh_eps : (s.fresh).eps = s.eps := rfl
@[simp] theorem fresh_cores : (s.fresh).cores = s.cores := rfl
@[simp] theorem fresh_creels : (s.fresh).creels = s.creels := rfl
@[simp] theorem fresh_teams : (s.fresh).teams = s.teams := rfl
@[simp] theorem fresh_dieRegs : (s.fresh).dieRegs = s.dieRegs := rfl
@[simp] theorem fresh_walks : (s.fresh).walks = s.walks := rfl
@[simp] theorem fresh_waiters : (s.fresh).waiters = s.waiters := rfl
@[simp] theorem fresh_frameVer : (s.fresh).frameVer = s.frameVer := rfl
@[simp] theorem fresh_wall : (s.fresh).wall = s.wall := rfl
@[simp] theorem fresh_wallAgenda : (s.fresh).wallAgenda = s.wallAgenda := rfl
@[simp] theorem fresh_power : (s.fresh).power = s.power := rfl
@[simp] theorem fresh_nv : (s.fresh).nv = s.nv := rfl
@[simp] theorem fresh_sessions : (s.fresh).sessions = s.sessions := rfl
@[simp] theorem fresh_notices : (s.fresh).notices = s.notices := rfl
@[simp] theorem fresh_convs : (s.fresh).convs = s.convs := rfl
@[simp] theorem fresh_launches : (s.fresh).launches = s.launches := rfl
@[simp] theorem fresh_pending : (s.fresh).pending = s.pending := rfl
@[simp] theorem fresh_images : (s.fresh).images = s.images := rfl
@[simp] theorem fresh_tsd : (s.fresh).tsd = s.tsd := rfl
@[simp] theorem fresh_moves : (s.fresh).moves = s.moves := rfl
@[simp] theorem fresh_fwu : (s.fresh).fwu = s.fwu := rfl
@[simp] theorem fresh_boot : (s.fresh).boot = s.boot := rfl
@[simp] theorem fresh_edges : (s.fresh).edges = s.edges := rfl
@[simp] theorem fresh_fences : (s.fresh).fences = s.fences := rfl
@[simp] theorem fresh_late : (s.fresh).late = s.late := rfl
@[simp] theorem fresh_sampled : (s.fresh).sampled = s.sampled := rfl
@[simp] theorem fresh_served : (s.fresh).served = s.served := rfl
@[simp] theorem fresh_tried : (s.fresh).tried = s.tried := rfl
@[simp] theorem fresh_moorage : (s.fresh).moorage = s.moorage := rfl
@[simp] theorem fresh_maskGated : (s.fresh).maskGated = s.maskGated := rfl

/-! ### drawn -/

@[simp] theorem drawn_cyc : (s.drawn).cyc = s.cyc := rfl
@[simp] theorem drawn_inputs : (s.drawn).inputs = s.inputs := rfl
@[simp] theorem drawn_agenda : (s.drawn).agenda = s.agenda := rfl
@[simp] theorem drawn_turn : (s.drawn).turn = s.turn := rfl
@[simp] theorem drawn_hand : (s.drawn).hand = s.hand := rfl
@[simp] theorem drawn_cur : (s.drawn).cur = s.cur := rfl
@[simp] theorem drawn_word : (s.drawn).word = s.word := rfl
@[simp] theorem drawn_high : (s.drawn).high = s.high := rfl
@[simp] theorem drawn_again : (s.drawn).again = s.again := rfl
@[simp] theorem drawn_buffered : (s.drawn).buffered = s.buffered := rfl
@[simp] theorem drawn_token : (s.drawn).token = s.token := rfl
@[simp] theorem drawn_out : (s.drawn).out = s.out := rfl
@[simp] theorem drawn_mem : (s.drawn).mem = s.mem := rfl
@[simp] theorem drawn_bits : (s.drawn).bits = s.bits := rfl
@[simp] theorem drawn_err : (s.drawn).err = s.err := rfl
@[simp] theorem drawn_regs : (s.drawn).regs = s.regs := rfl
@[simp] theorem drawn_threads : (s.drawn).threads = s.threads := rfl
@[simp] theorem drawn_eps : (s.drawn).eps = s.eps := rfl
@[simp] theorem drawn_cores : (s.drawn).cores = s.cores := rfl
@[simp] theorem drawn_creels : (s.drawn).creels = s.creels := rfl
@[simp] theorem drawn_teams : (s.drawn).teams = s.teams := rfl
@[simp] theorem drawn_dieRegs : (s.drawn).dieRegs = s.dieRegs := rfl
@[simp] theorem drawn_walks : (s.drawn).walks = s.walks := rfl
@[simp] theorem drawn_waiters : (s.drawn).waiters = s.waiters := rfl
@[simp] theorem drawn_frameVer : (s.drawn).frameVer = s.frameVer := rfl
@[simp] theorem drawn_wall : (s.drawn).wall = s.wall := rfl
@[simp] theorem drawn_wallAgenda : (s.drawn).wallAgenda = s.wallAgenda := rfl
@[simp] theorem drawn_power : (s.drawn).power = s.power := rfl
@[simp] theorem drawn_nv : (s.drawn).nv = s.nv := rfl
@[simp] theorem drawn_sessions : (s.drawn).sessions = s.sessions := rfl
@[simp] theorem drawn_notices : (s.drawn).notices = s.notices := rfl
@[simp] theorem drawn_convs : (s.drawn).convs = s.convs := rfl
@[simp] theorem drawn_launches : (s.drawn).launches = s.launches := rfl
@[simp] theorem drawn_pending : (s.drawn).pending = s.pending := rfl
@[simp] theorem drawn_images : (s.drawn).images = s.images := rfl
@[simp] theorem drawn_tsd : (s.drawn).tsd = s.tsd := rfl
@[simp] theorem drawn_moves : (s.drawn).moves = s.moves := rfl
@[simp] theorem drawn_fwu : (s.drawn).fwu = s.fwu := rfl
@[simp] theorem drawn_boot : (s.drawn).boot = s.boot := rfl
@[simp] theorem drawn_edges : (s.drawn).edges = s.edges := rfl
@[simp] theorem drawn_fences : (s.drawn).fences = s.fences := rfl
@[simp] theorem drawn_late : (s.drawn).late = s.late := rfl
@[simp] theorem drawn_sampled : (s.drawn).sampled = s.sampled := rfl
@[simp] theorem drawn_served : (s.drawn).served = s.served := rfl
@[simp] theorem drawn_tried : (s.drawn).tried = s.tried := rfl
@[simp] theorem drawn_moorage : (s.drawn).moorage = s.moorage := rfl
@[simp] theorem drawn_maskGated : (s.drawn).maskGated = s.maskGated := rfl

/-! ### modThread -/

@[simp] theorem modThread_cyc (t : ThreadId) (f : Thread → Thread) : (modThread s t f).cyc = s.cyc := by unfold modThread; split <;> rfl
@[simp] theorem modThread_inputs (t : ThreadId) (f : Thread → Thread) : (modThread s t f).inputs = s.inputs := by unfold modThread; split <;> rfl
@[simp] theorem modThread_agenda (t : ThreadId) (f : Thread → Thread) : (modThread s t f).agenda = s.agenda := by unfold modThread; split <;> rfl
@[simp] theorem modThread_turn (t : ThreadId) (f : Thread → Thread) : (modThread s t f).turn = s.turn := by unfold modThread; split <;> rfl
@[simp] theorem modThread_hand (t : ThreadId) (f : Thread → Thread) : (modThread s t f).hand = s.hand := by unfold modThread; split <;> rfl
@[simp] theorem modThread_cur (t : ThreadId) (f : Thread → Thread) : (modThread s t f).cur = s.cur := by unfold modThread; split <;> rfl
@[simp] theorem modThread_word (t : ThreadId) (f : Thread → Thread) : (modThread s t f).word = s.word := by unfold modThread; split <;> rfl
@[simp] theorem modThread_high (t : ThreadId) (f : Thread → Thread) : (modThread s t f).high = s.high := by unfold modThread; split <;> rfl
@[simp] theorem modThread_again (t : ThreadId) (f : Thread → Thread) : (modThread s t f).again = s.again := by unfold modThread; split <;> rfl
@[simp] theorem modThread_buffered (t : ThreadId) (f : Thread → Thread) : (modThread s t f).buffered = s.buffered := by unfold modThread; split <;> rfl
@[simp] theorem modThread_free (t : ThreadId) (f : Thread → Thread) : (modThread s t f).free = s.free := by unfold modThread; split <;> rfl
@[simp] theorem modThread_token (t : ThreadId) (f : Thread → Thread) : (modThread s t f).token = s.token := by unfold modThread; split <;> rfl
@[simp] theorem modThread_out (t : ThreadId) (f : Thread → Thread) : (modThread s t f).out = s.out := by unfold modThread; split <;> rfl
@[simp] theorem modThread_mem (t : ThreadId) (f : Thread → Thread) : (modThread s t f).mem = s.mem := by unfold modThread; split <;> rfl
@[simp] theorem modThread_bits (t : ThreadId) (f : Thread → Thread) : (modThread s t f).bits = s.bits := by unfold modThread; split <;> rfl
@[simp] theorem modThread_err (t : ThreadId) (f : Thread → Thread) : (modThread s t f).err = s.err := by unfold modThread; split <;> rfl
@[simp] theorem modThread_regs (t : ThreadId) (f : Thread → Thread) : (modThread s t f).regs = s.regs := by unfold modThread; split <;> rfl
@[simp] theorem modThread_eps (t : ThreadId) (f : Thread → Thread) : (modThread s t f).eps = s.eps := by unfold modThread; split <;> rfl
@[simp] theorem modThread_cores (t : ThreadId) (f : Thread → Thread) : (modThread s t f).cores = s.cores := by unfold modThread; split <;> rfl
@[simp] theorem modThread_creels (t : ThreadId) (f : Thread → Thread) : (modThread s t f).creels = s.creels := by unfold modThread; split <;> rfl
@[simp] theorem modThread_teams (t : ThreadId) (f : Thread → Thread) : (modThread s t f).teams = s.teams := by unfold modThread; split <;> rfl
@[simp] theorem modThread_dieRegs (t : ThreadId) (f : Thread → Thread) : (modThread s t f).dieRegs = s.dieRegs := by unfold modThread; split <;> rfl
@[simp] theorem modThread_walks (t : ThreadId) (f : Thread → Thread) : (modThread s t f).walks = s.walks := by unfold modThread; split <;> rfl
@[simp] theorem modThread_waiters (t : ThreadId) (f : Thread → Thread) : (modThread s t f).waiters = s.waiters := by unfold modThread; split <;> rfl
@[simp] theorem modThread_frameVer (t : ThreadId) (f : Thread → Thread) : (modThread s t f).frameVer = s.frameVer := by unfold modThread; split <;> rfl
@[simp] theorem modThread_wall (t : ThreadId) (f : Thread → Thread) : (modThread s t f).wall = s.wall := by unfold modThread; split <;> rfl
@[simp] theorem modThread_wallAgenda (t : ThreadId) (f : Thread → Thread) : (modThread s t f).wallAgenda = s.wallAgenda := by unfold modThread; split <;> rfl
@[simp] theorem modThread_power (t : ThreadId) (f : Thread → Thread) : (modThread s t f).power = s.power := by unfold modThread; split <;> rfl
@[simp] theorem modThread_nv (t : ThreadId) (f : Thread → Thread) : (modThread s t f).nv = s.nv := by unfold modThread; split <;> rfl
@[simp] theorem modThread_sessions (t : ThreadId) (f : Thread → Thread) : (modThread s t f).sessions = s.sessions := by unfold modThread; split <;> rfl
@[simp] theorem modThread_notices (t : ThreadId) (f : Thread → Thread) : (modThread s t f).notices = s.notices := by unfold modThread; split <;> rfl
@[simp] theorem modThread_convs (t : ThreadId) (f : Thread → Thread) : (modThread s t f).convs = s.convs := by unfold modThread; split <;> rfl
@[simp] theorem modThread_launches (t : ThreadId) (f : Thread → Thread) : (modThread s t f).launches = s.launches := by unfold modThread; split <;> rfl
@[simp] theorem modThread_pending (t : ThreadId) (f : Thread → Thread) : (modThread s t f).pending = s.pending := by unfold modThread; split <;> rfl
@[simp] theorem modThread_images (t : ThreadId) (f : Thread → Thread) : (modThread s t f).images = s.images := by unfold modThread; split <;> rfl
@[simp] theorem modThread_tsd (t : ThreadId) (f : Thread → Thread) : (modThread s t f).tsd = s.tsd := by unfold modThread; split <;> rfl
@[simp] theorem modThread_moves (t : ThreadId) (f : Thread → Thread) : (modThread s t f).moves = s.moves := by unfold modThread; split <;> rfl
@[simp] theorem modThread_fwu (t : ThreadId) (f : Thread → Thread) : (modThread s t f).fwu = s.fwu := by unfold modThread; split <;> rfl
@[simp] theorem modThread_boot (t : ThreadId) (f : Thread → Thread) : (modThread s t f).boot = s.boot := by unfold modThread; split <;> rfl
@[simp] theorem modThread_edges (t : ThreadId) (f : Thread → Thread) : (modThread s t f).edges = s.edges := by unfold modThread; split <;> rfl
@[simp] theorem modThread_fences (t : ThreadId) (f : Thread → Thread) : (modThread s t f).fences = s.fences := by unfold modThread; split <;> rfl
@[simp] theorem modThread_late (t : ThreadId) (f : Thread → Thread) : (modThread s t f).late = s.late := by unfold modThread; split <;> rfl
@[simp] theorem modThread_sampled (t : ThreadId) (f : Thread → Thread) : (modThread s t f).sampled = s.sampled := by unfold modThread; split <;> rfl
@[simp] theorem modThread_served (t : ThreadId) (f : Thread → Thread) : (modThread s t f).served = s.served := by unfold modThread; split <;> rfl
@[simp] theorem modThread_tried (t : ThreadId) (f : Thread → Thread) : (modThread s t f).tried = s.tried := by unfold modThread; split <;> rfl
@[simp] theorem modThread_moorage (t : ThreadId) (f : Thread → Thread) : (modThread s t f).moorage = s.moorage := by unfold modThread; split <;> rfl
@[simp] theorem modThread_maskGated (t : ThreadId) (f : Thread → Thread) : (modThread s t f).maskGated = s.maskGated := by unfold modThread; split <;> rfl

/-! ### setRegOf -/

@[simp] theorem setRegOf_cyc (t : ThreadId) (n : Nat) (d : Word) (b : Bool) : (setRegOf s t n d b).cyc = s.cyc := by unfold setRegOf; split <;> rfl
@[simp] theorem setRegOf_inputs (t : ThreadId) (n : Nat) (d : Word) (b : Bool) : (setRegOf s t n d b).inputs = s.inputs := by unfold setRegOf; split <;> rfl
@[simp] theorem setRegOf_agenda (t : ThreadId) (n : Nat) (d : Word) (b : Bool) : (setRegOf s t n d b).agenda = s.agenda := by unfold setRegOf; split <;> rfl
@[simp] theorem setRegOf_turn (t : ThreadId) (n : Nat) (d : Word) (b : Bool) : (setRegOf s t n d b).turn = s.turn := by unfold setRegOf; split <;> rfl
@[simp] theorem setRegOf_hand (t : ThreadId) (n : Nat) (d : Word) (b : Bool) : (setRegOf s t n d b).hand = s.hand := by unfold setRegOf; split <;> rfl
@[simp] theorem setRegOf_cur (t : ThreadId) (n : Nat) (d : Word) (b : Bool) : (setRegOf s t n d b).cur = s.cur := by unfold setRegOf; split <;> rfl
@[simp] theorem setRegOf_word (t : ThreadId) (n : Nat) (d : Word) (b : Bool) : (setRegOf s t n d b).word = s.word := by unfold setRegOf; split <;> rfl
@[simp] theorem setRegOf_high (t : ThreadId) (n : Nat) (d : Word) (b : Bool) : (setRegOf s t n d b).high = s.high := by unfold setRegOf; split <;> rfl
@[simp] theorem setRegOf_again (t : ThreadId) (n : Nat) (d : Word) (b : Bool) : (setRegOf s t n d b).again = s.again := by unfold setRegOf; split <;> rfl
@[simp] theorem setRegOf_buffered (t : ThreadId) (n : Nat) (d : Word) (b : Bool) : (setRegOf s t n d b).buffered = s.buffered := by unfold setRegOf; split <;> rfl
@[simp] theorem setRegOf_free (t : ThreadId) (n : Nat) (d : Word) (b : Bool) : (setRegOf s t n d b).free = s.free := by unfold setRegOf; split <;> rfl
@[simp] theorem setRegOf_token (t : ThreadId) (n : Nat) (d : Word) (b : Bool) : (setRegOf s t n d b).token = s.token := by unfold setRegOf; split <;> rfl
@[simp] theorem setRegOf_out (t : ThreadId) (n : Nat) (d : Word) (b : Bool) : (setRegOf s t n d b).out = s.out := by unfold setRegOf; split <;> rfl
@[simp] theorem setRegOf_mem (t : ThreadId) (n : Nat) (d : Word) (b : Bool) : (setRegOf s t n d b).mem = s.mem := by unfold setRegOf; split <;> rfl
@[simp] theorem setRegOf_bits (t : ThreadId) (n : Nat) (d : Word) (b : Bool) : (setRegOf s t n d b).bits = s.bits := by unfold setRegOf; split <;> rfl
@[simp] theorem setRegOf_err (t : ThreadId) (n : Nat) (d : Word) (b : Bool) : (setRegOf s t n d b).err = s.err := by unfold setRegOf; split <;> rfl
@[simp] theorem setRegOf_threads (t : ThreadId) (n : Nat) (d : Word) (b : Bool) : (setRegOf s t n d b).threads = s.threads := by unfold setRegOf; split <;> rfl
@[simp] theorem setRegOf_eps (t : ThreadId) (n : Nat) (d : Word) (b : Bool) : (setRegOf s t n d b).eps = s.eps := by unfold setRegOf; split <;> rfl
@[simp] theorem setRegOf_cores (t : ThreadId) (n : Nat) (d : Word) (b : Bool) : (setRegOf s t n d b).cores = s.cores := by unfold setRegOf; split <;> rfl
@[simp] theorem setRegOf_creels (t : ThreadId) (n : Nat) (d : Word) (b : Bool) : (setRegOf s t n d b).creels = s.creels := by unfold setRegOf; split <;> rfl
@[simp] theorem setRegOf_teams (t : ThreadId) (n : Nat) (d : Word) (b : Bool) : (setRegOf s t n d b).teams = s.teams := by unfold setRegOf; split <;> rfl
@[simp] theorem setRegOf_dieRegs (t : ThreadId) (n : Nat) (d : Word) (b : Bool) : (setRegOf s t n d b).dieRegs = s.dieRegs := by unfold setRegOf; split <;> rfl
@[simp] theorem setRegOf_walks (t : ThreadId) (n : Nat) (d : Word) (b : Bool) : (setRegOf s t n d b).walks = s.walks := by unfold setRegOf; split <;> rfl
@[simp] theorem setRegOf_waiters (t : ThreadId) (n : Nat) (d : Word) (b : Bool) : (setRegOf s t n d b).waiters = s.waiters := by unfold setRegOf; split <;> rfl
@[simp] theorem setRegOf_frameVer (t : ThreadId) (n : Nat) (d : Word) (b : Bool) : (setRegOf s t n d b).frameVer = s.frameVer := by unfold setRegOf; split <;> rfl
@[simp] theorem setRegOf_wall (t : ThreadId) (n : Nat) (d : Word) (b : Bool) : (setRegOf s t n d b).wall = s.wall := by unfold setRegOf; split <;> rfl
@[simp] theorem setRegOf_wallAgenda (t : ThreadId) (n : Nat) (d : Word) (b : Bool) : (setRegOf s t n d b).wallAgenda = s.wallAgenda := by unfold setRegOf; split <;> rfl
@[simp] theorem setRegOf_power (t : ThreadId) (n : Nat) (d : Word) (b : Bool) : (setRegOf s t n d b).power = s.power := by unfold setRegOf; split <;> rfl
@[simp] theorem setRegOf_nv (t : ThreadId) (n : Nat) (d : Word) (b : Bool) : (setRegOf s t n d b).nv = s.nv := by unfold setRegOf; split <;> rfl
@[simp] theorem setRegOf_sessions (t : ThreadId) (n : Nat) (d : Word) (b : Bool) : (setRegOf s t n d b).sessions = s.sessions := by unfold setRegOf; split <;> rfl
@[simp] theorem setRegOf_notices (t : ThreadId) (n : Nat) (d : Word) (b : Bool) : (setRegOf s t n d b).notices = s.notices := by unfold setRegOf; split <;> rfl
@[simp] theorem setRegOf_convs (t : ThreadId) (n : Nat) (d : Word) (b : Bool) : (setRegOf s t n d b).convs = s.convs := by unfold setRegOf; split <;> rfl
@[simp] theorem setRegOf_launches (t : ThreadId) (n : Nat) (d : Word) (b : Bool) : (setRegOf s t n d b).launches = s.launches := by unfold setRegOf; split <;> rfl
@[simp] theorem setRegOf_pending (t : ThreadId) (n : Nat) (d : Word) (b : Bool) : (setRegOf s t n d b).pending = s.pending := by unfold setRegOf; split <;> rfl
@[simp] theorem setRegOf_images (t : ThreadId) (n : Nat) (d : Word) (b : Bool) : (setRegOf s t n d b).images = s.images := by unfold setRegOf; split <;> rfl
@[simp] theorem setRegOf_tsd (t : ThreadId) (n : Nat) (d : Word) (b : Bool) : (setRegOf s t n d b).tsd = s.tsd := by unfold setRegOf; split <;> rfl
@[simp] theorem setRegOf_moves (t : ThreadId) (n : Nat) (d : Word) (b : Bool) : (setRegOf s t n d b).moves = s.moves := by unfold setRegOf; split <;> rfl
@[simp] theorem setRegOf_fwu (t : ThreadId) (n : Nat) (d : Word) (b : Bool) : (setRegOf s t n d b).fwu = s.fwu := by unfold setRegOf; split <;> rfl
@[simp] theorem setRegOf_boot (t : ThreadId) (n : Nat) (d : Word) (b : Bool) : (setRegOf s t n d b).boot = s.boot := by unfold setRegOf; split <;> rfl
@[simp] theorem setRegOf_edges (t : ThreadId) (n : Nat) (d : Word) (b : Bool) : (setRegOf s t n d b).edges = s.edges := by unfold setRegOf; split <;> rfl
@[simp] theorem setRegOf_fences (t : ThreadId) (n : Nat) (d : Word) (b : Bool) : (setRegOf s t n d b).fences = s.fences := by unfold setRegOf; split <;> rfl
@[simp] theorem setRegOf_late (t : ThreadId) (n : Nat) (d : Word) (b : Bool) : (setRegOf s t n d b).late = s.late := by unfold setRegOf; split <;> rfl
@[simp] theorem setRegOf_sampled (t : ThreadId) (n : Nat) (d : Word) (b : Bool) : (setRegOf s t n d b).sampled = s.sampled := by unfold setRegOf; split <;> rfl
@[simp] theorem setRegOf_served (t : ThreadId) (n : Nat) (d : Word) (b : Bool) : (setRegOf s t n d b).served = s.served := by unfold setRegOf; split <;> rfl
@[simp] theorem setRegOf_tried (t : ThreadId) (n : Nat) (d : Word) (b : Bool) : (setRegOf s t n d b).tried = s.tried := by unfold setRegOf; split <;> rfl
@[simp] theorem setRegOf_moorage (t : ThreadId) (n : Nat) (d : Word) (b : Bool) : (setRegOf s t n d b).moorage = s.moorage := by unfold setRegOf; split <;> rfl
@[simp] theorem setRegOf_maskGated (t : ThreadId) (n : Nat) (d : Word) (b : Bool) : (setRegOf s t n d b).maskGated = s.maskGated := by unfold setRegOf; split <;> rfl

/-! ## Threads and registers -/

/-- The thread of a slot after a change of a thread: only that slot's, and a free slot stays free. -/
theorem find_modThread (t u : ThreadId) (f : Thread → Thread) :
    (modThread s t f).threads.find u = if t = u then (s.threads.find u).map f else s.threads.find u := by
  unfold modThread
  cases h : s.threads.find t with
  | none =>
    by_cases h2 : t = u
    · subst h2; simp [h]
    · simp [h2]
  | some th =>
    simp only [SMap.find_put]
    by_cases h2 : t = u
    · subst h2; simp [h]
    · simp [h2]

/-- A thread that stands in its slot, changed. -/
theorem threadOf_modThread_same (t : ThreadId) (f : Thread → Thread) (h : (s.threads.find t).isSome = true) :
    threadOf (modThread s t f) t = f (threadOf s t) := by
  unfold threadOf
  rw [find_modThread, if_pos rfl]
  cases h2 : s.threads.find t with
  | none => simp [h2] at h
  | some th => rfl

/-- Another slot's thread is not touched. -/
theorem threadOf_modThread_other (t u : ThreadId) (f : Thread → Thread) (h : t ≠ u) :
    threadOf (modThread s t f) u = threadOf s u := by
  unfold threadOf
  rw [find_modThread, if_neg h]

/-- A write of a register does not touch the threads. -/
@[simp] theorem threadOf_setRegOf (t u : ThreadId) (n : Nat) (d : Word) (b : Bool) :
    threadOf (setRegOf s t n d b) u = threadOf s u := by
  unfold threadOf
  rw [setRegOf_threads]

/-- g0 reads as zero (R164). -/
@[simp] theorem regOf_zero (t : ThreadId) : regOf s t 0 = RegEntry.zero := rfl

/-- A register written reads as written, with its residue formed anew (R135). -/
theorem regOf_setRegOf_same (t : ThreadId) (n : Nat) (d : Word) (b : Bool) (h : n ≠ 0) :
    regOf (setRegOf s t n d b) t n = mkEntry d b := by
  unfold regOf
  rw [if_neg h, threadOf_setRegOf]
  unfold setRegOf
  rw [if_neg h]
  simp

/-- The entry of a register written, and every other entry. -/
theorem regs_setRegOf (t : ThreadId) (n : Nat) (d : Word) (b : Bool) (k : CoreId × Nat) :
    (setRegOf s t n d b).regs.get k RegEntry.zero =
      if n ≠ 0 ∧ (t.core, (threadOf s t).base + n) = k then mkEntry d b else s.regs.get k RegEntry.zero := by
  unfold setRegOf
  by_cases h : n = 0
  · simp [h]
  · rw [if_neg h]
    simp [h]

end Sys2Proof.Machine
end

