-- ==== Sys2Proof/Laws/Ops.lean ====
section
/-! SUPPORT. What the shared operations do, said once: the checks of an issue, the change of the current thread, completing,
and the register instructions built from them. -/

namespace Sys2Proof.Machine

variable (s : State)

/-! ## The current thread -/

/-- A thread in its slot is what `th` answers. -/
theorem find_cur {s : State} (h : (s.threads.find s.cur).isSome = true) : s.threads.find s.cur = some s.th := by
  unfold State.th threadOf
  cases h2 : s.threads.find s.cur with
  | none => simp [h2] at h
  | some th => rfl

/-- The current thread changed, when one stands in the slot. -/
theorem th_mod {s : State} (f : Thread → Thread) (h : (s.threads.find s.cur).isSome = true) :
    (s.mod f).th = f s.th := by
  unfold State.mod State.th
  rw [modThread_cur]
  exact threadOf_modThread_same s s.cur f h

/-- Only the current thread's slot is touched. -/
theorem find_mod_other (f : Thread → Thread) (u : ThreadId) (h : u ≠ s.cur) :
    (s.mod f).threads.find u = s.threads.find u := by
  unfold State.mod
  rw [find_modThread, if_neg (Ne.symm h)]

/-- A change of the current thread changes nothing but the threads. -/
theorem mod_eq (f : Thread → Thread) : s.mod f = { s with threads := (s.mod f).threads } := by
  unfold State.mod modThread
  split <;> rfl

/-- A write of a register changes nothing but the registers. -/
theorem setRegOf_eq (t : ThreadId) (n : Nat) (d : Word) (b : Bool) :
    setRegOf s t n d b = { s with regs := (setRegOf s t n d b).regs } := by
  unfold setRegOf
  split <;> rfl

/-- Flags and SRDC are changes of the current thread's STATUS. -/
theorem flags_eq (f : BitVec 8) : s.flags f = s.mod fun th => { th with status := orFlags th.status f } := rfl

/-! ## Issuing -/

/-- An instruction whose own checks pass is performed where its issue conditions hold. -/
theorem issue_of_issues {s : State} {rd wr : List (BitVec 7)} (h : Issues s rd wr) (ok : Bool) (hok : ok = true)
    (body : State → State) : issue s rd wr ok body = .next (body s) := by
  obtain ⟨h1, h2, h3, h4⟩ := h
  unfold issue
  rw [find_cur h1]
  have h5 : rd.all (residueOk s s.cur) = true := List.all_eq_true.mpr h3
  simp [hok, h2, h4, h5]

/-- An issue comes to no fault but that of an empty slot, and to no refusal: it raises a trap, consumes an error, waits a
slot, or is performed. -/
theorem issue_cases (rd wr : List (BitVec 7)) (ok : Bool) (body : State → State) :
    ((s.threads.find s.cur).isSome = false ∧ issue s rd wr ok body = .fault .noThread) ∨
      issue s rd wr ok body = .next (raise s (trapIllegal s)) ∨
      issue s rd wr ok body = .next (consumeError (residueError s s.cur rd) s.cur) ∨
      issue s rd wr ok body = .next (regDelay s) ∨ issue s rd wr ok body = .next (body s) := by
  unfold issue
  cases s.threads.find s.cur with
  | none => simp
  | some th =>
    simp only []
    split
    · simp
    · split
      · simp
      · split <;> simp

/-- A field, a privilege or a region check that fails raises ILLEGAL (R265, R274). -/
theorem issue_illegal {s : State} (h : (s.threads.find s.cur).isSome = true) (rd wr : List (BitVec 7))
    (body : State → State) : issue s rd wr false body = .next (raise s (trapIllegal s)) := by
  unfold issue
  rw [find_cur h]
  simp

/-! ## Completing -/

/-- Completing changes only the threads. -/
theorem goto_eq (pc : BitVec 57) (n : Nat) : goto s pc n = { s with threads := (goto s pc n).threads } := mod_eq s _

theorem retire_eq (cp : Bool) (n : Nat) : retire s cp n = { s with threads := (retire s cp n).threads } := goto_eq s _ n

@[simp] theorem goto_cur (pc : BitVec 57) (n : Nat) : (goto s pc n).cur = s.cur := by rw [goto_eq]
@[simp] theorem goto_regs (pc : BitVec 57) (n : Nat) : (goto s pc n).regs = s.regs := by rw [goto_eq]
@[simp] theorem goto_mem (pc : BitVec 57) (n : Nat) : (goto s pc n).mem = s.mem := by rw [goto_eq]
@[simp] theorem retire_cur (cp : Bool) (n : Nat) : (retire s cp n).cur = s.cur := goto_cur s _ n
@[simp] theorem retire_regs (cp : Bool) (n : Nat) : (retire s cp n).regs = s.regs := goto_regs s _ n
@[simp] theorem retire_mem (cp : Bool) (n : Nat) : (retire s cp n).mem = s.mem := goto_mem s _ n

/-- A change of registers and then of the current thread, as the register instructions make it, has the frame of g(d) and
leaves what the change of the thread says. -/
theorem wrote_of {s : State} {d : BitVec 7} {v : Word} {b : Bool} (f : Thread → Thread)
    (h : (s.threads.find s.cur).isSome = true) (hb : (f s.th).base = s.th.base) (hw : (f s.th).wait = .run)
    (hs : SameThread s.th (f s.th)) :
    Wrote s ((s.setGS d v b).mod f) d v b (f s.th).pc (f s.th).status := by
  have h1 : (s.setGS d v b) = { s with regs := (s.setGS d v b).regs } := setRegOf_eq s s.cur d.toNat v b
  have h2 : ((s.setGS d v b).threads.find (s.setGS d v b).cur).isSome = true := by rw [h1]; exact h
  have h3 : (s.setGS d v b).th = s.th := by unfold State.th threadOf; rw [h1]
  have h4 : ((s.setGS d v b).mod f).th = f s.th := by rw [th_mod f h2, h3]
  have h5 := mod_eq (s.setGS d v b) f
  have hc : (s.setGS d v b).cur = s.cur := by rw [h1]
  have hc2 : ((s.setGS d v b).mod f).cur = s.cur := by rw [h5]; exact hc
  have hr : ((s.setGS d v b).mod f).regs = (s.setGS d v b).regs := by rw [h5]
  refine ⟨?_, rfl, by rw [h4], by rw [h4], by rw [h4]; exact hw, ?_, ?_, ?_, ?_⟩
  · intro hd
    have hn : d.toNat ≠ 0 := fun e => hd (BitVec.eq_of_toNat_eq (by simpa using e))
    unfold regOf
    rw [if_neg hn, hr, hc2]
    have : threadOf ((s.setGS d v b).mod f) s.cur = f s.th := by rw [← h4]; unfold State.th; rw [hc2]
    rw [this, hb]
    unfold State.setGS
    rw [regs_setRegOf]
    simp only [ne_eq, hn, not_false_eq_true, true_and]
    exact if_pos rfl
  · intro c n hcn
    rw [hr]
    unfold State.setGS
    rw [regs_setRegOf]
    refine if_neg ?_
    rintro ⟨hn, he⟩
    rcases hcn with rfl | hne
    · exact hn rfl
    · exact hne he.symm
  · rw [h4]; exact hs
  · intro u hu
    rw [find_mod_other _ f u (by rw [hc]; exact hu), h1]
  · unfold State.mod modThread State.setGS setRegOf
    split <;> split <;> rfl

/-- A change of the current thread alone, which keeps its registers and fields, has the frame of an instruction that writes
nothing. -/
theorem frame_mod {s : State} (f : Thread → Thread) (h : (s.threads.find s.cur).isSome = true)
    (hs : SameThread s.th (f s.th)) : FrameReg s (s.mod f) 0 := by
  refine ⟨fun c n _ => ?_, ?_, fun u hu => find_mod_other s f u hu, ?_⟩
  · rw [mod_eq]
  · rw [th_mod f h]; exact hs
  · unfold State.mod modThread
    split <;> rfl

/-- A beat that leaves others to come keeps the PC and STATUS, and its thread's next issue is later. -/
theorem nextBeat_spec {s : State} (n : Nat) (h : (s.threads.find s.cur).isSome = true) :
    (nextBeat s n).th.going = true ∧ (nextBeat s n).th.pc = s.th.pc ∧ (nextBeat s n).th.status = s.th.status ∧
      s.cyc < (nextBeat s n).th.ready ∧ FrameReg s (nextBeat s n) 0 := by
  refine ⟨?_, ?_, ?_, ?_, frame_mod _ h rfl⟩ <;> (unfold nextBeat; rw [th_mod _ h])
  · rfl
  · rfl
  · rfl
  · show s.cyc < nextOwn s.cyc s.cur.slot + 16 * n
    simp only [nextOwn]
    split <;> omega

/-- The plain completion of a register instruction. -/
theorem wrote_retire {s : State} (d : BitVec 7) (v : Word) (b cp : Bool) (n : Nat)
    (h : (s.threads.find s.cur).isSome = true) :
    Wrote s (retire (s.setGS d v b) cp n) d v b (pcAfter s.th.pc cp) s.th.status := by
  have h1 : (s.setGS d v b).th = s.th := by unfold State.th threadOf State.setGS; simp
  unfold retire goto
  rw [h1]
  exact wrote_of _ h rfl rfl rfl

/-- The completion of an instruction that writes no register. -/
theorem passed_retire {s : State} (cp : Bool) (n : Nat) (h : (s.threads.find s.cur).isSome = true) :
    Passed s (retire s cp n) (pcAfter s.th.pc cp) := wrote_retire 0 0 false cp n h

end Sys2Proof.Machine
end

