-- ==== Sys2Proof/Laws/PerInstr.lean ====
section
/-! SUPPORT. R261 and R264, said of every instruction as syntax: a 32-bit slot has bit 0 set, a compact parcel has bit 0
clear, and an event has no code at all. -/

namespace Sys2Proof.Laws.CodeForm

/-- The form bit of a code (R261): 1 in a slot, 0 in a compact parcel. -/
def formBit (c : Code) : Prop :=
  match c with
  | .slot w => w.getLsbD 0 = true
  | .parcel p => p.getLsbD 0 = false
  | .none => True

/-- R261, R264. The code of an instruction has its form bit. -/
def Statement (i : Instr) : Prop := formBit (encode i)

/-- A slot whose lowest field is odd has its form bit set. -/
theorem slot_form {m : Nat} (x : BitVec m) {n : Nat} (o : BitVec n) (k : m + n = 32) (h : o.getLsbD 0 = true)
    (hn : 0 < n) : formBit (.slot ((x ++ o).cast k)) := by
  show ((x ++ o).cast k).getLsbD 0 = true
  rw [BitVec.getLsbD_cast, BitVec.getLsbD_append, if_pos hn, h]

/-- A parcel whose lowest field is even has its form bit clear. -/
theorem parcel_form {m : Nat} (x : BitVec m) {n : Nat} (o : BitVec n) (k : m + n = 16) (h : o.getLsbD 0 = false)
    (hn : 0 < n) : formBit (.parcel ((x ++ o).cast k)) := by
  show ((x ++ o).cast k).getLsbD 0 = false
  rw [BitVec.getLsbD_cast, BitVec.getLsbD_append, if_pos hn, h]

theorem moorReqRise : Statement (.moorReqRise) := trivial
theorem moorReqFall : Statement (.moorReqFall) := trivial
theorem powerGood : Statement (.powerGood) := trivial
theorem supplyRemoved : Statement (.supplyRemoved) := trivial
theorem bringupPhaseComplete (r : PhaseReport) : Statement (.bringupPhaseComplete r) := trivial
theorem pwrCmdStandby : Statement (.pwrCmdStandby) := trivial
theorem pwrCmdWake : Statement (.pwrCmdWake) := trivial
theorem pwrCmdIdle : Statement (.pwrCmdIdle) := trivial
theorem pwrCmdRun : Statement (.pwrCmdRun) := trivial
theorem pwrCmdMoor : Statement (.pwrCmdMoor) := trivial
theorem pwrCmdResume : Statement (.pwrCmdResume) := trivial
theorem pwrCmdInvalid (c : Byte) : Statement (.pwrCmdInvalid c) := trivial
theorem standbyEntryComplete : Statement (.standbyEntryComplete) := trivial
theorem idleEntryComplete : Statement (.idleEntryComplete) := trivial
theorem runEntryComplete : Statement (.runEntryComplete) := trivial
theorem pwrLimitWrite (v : Word) : Statement (.pwrLimitWrite v) := trivial
theorem pwrMaskWrite (n : Nat) (v : Word) : Statement (.pwrMaskWrite n v) := trivial
theorem powerWindowEnd (watts : BitVec 16) : Statement (.powerWindowEnd watts) := trivial
theorem moorEntryComplete : Statement (.moorEntryComplete) := trivial
theorem moorEntryTimeout (lost : List TeamKey) : Statement (.moorEntryTimeout lost) := trivial
theorem resumptionComplete (bad : List BankRef) : Statement (.resumptionComplete bad) := trivial
theorem dieLinkReplay (edge : Nat) (link : Nat) : Statement (.dieLinkReplay edge link) := trivial
theorem dieLinkRetrain (edge : Nat) (link : Nat) : Statement (.dieLinkRetrain edge link) := trivial
theorem dieLinkRetrainEnd (edge : Nat) (link : Nat) (ok : Bool) : Statement (.dieLinkRetrainEnd edge link ok) :=
  trivial
theorem ethFrameReceive (port : Nat) (f : EthFrame) : Statement (.ethFrameReceive port f) := trivial
theorem pfcPauseReceive (port : Nat) (prio : Nat) (pause : Bool) : Statement (.pfcPauseReceive port prio pause) :=
  trivial
theorem arpRequest (port : Nat) (ip : BitVec 32) : Statement (.arpRequest port ip) := trivial
theorem neighbourSolicitation (port : Nat) (ip : BitVec 128) : Statement (.neighbourSolicitation port ip) := trivial
theorem ethLinkUp (port : Nat) : Statement (.ethLinkUp port) := trivial
theorem ethCfgWrite (port : Nat) (v : Word) : Statement (.ethCfgWrite port v) := trivial
theorem ethHostPersist : Statement (.ethHostPersist) := trivial
theorem ethHostPortWrite (p : BitVec 4) : Statement (.ethHostPortWrite p) := trivial
theorem modSelfWrite (m : Byte) : Statement (.modSelfWrite m) := trivial
theorem walkEntryReply (walk : Nat) (entry : Word) (status : Nat) : Statement (.walkEntryReply walk entry status) :=
  trivial
theorem tlbMigEntryExpiry (c : CreelId) (asid : BitVec 16) (vpage : Nat) (size : Nat) : Statement (.tlbMigEntryExpiry c asid vpage size) :=
  trivial
theorem tsdCtlShootdown (t : ThreadId) (v : Word) : Statement (.tsdCtlShootdown t v) := trivial
theorem shootdownReceive (c : CreelId) (sd : Shootdown) : Statement (.shootdownReceive c sd) := trivial
theorem shootdownCreelDone (c : CreelId) (sd : Shootdown) : Statement (.shootdownCreelDone c sd) := trivial
theorem shootdownCompletion (t : ThreadId) : Statement (.shootdownCompletion t) := trivial
theorem migrationEpochEnd (die : Nat) : Statement (.migrationEpochEnd die) := trivial
theorem migrationLineCopy (die : Nat) (move : Nat) : Statement (.migrationLineCopy die move) := trivial
theorem migrationCommit (die : Nat) (move : Nat) : Statement (.migrationCommit die move) := trivial
theorem migrationFrameRelease (die : Nat) (ring : Nat) (frame : Nat) : Statement (.migrationFrameRelease die ring frame) :=
  trivial
theorem migFreeWrite (die : Nat) (ring : Nat) (v : Word) : Statement (.migFreeWrite die ring v) := trivial
theorem migRbaseWrite (die : Nat) (ring : Nat) (v : Word) : Statement (.migRbaseWrite die ring v) := trivial
theorem towlineData (session : Nat) (seq : BitVec 32) (acknum : BitVec 32) (ece : Bool) (m : Msg) : Statement (.towlineData session seq acknum ece m) :=
  trivial
theorem towlineAck (session : Nat) (acknum : BitVec 32) (ece : Bool) : Statement (.towlineAck session acknum ece) :=
  trivial
theorem towlineOpen (session : Nat) : Statement (.towlineOpen session) := trivial
theorem towlineReset (session : Nat) : Statement (.towlineReset session) := trivial
theorem towlineRetransmitTimeout (session : Nat) (seq : BitVec 32) : Statement (.towlineRetransmitTimeout session seq) :=
  trivial
theorem regRead (addr : Word) : Statement (.regRead addr) := trivial
theorem regWrite (addr : Word) (v : Word) : Statement (.regWrite addr v) := trivial
theorem fwWrite (slot : Byte) (off : Nat) (data : List Byte) : Statement (.fwWrite slot off data) := trivial
theorem fwActivate : Statement (.fwActivate) := trivial
theorem noticeAck : Statement (.noticeAck) := trivial
theorem launch (rec : List Byte) : Statement (.launch rec) := trivial
theorem bulkRead (server : BitVec 32) (pa : Nat) (len : Nat) : Statement (.bulkRead server pa len) := trivial
theorem bulkWrite (server : BitVec 32) (pa : Nat) (data : List Byte) : Statement (.bulkWrite server pa data) :=
  trivial
theorem getVersion : Statement (.getVersion) := trivial
theorem getCapabilities : Statement (.getCapabilities) := trivial
theorem negotiateAlgorithms : Statement (.negotiateAlgorithms) := trivial
theorem getDigests : Statement (.getDigests) := trivial
theorem getCertificate (slot : Nat) (off : Nat) (len : Nat) : Statement (.getCertificate slot off len) := trivial
theorem challenge (nonce : List Byte) : Statement (.challenge nonce) := trivial
theorem getMeasurements (index : Nat) (sign : Bool) (nonce : List Byte) : Statement (.getMeasurements index sign nonce) :=
  trivial
theorem spdmUnsupported (code : Byte) : Statement (.spdmUnsupported code) := trivial
theorem fwuQuiesced : Statement (.fwuQuiesced) := trivial
theorem fwuSigDone (t : ThreadId) : Statement (.fwuSigDone t) := trivial
theorem fwuSigFail (t : ThreadId) : Statement (.fwuSigFail t) := trivial
theorem fwuHandoverTimeout (upd : Nat) : Statement (.fwuHandoverTimeout upd) := trivial
theorem fwHbWrite (t : ThreadId) (seq : BitVec 16) : Statement (.fwHbWrite t seq) := trivial
theorem fwuHeartbeatTimeout (upd : Nat) : Statement (.fwuHeartbeatTimeout upd) := trivial
theorem teamPlacement (k : TeamKey) : Statement (.teamPlacement k) := trivial
theorem queueExamination (c : CreelId) : Statement (.queueExamination c) := trivial
theorem gateTestReply (c : CreelId) (ring : Nat) (unit : Nat) (gate : Nat) (full : Bool) : Statement (.gateTestReply c ring unit gate full) :=
  trivial
theorem dispatchEnterRotation (t : ThreadId) : Statement (.dispatchEnterRotation t) := trivial
theorem stealRequest (victim : CreelId) (thief : CreelId) (k : TeamKey) : Statement (.stealRequest victim thief k) :=
  trivial
theorem stealReply (thief : CreelId) (victim : CreelId) (k : TeamKey) (ring : Nat) (stamp : Nat) (pkt : List Byte) : Statement (.stealReply thief victim k ring stamp pkt) :=
  trivial
theorem stealBackoffExpiry (c : CreelId) : Statement (.stealBackoffExpiry c) := trivial
theorem doneSend (c : CreelId) (k : TeamKey) : Statement (.doneSend c k) := trivial
theorem doneReceive (c : CreelId) (k : TeamKey) (word : BitVec 32) : Statement (.doneReceive c k word) := trivial
theorem preReqEstimate (v : Word) : Statement (.preReqEstimate v) := trivial
theorem preReqSave (v : Word) : Statement (.preReqSave v) := trivial
theorem preReqDiscard (v : Word) : Statement (.preReqDiscard v) := trivial
theorem preReqDrain (v : Word) : Statement (.preReqDrain v) := trivial
theorem preReqResume (v : Word) : Statement (.preReqResume v) := trivial
theorem preemptBoundaryStop (k : TeamKey) : Statement (.preemptBoundaryStop k) := trivial
theorem saveComplete (k : TeamKey) : Statement (.saveComplete k) := trivial
theorem snapshotMarker (core : CoreId) (ep : Nat) : Statement (.snapshotMarker core ep) := trivial
theorem teamRelaunch (k : TeamKey) : Statement (.teamRelaunch k) := trivial
theorem restoreComplete (k : TeamKey) : Statement (.restoreComplete k) := trivial
theorem retCtlRetire (c : CreelId) (v : Word) : Statement (.retCtlRetire c v) := trivial
theorem sluiceStart (c : CreelId) : Statement (.sluiceStart c) := trivial
theorem sluiceWaitfitDone (c : CreelId) : Statement (.sluiceWaitfitDone c) := trivial
theorem sluicePinDone (c : CreelId) : Statement (.sluicePinDone c) := trivial
theorem sluiceUnitCopy (c : CreelId) : Statement (.sluiceUnitCopy c) := trivial
theorem bceWrite (c : CreelId) (reg : Nat) (v : Word) : Statement (.bceWrite c reg v) := trivial
theorem errorCounterWrite (die : Nat) (n : Nat) (v : Word) : Statement (.errorCounterWrite die n v) := trivial
theorem pairedHoldTimeout (t : ThreadId) (item : Nat) : Statement (.pairedHoldTimeout t item) := trivial
theorem fenceBoundary (k : TeamKey) : Statement (.fenceBoundary k) := trivial
theorem fenceStop (k : TeamKey) : Statement (.fenceStop k) := trivial
theorem fenceReset (k : TeamKey) : Statement (.fenceReset k) := trivial
theorem boundaryNack (m : Msg) : Statement (.boundaryNack m) := trivial
theorem nackReceive (m : Msg) : Statement (.nackReceive m) := trivial
theorem dbgHalt (c : CreelId) : Statement (.dbgHalt c) := trivial
theorem dbgResume (c : CreelId) : Statement (.dbgResume c) := trivial
theorem dbgStep (t : ThreadId) : Statement (.dbgStep t) := trivial
theorem dbgRegRead (c : CreelId) (off : Nat) : Statement (.dbgRegRead c off) := trivial
theorem dbgRegWrite (c : CreelId) (off : Nat) (v : Word) : Statement (.dbgRegWrite c off v) := trivial
theorem dbgThreadRegRead (t : ThreadId) (n : Nat) : Statement (.dbgThreadRegRead t n) := trivial
theorem dbgDumpTeam (t : ThreadId) (level : Nat) : Statement (.dbgDumpTeam t level) := trivial
theorem dbgDumpCreel (c : CreelId) : Statement (.dbgDumpCreel c) := trivial
theorem haltCrossTrigger (c : CreelId) : Statement (.haltCrossTrigger c) := trivial
theorem debugResumePoint (c : CreelId) : Statement (.debugResumePoint c) := trivial
theorem debugStepComplete (t : ThreadId) : Statement (.debugStepComplete t) := trivial
theorem sampleTick (c : CreelId) : Statement (.sampleTick c) := trivial
theorem slotStart (t : ThreadId) (v : Word) : Statement (.slotStart t v) := trivial
theorem chpoolWrite (core : CoreId) (v : Word) : Statement (.chpoolWrite core v) := trivial
theorem statusWrite (t : ThreadId) (v : Word) : Statement (.statusWrite t v) := trivial
theorem devDataRead (t : ThreadId) (d : BitVec 7) : Statement (.devDataRead t d) := trivial
theorem devDataWrite (t : ThreadId) (v : Word) : Statement (.devDataWrite t v) := trivial
theorem registerWrite (t : ThreadId) (n : BitVec 11) (v : Word) : Statement (.registerWrite t n v) := trivial
theorem bargeTake (core : CoreId) : Statement (.bargeTake core) := trivial
theorem handlerStart (core : CoreId) (ep : Nat) : Statement (.handlerStart core ep) := trivial
theorem icacheLineFill (t : ThreadId) (va : Nat) (pa : Nat) (bytes : List Byte) (status : Nat) : Statement (.icacheLineFill t va pa bytes status) :=
  trivial
theorem repBufferBeat (t : ThreadId) : Statement (.repBufferBeat t) := trivial
theorem wfeTimeout (t : ThreadId) (since : Nat) : Statement (.wfeTimeout t since) := trivial
theorem userMessageArrival (m : Msg) : Statement (.userMessageArrival m) := trivial
theorem connectMessage (m : Msg) : Statement (.connectMessage m) := trivial
theorem acceptMessage (m : Msg) : Statement (.acceptMessage m) := trivial
theorem creditReturn (m : Msg) : Statement (.creditReturn m) := trivial
theorem delegateTransfer (m : Msg) : Statement (.delegateTransfer m) := trivial
theorem taken (m : Msg) : Statement (.taken m) := trivial
theorem redirect (m : Msg) : Statement (.redirect m) := trivial
theorem redirected (m : Msg) : Statement (.redirected m) := trivial
theorem fwdEnd (m : Msg) : Statement (.fwdEnd m) := trivial
theorem closedNotice (m : Msg) : Statement (.closedNotice m) := trivial
theorem inlineCodeRun (core : CoreId) (ep : Nat) : Statement (.inlineCodeRun core ep) := trivial
theorem memLoad (q : MemReq) : Statement (.memLoad q) := trivial
theorem memStore (q : MemReq) : Statement (.memStore q) := trivial
theorem memAtomic (q : MemReq) : Statement (.memAtomic q) := trivial
theorem memSubByteStore (q : MemReq) : Statement (.memSubByteStore q) := trivial
theorem memDestAdd (q : MemReq) : Statement (.memDestAdd q) := trivial
theorem memDestMin (q : MemReq) : Statement (.memDestMin q) := trivial
theorem memDestMax (q : MemReq) : Statement (.memDestMax q) := trivial
theorem memFullEmpty (q : MemReq) : Statement (.memFullEmpty q) := trivial
theorem memoryReply (r : MemReply) : Statement (.memoryReply r) := trivial
theorem waitCancel (q : MemReq) : Statement (.waitCancel q) := trivial
theorem waiterStoreResend (q : MemReq) : Statement (.waiterStoreResend q) := trivial
theorem treq (m : Msg) : Statement (.treq m) := trivial
theorem twrite (m : Msg) : Statement (.twrite m) := trivial
theorem tbye (m : Msg) : Statement (.tbye m) := trivial
theorem autloadComplete (t : ThreadId) : Statement (.autloadComplete t) := trivial
theorem enqRemoteArrival (t : ThreadId) (k : TeamKey) (pkt : List Byte) : Statement (.enqRemoteArrival t k pkt) :=
  trivial
theorem enqAnswer (t : ThreadId) (code : Nat) : Statement (.enqAnswer t code) := trivial
theorem engineCommandComplete (c : CreelId) (eng : Nat) (cmd : Nat) : Statement (.engineCommandComplete c eng cmd) :=
  trivial
theorem matrixAccept (core : CoreId) : Statement (.matrixAccept core) := trivial
theorem matrixCommit (core : CoreId) : Statement (.matrixCommit core) := trivial
theorem mteamBlockArrival (core : CoreId) (blk : MBlock) : Statement (.mteamBlockArrival core blk) := trivial
theorem mswapMessageArrival (core : CoreId) (m : SwapMsg) : Statement (.mswapMessageArrival core m) := trivial
theorem bootDiscoveryFlood (die : Nat) (v : Word) : Statement (.bootDiscoveryFlood die v) := trivial
theorem bootImageFlood (die : Nat) (v : Word) : Statement (.bootImageFlood die v) := trivial
theorem floodFlitArrival (c : CreelId) (port : Nat) (f : FloodFlit) : Statement (.floodFlitArrival c port f) :=
  trivial
theorem floodAnswer (die : Nat) (f : FloodFlit) : Statement (.floodAnswer die f) := trivial
theorem imagePacketArrival (c : CreelId) (port : Nat) (f : FloodFlit) : Statement (.imagePacketArrival c port f) :=
  trivial
theorem imageAck (die : Nat) (f : FloodFlit) : Statement (.imageAck die f) := trivial
theorem discoveryWindowEnd (die : Nat) (fnum : Byte) : Statement (.discoveryWindowEnd die fnum) := trivial
theorem imageWindowEnd (die : Nat) (fnum : Byte) : Statement (.imageWindowEnd die fnum) := trivial
theorem add (b : BitVec 7) (a : BitVec 7) (d : BitVec 7) : Statement (.add b a d) :=
  slot_form _ (1#7) rfl rfl (by decide)
theorem sub (b : BitVec 7) (a : BitVec 7) (d : BitVec 7) : Statement (.sub b a d) :=
  slot_form _ (1#7) rfl rfl (by decide)
theorem and (b : BitVec 7) (a : BitVec 7) (d : BitVec 7) : Statement (.and b a d) :=
  slot_form _ (1#7) rfl rfl (by decide)
theorem or (b : BitVec 7) (a : BitVec 7) (d : BitVec 7) : Statement (.or b a d) :=
  slot_form _ (1#7) rfl rfl (by decide)
theorem xor (b : BitVec 7) (a : BitVec 7) (d : BitVec 7) : Statement (.xor b a d) :=
  slot_form _ (1#7) rfl rfl (by decide)
theorem andn (b : BitVec 7) (a : BitVec 7) (d : BitVec 7) : Statement (.andn b a d) :=
  slot_form _ (1#7) rfl rfl (by decide)
theorem orn (b : BitVec 7) (a : BitVec 7) (d : BitVec 7) : Statement (.orn b a d) :=
  slot_form _ (1#7) rfl rfl (by decide)
theorem shl (b : BitVec 7) (a : BitVec 7) (d : BitVec 7) : Statement (.shl b a d) :=
  slot_form _ (1#7) rfl rfl (by decide)
theorem shr (b : BitVec 7) (a : BitVec 7) (d : BitVec 7) : Statement (.shr b a d) :=
  slot_form _ (1#7) rfl rfl (by decide)
theorem sar (b : BitVec 7) (a : BitVec 7) (d : BitVec 7) : Statement (.sar b a d) :=
  slot_form _ (1#7) rfl rfl (by decide)
theorem rol (b : BitVec 7) (a : BitVec 7) (d : BitVec 7) : Statement (.rol b a d) :=
  slot_form _ (1#7) rfl rfl (by decide)
theorem min (b : BitVec 7) (a : BitVec 7) (d : BitVec 7) : Statement (.min b a d) :=
  slot_form _ (1#7) rfl rfl (by decide)
theorem max (b : BitVec 7) (a : BitVec 7) (d : BitVec 7) : Statement (.max b a d) :=
  slot_form _ (1#7) rfl rfl (by decide)
theorem minn (b : BitVec 7) (a : BitVec 7) (d : BitVec 7) : Statement (.minn b a d) :=
  slot_form _ (1#7) rfl rfl (by decide)
theorem maxn (b : BitVec 7) (a : BitVec 7) (d : BitVec 7) : Statement (.maxn b a d) :=
  slot_form _ (1#7) rfl rfl (by decide)
theorem sel (b : BitVec 7) (a : BitVec 7) (d : BitVec 7) : Statement (.sel b a d) :=
  slot_form _ (1#7) rfl rfl (by decide)
theorem mul (b : BitVec 7) (a : BitVec 7) (d : BitVec 7) : Statement (.mul b a d) :=
  slot_form _ (3#7) rfl rfl (by decide)
theorem mulh (b : BitVec 7) (a : BitVec 7) (d : BitVec 7) : Statement (.mulh b a d) :=
  slot_form _ (3#7) rfl rfl (by decide)
theorem mulhn (b : BitVec 7) (a : BitVec 7) (d : BitVec 7) : Statement (.mulhn b a d) :=
  slot_form _ (3#7) rfl rfl (by decide)
theorem div (b : BitVec 7) (a : BitVec 7) (d : BitVec 7) : Statement (.div b a d) :=
  slot_form _ (3#7) rfl rfl (by decide)
theorem divn (b : BitVec 7) (a : BitVec 7) (d : BitVec 7) : Statement (.divn b a d) :=
  slot_form _ (3#7) rfl rfl (by decide)
theorem rem (b : BitVec 7) (a : BitVec 7) (d : BitVec 7) : Statement (.rem b a d) :=
  slot_form _ (3#7) rfl rfl (by decide)
theorem remn (b : BitVec 7) (a : BitVec 7) (d : BitVec 7) : Statement (.remn b a d) :=
  slot_form _ (3#7) rfl rfl (by decide)
theorem slt (b : BitVec 7) (a : BitVec 7) (d : BitVec 7) : Statement (.slt b a d) :=
  slot_form _ (3#7) rfl rfl (by decide)
theorem sltn (b : BitVec 7) (a : BitVec 7) (d : BitVec 7) : Statement (.sltn b a d) :=
  slot_form _ (3#7) rfl rfl (by decide)
theorem seq (b : BitVec 7) (a : BitVec 7) (d : BitVec 7) : Statement (.seq b a d) :=
  slot_form _ (3#7) rfl rfl (by decide)
theorem lea (h : BitVec 4) (b : BitVec 7) (a : BitVec 7) (d : BitVec 7) : Statement (.lea h b a d) :=
  slot_form _ (5#7) rfl rfl (by decide)
theorem clz (a : BitVec 7) (d : BitVec 7) : Statement (.clz a d) := slot_form _ (7#7) rfl rfl (by decide)
theorem ctz (a : BitVec 7) (d : BitVec 7) : Statement (.ctz a d) := slot_form _ (7#7) rfl rfl (by decide)
theorem popc (a : BitVec 7) (d : BitVec 7) : Statement (.popc a d) := slot_form _ (7#7) rfl rfl (by decide)
theorem brev (a : BitVec 7) (d : BitVec 7) : Statement (.brev a d) := slot_form _ (7#7) rfl rfl (by decide)
theorem bswap (a : BitVec 7) (d : BitVec 7) : Statement (.bswap a d) := slot_form _ (7#7) rfl rfl (by decide)
theorem exts (w : BitVec 7) (a : BitVec 7) (d : BitVec 7) : Statement (.exts w a d) :=
  slot_form _ (9#7) rfl rfl (by decide)
theorem extz (w : BitVec 7) (a : BitVec 7) (d : BitVec 7) : Statement (.extz w a d) :=
  slot_form _ (9#7) rfl rfl (by decide)
theorem bfx (l : BitVec 5) (p : BitVec 6) (a : BitVec 7) (d : BitVec 7) : Statement (.bfx l p a d) :=
  slot_form _ (11#7) rfl rfl (by decide)
theorem bfi (l : BitVec 5) (p : BitVec 6) (a : BitVec 7) (d : BitVec 7) : Statement (.bfi l p a d) :=
  slot_form _ (13#7) rfl rfl (by decide)
theorem addi (i : BitVec 11) (a : BitVec 7) (d : BitVec 7) : Statement (.addi i a d) :=
  slot_form _ (15#7) rfl rfl (by decide)
theorem andi (i : BitVec 11) (a : BitVec 7) (d : BitVec 7) : Statement (.andi i a d) :=
  slot_form _ (17#7) rfl rfl (by decide)
theorem ori (i : BitVec 11) (a : BitVec 7) (d : BitVec 7) : Statement (.ori i a d) :=
  slot_form _ (19#7) rfl rfl (by decide)
theorem xori (i : BitVec 11) (a : BitVec 7) (d : BitVec 7) : Statement (.xori i a d) :=
  slot_form _ (21#7) rfl rfl (by decide)
theorem shli (n : BitVec 6) (a : BitVec 7) (d : BitVec 7) : Statement (.shli n a d) :=
  slot_form _ (23#7) rfl rfl (by decide)
theorem shri (n : BitVec 6) (a : BitVec 7) (d : BitVec 7) : Statement (.shri n a d) :=
  slot_form _ (23#7) rfl rfl (by decide)
theorem sari (n : BitVec 6) (a : BitVec 7) (d : BitVec 7) : Statement (.sari n a d) :=
  slot_form _ (23#7) rfl rfl (by decide)
theorem slti (i : BitVec 11) (a : BitVec 7) (d : BitVec 7) : Statement (.slti i a d) :=
  slot_form _ (25#7) rfl rfl (by decide)
theorem sltni (i : BitVec 11) (a : BitVec 7) (d : BitVec 7) : Statement (.sltni i a d) :=
  slot_form _ (27#7) rfl rfl (by decide)
theorem muli (i : BitVec 11) (a : BitVec 7) (d : BitVec 7) : Statement (.muli i a d) :=
  slot_form _ (29#7) rfl rfl (by decide)
theorem li (i : BitVec 18) (d : BitVec 7) : Statement (.li i d) := slot_form _ (33#7) rfl rfl (by decide)
theorem lix (i : BitVec 18) (d : BitVec 7) : Statement (.lix i d) := slot_form _ (35#7) rfl rfl (by decide)
theorem bz (i : BitVec 16) (a : BitVec 7) : Statement (.bz i a) := slot_form _ (37#7) rfl rfl (by decide)
theorem bnz (i : BitVec 16) (a : BitVec 7) : Statement (.bnz i a) := slot_form _ (37#7) rfl rfl (by decide)
theorem bltz (i : BitVec 16) (a : BitVec 7) : Statement (.bltz i a) := slot_form _ (37#7) rfl rfl (by decide)
theorem bgez (i : BitVec 16) (a : BitVec 7) : Statement (.bgez i a) := slot_form _ (37#7) rfl rfl (by decide)
theorem jal (i : BitVec 18) (d : BitVec 7) : Statement (.jal i d) := slot_form _ (39#7) rfl rfl (by decide)
theorem ld (o : BitVec 8) (w : BitVec 3) (a : BitVec 7) (d : BitVec 7) : Statement (.ld o w a d) :=
  slot_form _ (41#7) rfl rfl (by decide)
theorem ldx (w : BitVec 4) (b : BitVec 7) (a : BitVec 7) (d : BitVec 7) : Statement (.ldx w b a d) :=
  slot_form _ (43#7) rfl rfl (by decide)
theorem st (o : BitVec 8) (w : BitVec 3) (a : BitVec 7) (s : BitVec 7) : Statement (.st o w a s) :=
  slot_form _ (45#7) rfl rfl (by decide)
theorem lda (o : BitVec 8) (w : BitVec 3) (a : BitVec 7) (d : BitVec 7) : Statement (.lda o w a d) :=
  slot_form _ (47#7) rfl rfl (by decide)
theorem stl (o : BitVec 8) (w : BitVec 3) (a : BitVec 7) (s : BitVec 7) : Statement (.stl o w a s) :=
  slot_form _ (49#7) rfl rfl (by decide)
theorem spill (i : BitVec 11) (a : BitVec 7) (s : BitVec 7) : Statement (.spill i a s) :=
  slot_form _ (51#7) rfl rfl (by decide)
theorem fill (i : BitVec 11) (a : BitVec 7) (d : BitVec 7) : Statement (.fill i a d) :=
  slot_form _ (53#7) rfl rfl (by decide)
theorem ldfe (a : BitVec 7) (d : BitVec 7) : Statement (.ldfe a d) := slot_form _ (55#7) rfl rfl (by decide)
theorem ldff (a : BitVec 7) (d : BitVec 7) : Statement (.ldff a d) := slot_form _ (55#7) rfl rfl (by decide)
theorem stef (b : BitVec 7) (a : BitVec 7) : Statement (.stef b a) := slot_form _ (55#14) rfl rfl (by decide)
theorem stff (b : BitVec 7) (a : BitVec 7) : Statement (.stff b a) := slot_form _ (55#14) rfl rfl (by decide)
theorem feset (a : BitVec 7) : Statement (.feset a) := slot_form _ (55#14) rfl rfl (by decide)
theorem fepeek (a : BitVec 7) (d : BitVec 7) : Statement (.fepeek a d) := slot_form _ (55#7) rfl rfl (by decide)
theorem sbstLo (b : BitVec 7) (a : BitVec 7) : Statement (.sbstLo b a) := slot_form _ (55#14) rfl rfl (by decide)
theorem sbstHi (b : BitVec 7) (a : BitVec 7) : Statement (.sbstHi b a) := slot_form _ (55#14) rfl rfl (by decide)
theorem amoadd (b : BitVec 7) (a : BitVec 7) (d : BitVec 7) : Statement (.amoadd b a d) :=
  slot_form _ (57#7) rfl rfl (by decide)
theorem amoand (b : BitVec 7) (a : BitVec 7) (d : BitVec 7) : Statement (.amoand b a d) :=
  slot_form _ (57#7) rfl rfl (by decide)
theorem amoor (b : BitVec 7) (a : BitVec 7) (d : BitVec 7) : Statement (.amoor b a d) :=
  slot_form _ (57#7) rfl rfl (by decide)
theorem amoxor (b : BitVec 7) (a : BitVec 7) (d : BitVec 7) : Statement (.amoxor b a d) :=
  slot_form _ (57#7) rfl rfl (by decide)
theorem amomin (b : BitVec 7) (a : BitVec 7) (d : BitVec 7) : Statement (.amomin b a d) :=
  slot_form _ (57#7) rfl rfl (by decide)
theorem amomax (b : BitVec 7) (a : BitVec 7) (d : BitVec 7) : Statement (.amomax b a d) :=
  slot_form _ (57#7) rfl rfl (by decide)
theorem amoswap (b : BitVec 7) (a : BitVec 7) (d : BitVec 7) : Statement (.amoswap b a d) :=
  slot_form _ (57#7) rfl rfl (by decide)
theorem amocas (b : BitVec 7) (a : BitVec 7) (d : BitVec 7) : Statement (.amocas b a d) :=
  slot_form _ (57#7) rfl rfl (by decide)
theorem amofadd (b : BitVec 7) (a : BitVec 7) (d : BitVec 7) : Statement (.amofadd b a d) :=
  slot_form _ (57#7) rfl rfl (by decide)
theorem amodf (b : BitVec 7) (a : BitVec 7) (d : BitVec 7) : Statement (.amodf b a d) :=
  slot_form _ (57#7) rfl rfl (by decide)
theorem amoaddAcq (b : BitVec 7) (a : BitVec 7) (d : BitVec 7) : Statement (.amoaddAcq b a d) :=
  slot_form _ (59#7) rfl rfl (by decide)
theorem amoandAcq (b : BitVec 7) (a : BitVec 7) (d : BitVec 7) : Statement (.amoandAcq b a d) :=
  slot_form _ (59#7) rfl rfl (by decide)
theorem amoorAcq (b : BitVec 7) (a : BitVec 7) (d : BitVec 7) : Statement (.amoorAcq b a d) :=
  slot_form _ (59#7) rfl rfl (by decide)
theorem amoxorAcq (b : BitVec 7) (a : BitVec 7) (d : BitVec 7) : Statement (.amoxorAcq b a d) :=
  slot_form _ (59#7) rfl rfl (by decide)
theorem amominAcq (b : BitVec 7) (a : BitVec 7) (d : BitVec 7) : Statement (.amominAcq b a d) :=
  slot_form _ (59#7) rfl rfl (by decide)
theorem amomaxAcq (b : BitVec 7) (a : BitVec 7) (d : BitVec 7) : Statement (.amomaxAcq b a d) :=
  slot_form _ (59#7) rfl rfl (by decide)
theorem amoswapAcq (b : BitVec 7) (a : BitVec 7) (d : BitVec 7) : Statement (.amoswapAcq b a d) :=
  slot_form _ (59#7) rfl rfl (by decide)
theorem amocasAcq (b : BitVec 7) (a : BitVec 7) (d : BitVec 7) : Statement (.amocasAcq b a d) :=
  slot_form _ (59#7) rfl rfl (by decide)
theorem amofaddAcq (b : BitVec 7) (a : BitVec 7) (d : BitVec 7) : Statement (.amofaddAcq b a d) :=
  slot_form _ (59#7) rfl rfl (by decide)
theorem amodfAcq (b : BitVec 7) (a : BitVec 7) (d : BitVec 7) : Statement (.amodfAcq b a d) :=
  slot_form _ (59#7) rfl rfl (by decide)
theorem amoaddRel (b : BitVec 7) (a : BitVec 7) (d : BitVec 7) : Statement (.amoaddRel b a d) :=
  slot_form _ (61#7) rfl rfl (by decide)
theorem amoandRel (b : BitVec 7) (a : BitVec 7) (d : BitVec 7) : Statement (.amoandRel b a d) :=
  slot_form _ (61#7) rfl rfl (by decide)
theorem amoorRel (b : BitVec 7) (a : BitVec 7) (d : BitVec 7) : Statement (.amoorRel b a d) :=
  slot_form _ (61#7) rfl rfl (by decide)
theorem amoxorRel (b : BitVec 7) (a : BitVec 7) (d : BitVec 7) : Statement (.amoxorRel b a d) :=
  slot_form _ (61#7) rfl rfl (by decide)
theorem amominRel (b : BitVec 7) (a : BitVec 7) (d : BitVec 7) : Statement (.amominRel b a d) :=
  slot_form _ (61#7) rfl rfl (by decide)
theorem amomaxRel (b : BitVec 7) (a : BitVec 7) (d : BitVec 7) : Statement (.amomaxRel b a d) :=
  slot_form _ (61#7) rfl rfl (by decide)
theorem amoswapRel (b : BitVec 7) (a : BitVec 7) (d : BitVec 7) : Statement (.amoswapRel b a d) :=
  slot_form _ (61#7) rfl rfl (by decide)
theorem amocasRel (b : BitVec 7) (a : BitVec 7) (d : BitVec 7) : Statement (.amocasRel b a d) :=
  slot_form _ (61#7) rfl rfl (by decide)
theorem amofaddRel (b : BitVec 7) (a : BitVec 7) (d : BitVec 7) : Statement (.amofaddRel b a d) :=
  slot_form _ (61#7) rfl rfl (by decide)
theorem amodfRel (b : BitVec 7) (a : BitVec 7) (d : BitVec 7) : Statement (.amodfRel b a d) :=
  slot_form _ (61#7) rfl rfl (by decide)
theorem fenceAcq : Statement (.fenceAcq) := rfl
theorem fenceRel : Statement (.fenceRel) := rfl
theorem fenceFull : Statement (.fenceFull) := rfl
theorem ifence : Statement (.ifence) := rfl
theorem barrive (a : BitVec 7) (d : BitVec 7) : Statement (.barrive a d) := slot_form _ (63#7) rfl rfl (by decide)
theorem bwait (b : BitVec 7) (a : BitVec 7) : Statement (.bwait b a) := slot_form _ (63#14) rfl rfl (by decide)
theorem waitmsg : Statement (.waitmsg) := rfl
theorem msgpop (d : BitVec 7) : Statement (.msgpop d) := slot_form _ (63#7) rfl rfl (by decide)
theorem mbput (n : BitVec 4) (a : BitVec 7) : Statement (.mbput n a) := slot_form _ (63#14) rfl rfl (by decide)
theorem mbget (n : BitVec 4) (d : BitVec 7) : Statement (.mbget n d) := slot_form _ (63#7) rfl rfl (by decide)
theorem tagset (b : BitVec 7) (a : BitVec 7) : Statement (.tagset b a) := slot_form _ (63#14) rfl rfl (by decide)
theorem fadd (b : BitVec 7) (a : BitVec 7) (d : BitVec 7) : Statement (.fadd b a d) :=
  slot_form _ (65#7) rfl rfl (by decide)
theorem fsub (b : BitVec 7) (a : BitVec 7) (d : BitVec 7) : Statement (.fsub b a d) :=
  slot_form _ (65#7) rfl rfl (by decide)
theorem fmul (b : BitVec 7) (a : BitVec 7) (d : BitVec 7) : Statement (.fmul b a d) :=
  slot_form _ (65#7) rfl rfl (by decide)
theorem fdiv (b : BitVec 7) (a : BitVec 7) (d : BitVec 7) : Statement (.fdiv b a d) :=
  slot_form _ (65#7) rfl rfl (by decide)
theorem fsqrt (a : BitVec 7) (d : BitVec 7) : Statement (.fsqrt a d) := slot_form _ (65#7) rfl rfl (by decide)
theorem fmin (b : BitVec 7) (a : BitVec 7) (d : BitVec 7) : Statement (.fmin b a d) :=
  slot_form _ (65#7) rfl rfl (by decide)
theorem fmax (b : BitVec 7) (a : BitVec 7) (d : BitVec 7) : Statement (.fmax b a d) :=
  slot_form _ (65#7) rfl rfl (by decide)
theorem fabs (a : BitVec 7) (d : BitVec 7) : Statement (.fabs a d) := slot_form _ (65#7) rfl rfl (by decide)
theorem fneg (a : BitVec 7) (d : BitVec 7) : Statement (.fneg a d) := slot_form _ (65#7) rfl rfl (by decide)
theorem fcmp (b : BitVec 7) (a : BitVec 7) (d : BitVec 7) : Statement (.fcmp b a d) :=
  slot_form _ (65#7) rfl rfl (by decide)
theorem fclass (a : BitVec 7) (d : BitVec 7) : Statement (.fclass a d) := slot_form _ (65#7) rfl rfl (by decide)
theorem ffma (b : BitVec 7) (a : BitVec 7) (d : BitVec 7) : Statement (.ffma b a d) :=
  slot_form _ (65#7) rfl rfl (by decide)
theorem fcvt (k : BitVec 1) (y : BitVec 3) (x : BitVec 3) (a : BitVec 7) (d : BitVec 7) : Statement (.fcvt k y x a d) :=
  slot_form _ (67#7) rfl rfl (by decide)
theorem frnd (o : BitVec 3) (a : BitVec 7) (d : BitVec 7) : Statement (.frnd o a d) :=
  slot_form _ (67#7) rfl rfl (by decide)
theorem sget (a : BitVec 7) (d : BitVec 7) : Statement (.sget a d) := slot_form _ (67#7) rfl rfl (by decide)
theorem sset (b : BitVec 7) (a : BitVec 7) (d : BitVec 7) : Statement (.sset b a d) :=
  slot_form _ (67#7) rfl rfl (by decide)
theorem sclr (a : BitVec 7) (d : BitVec 7) : Statement (.sclr a d) := slot_form _ (67#7) rfl rfl (by decide)
theorem qenc (w : BitVec 1) (a : BitVec 7) (d : BitVec 7) : Statement (.qenc w a d) :=
  slot_form _ (67#7) rfl rfl (by decide)
theorem qdec (w : BitVec 1) (a : BitVec 7) (d : BitVec 7) : Statement (.qdec w a d) :=
  slot_form _ (67#7) rfl rfl (by decide)
theorem cbload (n : BitVec 2) (a : BitVec 7) : Statement (.cbload n a) := slot_form _ (67#14) rfl rfl (by decide)
theorem paddW32 (b : BitVec 7) (a : BitVec 7) (d : BitVec 7) : Statement (.paddW32 b a d) :=
  slot_form _ (69#7) rfl rfl (by decide)
theorem psubW32 (b : BitVec 7) (a : BitVec 7) (d : BitVec 7) : Statement (.psubW32 b a d) :=
  slot_form _ (69#7) rfl rfl (by decide)
theorem pmulW32 (b : BitVec 7) (a : BitVec 7) (d : BitVec 7) : Statement (.pmulW32 b a d) :=
  slot_form _ (69#7) rfl rfl (by decide)
theorem pfmaW32 (b : BitVec 7) (a : BitVec 7) (d : BitVec 7) : Statement (.pfmaW32 b a d) :=
  slot_form _ (69#7) rfl rfl (by decide)
theorem pminW32 (b : BitVec 7) (a : BitVec 7) (d : BitVec 7) : Statement (.pminW32 b a d) :=
  slot_form _ (69#7) rfl rfl (by decide)
theorem pmaxW32 (b : BitVec 7) (a : BitVec 7) (d : BitVec 7) : Statement (.pmaxW32 b a d) :=
  slot_form _ (69#7) rfl rfl (by decide)
theorem pdotW32 (b : BitVec 7) (a : BitVec 7) (d : BitVec 7) : Statement (.pdotW32 b a d) :=
  slot_form _ (69#7) rfl rfl (by decide)
theorem pshufW32 (b : BitVec 7) (a : BitVec 7) (d : BitVec 7) : Statement (.pshufW32 b a d) :=
  slot_form _ (69#7) rfl rfl (by decide)
theorem pcvtBf16W32 (g : BitVec 2) (a : BitVec 7) (d : BitVec 7) : Statement (.pcvtBf16W32 g a d) :=
  slot_form _ (69#7) rfl rfl (by decide)
theorem pcvtFp16W32 (g : BitVec 2) (a : BitVec 7) (d : BitVec 7) : Statement (.pcvtFp16W32 g a d) :=
  slot_form _ (69#7) rfl rfl (by decide)
theorem pcvtI8W32 (g : BitVec 2) (a : BitVec 7) (d : BitVec 7) : Statement (.pcvtI8W32 g a d) :=
  slot_form _ (69#7) rfl rfl (by decide)
theorem pcvtI32W32 (g : BitVec 2) (a : BitVec 7) (d : BitVec 7) : Statement (.pcvtI32W32 g a d) :=
  slot_form _ (69#7) rfl rfl (by decide)
theorem paddBf16 (b : BitVec 7) (a : BitVec 7) (d : BitVec 7) : Statement (.paddBf16 b a d) :=
  slot_form _ (71#7) rfl rfl (by decide)
theorem psubBf16 (b : BitVec 7) (a : BitVec 7) (d : BitVec 7) : Statement (.psubBf16 b a d) :=
  slot_form _ (71#7) rfl rfl (by decide)
theorem pmulBf16 (b : BitVec 7) (a : BitVec 7) (d : BitVec 7) : Statement (.pmulBf16 b a d) :=
  slot_form _ (71#7) rfl rfl (by decide)
theorem pfmaBf16 (b : BitVec 7) (a : BitVec 7) (d : BitVec 7) : Statement (.pfmaBf16 b a d) :=
  slot_form _ (71#7) rfl rfl (by decide)
theorem pminBf16 (b : BitVec 7) (a : BitVec 7) (d : BitVec 7) : Statement (.pminBf16 b a d) :=
  slot_form _ (71#7) rfl rfl (by decide)
theorem pmaxBf16 (b : BitVec 7) (a : BitVec 7) (d : BitVec 7) : Statement (.pmaxBf16 b a d) :=
  slot_form _ (71#7) rfl rfl (by decide)
theorem pdotBf16 (b : BitVec 7) (a : BitVec 7) (d : BitVec 7) : Statement (.pdotBf16 b a d) :=
  slot_form _ (71#7) rfl rfl (by decide)
theorem pshufBf16 (b : BitVec 7) (a : BitVec 7) (d : BitVec 7) : Statement (.pshufBf16 b a d) :=
  slot_form _ (71#7) rfl rfl (by decide)
theorem pcvtW32Bf16 (g : BitVec 2) (a : BitVec 7) (d : BitVec 7) : Statement (.pcvtW32Bf16 g a d) :=
  slot_form _ (71#7) rfl rfl (by decide)
theorem pcvtFp16Bf16 (g : BitVec 2) (a : BitVec 7) (d : BitVec 7) : Statement (.pcvtFp16Bf16 g a d) :=
  slot_form _ (71#7) rfl rfl (by decide)
theorem pcvtI8Bf16 (g : BitVec 2) (a : BitVec 7) (d : BitVec 7) : Statement (.pcvtI8Bf16 g a d) :=
  slot_form _ (71#7) rfl rfl (by decide)
theorem pcvtI32Bf16 (g : BitVec 2) (a : BitVec 7) (d : BitVec 7) : Statement (.pcvtI32Bf16 g a d) :=
  slot_form _ (71#7) rfl rfl (by decide)
theorem paddFp16 (b : BitVec 7) (a : BitVec 7) (d : BitVec 7) : Statement (.paddFp16 b a d) :=
  slot_form _ (73#7) rfl rfl (by decide)
theorem psubFp16 (b : BitVec 7) (a : BitVec 7) (d : BitVec 7) : Statement (.psubFp16 b a d) :=
  slot_form _ (73#7) rfl rfl (by decide)
theorem pmulFp16 (b : BitVec 7) (a : BitVec 7) (d : BitVec 7) : Statement (.pmulFp16 b a d) :=
  slot_form _ (73#7) rfl rfl (by decide)
theorem pfmaFp16 (b : BitVec 7) (a : BitVec 7) (d : BitVec 7) : Statement (.pfmaFp16 b a d) :=
  slot_form _ (73#7) rfl rfl (by decide)
theorem pminFp16 (b : BitVec 7) (a : BitVec 7) (d : BitVec 7) : Statement (.pminFp16 b a d) :=
  slot_form _ (73#7) rfl rfl (by decide)
theorem pmaxFp16 (b : BitVec 7) (a : BitVec 7) (d : BitVec 7) : Statement (.pmaxFp16 b a d) :=
  slot_form _ (73#7) rfl rfl (by decide)
theorem pdotFp16 (b : BitVec 7) (a : BitVec 7) (d : BitVec 7) : Statement (.pdotFp16 b a d) :=
  slot_form _ (73#7) rfl rfl (by decide)
theorem pshufFp16 (b : BitVec 7) (a : BitVec 7) (d : BitVec 7) : Statement (.pshufFp16 b a d) :=
  slot_form _ (73#7) rfl rfl (by decide)
theorem pcvtW32Fp16 (g : BitVec 2) (a : BitVec 7) (d : BitVec 7) : Statement (.pcvtW32Fp16 g a d) :=
  slot_form _ (73#7) rfl rfl (by decide)
theorem pcvtBf16Fp16 (g : BitVec 2) (a : BitVec 7) (d : BitVec 7) : Statement (.pcvtBf16Fp16 g a d) :=
  slot_form _ (73#7) rfl rfl (by decide)
theorem pcvtI8Fp16 (g : BitVec 2) (a : BitVec 7) (d : BitVec 7) : Statement (.pcvtI8Fp16 g a d) :=
  slot_form _ (73#7) rfl rfl (by decide)
theorem pcvtI32Fp16 (g : BitVec 2) (a : BitVec 7) (d : BitVec 7) : Statement (.pcvtI32Fp16 g a d) :=
  slot_form _ (73#7) rfl rfl (by decide)
theorem paddI8 (b : BitVec 7) (a : BitVec 7) (d : BitVec 7) : Statement (.paddI8 b a d) :=
  slot_form _ (75#7) rfl rfl (by decide)
theorem psubI8 (b : BitVec 7) (a : BitVec 7) (d : BitVec 7) : Statement (.psubI8 b a d) :=
  slot_form _ (75#7) rfl rfl (by decide)
theorem pmulI8 (b : BitVec 7) (a : BitVec 7) (d : BitVec 7) : Statement (.pmulI8 b a d) :=
  slot_form _ (75#7) rfl rfl (by decide)
theorem pfmaI8 (b : BitVec 7) (a : BitVec 7) (d : BitVec 7) : Statement (.pfmaI8 b a d) :=
  slot_form _ (75#7) rfl rfl (by decide)
theorem pminI8 (b : BitVec 7) (a : BitVec 7) (d : BitVec 7) : Statement (.pminI8 b a d) :=
  slot_form _ (75#7) rfl rfl (by decide)
theorem pmaxI8 (b : BitVec 7) (a : BitVec 7) (d : BitVec 7) : Statement (.pmaxI8 b a d) :=
  slot_form _ (75#7) rfl rfl (by decide)
theorem pdotI8 (b : BitVec 7) (a : BitVec 7) (d : BitVec 7) : Statement (.pdotI8 b a d) :=
  slot_form _ (75#7) rfl rfl (by decide)
theorem pshufI8 (b : BitVec 7) (a : BitVec 7) (d : BitVec 7) : Statement (.pshufI8 b a d) :=
  slot_form _ (75#7) rfl rfl (by decide)
theorem pcvtW32I8 (g : BitVec 2) (a : BitVec 7) (d : BitVec 7) : Statement (.pcvtW32I8 g a d) :=
  slot_form _ (75#7) rfl rfl (by decide)
theorem pcvtBf16I8 (g : BitVec 2) (a : BitVec 7) (d : BitVec 7) : Statement (.pcvtBf16I8 g a d) :=
  slot_form _ (75#7) rfl rfl (by decide)
theorem pcvtFp16I8 (g : BitVec 2) (a : BitVec 7) (d : BitVec 7) : Statement (.pcvtFp16I8 g a d) :=
  slot_form _ (75#7) rfl rfl (by decide)
theorem pcvtI32I8 (g : BitVec 2) (a : BitVec 7) (d : BitVec 7) : Statement (.pcvtI32I8 g a d) :=
  slot_form _ (75#7) rfl rfl (by decide)
theorem paddI32 (b : BitVec 7) (a : BitVec 7) (d : BitVec 7) : Statement (.paddI32 b a d) :=
  slot_form _ (77#7) rfl rfl (by decide)
theorem psubI32 (b : BitVec 7) (a : BitVec 7) (d : BitVec 7) : Statement (.psubI32 b a d) :=
  slot_form _ (77#7) rfl rfl (by decide)
theorem pmulI32 (b : BitVec 7) (a : BitVec 7) (d : BitVec 7) : Statement (.pmulI32 b a d) :=
  slot_form _ (77#7) rfl rfl (by decide)
theorem pfmaI32 (b : BitVec 7) (a : BitVec 7) (d : BitVec 7) : Statement (.pfmaI32 b a d) :=
  slot_form _ (77#7) rfl rfl (by decide)
theorem pminI32 (b : BitVec 7) (a : BitVec 7) (d : BitVec 7) : Statement (.pminI32 b a d) :=
  slot_form _ (77#7) rfl rfl (by decide)
theorem pmaxI32 (b : BitVec 7) (a : BitVec 7) (d : BitVec 7) : Statement (.pmaxI32 b a d) :=
  slot_form _ (77#7) rfl rfl (by decide)
theorem pdotI32 (b : BitVec 7) (a : BitVec 7) (d : BitVec 7) : Statement (.pdotI32 b a d) :=
  slot_form _ (77#7) rfl rfl (by decide)
theorem pshufI32 (b : BitVec 7) (a : BitVec 7) (d : BitVec 7) : Statement (.pshufI32 b a d) :=
  slot_form _ (77#7) rfl rfl (by decide)
theorem pcvtW32I32 (g : BitVec 2) (a : BitVec 7) (d : BitVec 7) : Statement (.pcvtW32I32 g a d) :=
  slot_form _ (77#7) rfl rfl (by decide)
theorem pcvtBf16I32 (g : BitVec 2) (a : BitVec 7) (d : BitVec 7) : Statement (.pcvtBf16I32 g a d) :=
  slot_form _ (77#7) rfl rfl (by decide)
theorem pcvtFp16I32 (g : BitVec 2) (a : BitVec 7) (d : BitVec 7) : Statement (.pcvtFp16I32 g a d) :=
  slot_form _ (77#7) rfl rfl (by decide)
theorem pcvtI8I32 (g : BitVec 2) (a : BitVec 7) (d : BitVec 7) : Statement (.pcvtI8I32 g a d) :=
  slot_form _ (77#7) rfl rfl (by decide)
theorem addpc (i : BitVec 18) (d : BitVec 7) : Statement (.addpc i d) := slot_form _ (81#7) rfl rfl (by decide)
theorem jalr (i : BitVec 11) (a : BitVec 7) (d : BitVec 7) : Statement (.jalr i a d) :=
  slot_form _ (83#7) rfl rfl (by decide)
theorem loop (i : BitVec 16) (a : BitVec 7) : Statement (.loop i a) := slot_form _ (85#7) rfl rfl (by decide)
theorem nop : Statement (.nop) := rfl
theorem yield : Statement (.yield) := rfl
theorem halt : Statement (.halt) := rfl
theorem xret : Statement (.xret) := rfl
theorem bkpt : Statement (.bkpt) := rfl
theorem wfe : Statement (.wfe) := rfl
theorem perfrd (a : BitVec 7) (d : BitVec 7) : Statement (.perfrd a d) := slot_form _ (87#7) rfl rfl (by decide)
theorem trap (i : BitVec 11) : Statement (.trap i) := slot_form _ (89#21) rfl rfl (by decide)
theorem sysrd (i : BitVec 11) (d : BitVec 7) : Statement (.sysrd i d) := slot_form _ (91#7) rfl rfl (by decide)
theorem syswr (i : BitVec 11) (a : BitVec 7) : Statement (.syswr i a) := slot_form _ (93#14) rfl rfl (by decide)
theorem enq (a : BitVec 7) (d : BitVec 7) : Statement (.enq a d) := slot_form _ (95#7) rfl rfl (by decide)
theorem tdone (a : BitVec 7) : Statement (.tdone a) := slot_form _ (95#14) rfl rfl (by decide)
theorem progress (a : BitVec 7) : Statement (.progress a) := slot_form _ (95#14) rfl rfl (by decide)
theorem pushc (b : BitVec 7) (a : BitVec 7) : Statement (.pushc b a) := slot_form _ (95#14) rfl rfl (by decide)
theorem popr (a : BitVec 7) (d : BitVec 7) : Statement (.popr a d) := slot_form _ (95#7) rfl rfl (by decide)
theorem srbegin (a : BitVec 7) : Statement (.srbegin a) := slot_form _ (95#14) rfl rfl (by decide)
theorem srend : Statement (.srend) := rfl
theorem repload (b : BitVec 7) (a : BitVec 7) : Statement (.repload b a) := slot_form _ (95#14) rfl rfl (by decide)
theorem reprun (b : BitVec 7) (a : BitVec 7) : Statement (.reprun b a) := slot_form _ (95#14) rfl rfl (by decide)
theorem repstop : Statement (.repstop) := rfl
theorem send (a : BitVec 7) (t : BitVec 8) (e : BitVec 6) : Statement (.send a t e) :=
  slot_form _ (97#7) rfl rfl (by decide)
theorem sendt (a : BitVec 7) (t : BitVec 8) (e : BitVec 6) : Statement (.sendt a t e) :=
  slot_form _ (97#7) rfl rfl (by decide)
theorem recv (a : BitVec 7) (t : BitVec 8) (e : BitVec 6) : Statement (.recv a t e) :=
  slot_form _ (97#7) rfl rfl (by decide)
theorem recvt (a : BitVec 7) (t : BitVec 8) (e : BitVec 6) : Statement (.recvt a t e) :=
  slot_form _ (97#7) rfl rfl (by decide)
theorem offer (a : BitVec 7) (e : BitVec 6) : Statement (.offer a e) := slot_form _ (97#7) rfl rfl (by decide)
theorem select (a : BitVec 7) (t : BitVec 8) (e : BitVec 6) : Statement (.select a t e) :=
  slot_form _ (97#7) rfl rfl (by decide)
theorem deleg (a : BitVec 7) (e : BitVec 6) : Statement (.deleg a e) := slot_form _ (97#7) rfl rfl (by decide)
theorem autload (a : BitVec 7) : Statement (.autload a) := slot_form _ (99#21) rfl rfl (by decide)
theorem epopen (a : BitVec 7) (e : BitVec 6) : Statement (.epopen a e) := slot_form _ (99#7) rfl rfl (by decide)
theorem connect (a : BitVec 7) (e : BitVec 6) : Statement (.connect a e) := slot_form _ (99#7) rfl rfl (by decide)
theorem accept (a : BitVec 7) (e : BitVec 6) : Statement (.accept a e) := slot_form _ (99#7) rfl rfl (by decide)
theorem close (a : BitVec 7) (e : BitVec 6) : Statement (.close a e) := slot_form _ (99#7) rfl rfl (by decide)
theorem epstat (a : BitVec 7) (e : BitVec 6) : Statement (.epstat a e) := slot_form _ (99#7) rfl rfl (by decide)
theorem epfree (e : BitVec 6) : Statement (.epfree e) := slot_form _ (99#7) rfl rfl (by decide)
theorem msgvec (a : BitVec 7) (t : BitVec 8) : Statement (.msgvec a t) := slot_form _ (99#13) rfl rfl (by decide)
theorem vadd (r : BitVec 2) (t : BitVec 3) (b : BitVec 3) (a : BitVec 3) (d : BitVec 3) : Statement (.vadd r t b a d) :=
  slot_form _ (105#7) rfl rfl (by decide)
theorem vsub (r : BitVec 2) (t : BitVec 3) (b : BitVec 3) (a : BitVec 3) (d : BitVec 3) : Statement (.vsub r t b a d) :=
  slot_form _ (105#7) rfl rfl (by decide)
theorem vmul (r : BitVec 2) (t : BitVec 3) (b : BitVec 3) (a : BitVec 3) (d : BitVec 3) : Statement (.vmul r t b a d) :=
  slot_form _ (105#7) rfl rfl (by decide)
theorem vfma (r : BitVec 2) (t : BitVec 3) (c : BitVec 3) (b : BitVec 3) (a : BitVec 3) (d : BitVec 3) : Statement (.vfma r t c b a d) :=
  slot_form _ (105#7) rfl rfl (by decide)
theorem vmin (r : BitVec 2) (t : BitVec 3) (b : BitVec 3) (a : BitVec 3) (d : BitVec 3) : Statement (.vmin r t b a d) :=
  slot_form _ (105#7) rfl rfl (by decide)
theorem vmax (r : BitVec 2) (t : BitVec 3) (b : BitVec 3) (a : BitVec 3) (d : BitVec 3) : Statement (.vmax r t b a d) :=
  slot_form _ (105#7) rfl rfl (by decide)
theorem vabs (r : BitVec 2) (t : BitVec 3) (a : BitVec 3) (d : BitVec 3) : Statement (.vabs r t a d) :=
  slot_form _ (105#7) rfl rfl (by decide)
theorem vneg (r : BitVec 2) (t : BitVec 3) (a : BitVec 3) (d : BitVec 3) : Statement (.vneg r t a d) :=
  slot_form _ (105#7) rfl rfl (by decide)
theorem vcpy (t : BitVec 3) (a : BitVec 3) (d : BitVec 3) : Statement (.vcpy t a d) :=
  slot_form _ (105#7) rfl rfl (by decide)
theorem vfill (t : BitVec 3) (a : BitVec 3) (d : BitVec 3) : Statement (.vfill t a d) :=
  slot_form _ (105#7) rfl rfl (by decide)
theorem vclamp (r : BitVec 2) (t : BitVec 3) (c : BitVec 3) (b : BitVec 3) (a : BitVec 3) (d : BitVec 3) : Statement (.vclamp r t c b a d) :=
  slot_form _ (105#7) rfl rfl (by decide)
theorem vscl (r : BitVec 2) (t : BitVec 3) (c : BitVec 3) (b : BitVec 3) (a : BitVec 3) (d : BitVec 3) : Statement (.vscl r t c b a d) :=
  slot_form _ (105#7) rfl rfl (by decide)
theorem vexp2 (r : BitVec 2) (t : BitVec 3) (a : BitVec 3) (d : BitVec 3) : Statement (.vexp2 r t a d) :=
  slot_form _ (107#7) rfl rfl (by decide)
theorem vlog2 (r : BitVec 2) (t : BitVec 3) (a : BitVec 3) (d : BitVec 3) : Statement (.vlog2 r t a d) :=
  slot_form _ (107#7) rfl rfl (by decide)
theorem vrcp (r : BitVec 2) (t : BitVec 3) (a : BitVec 3) (d : BitVec 3) : Statement (.vrcp r t a d) :=
  slot_form _ (107#7) rfl rfl (by decide)
theorem vrsq (r : BitVec 2) (t : BitVec 3) (a : BitVec 3) (d : BitVec 3) : Statement (.vrsq r t a d) :=
  slot_form _ (107#7) rfl rfl (by decide)
theorem vsqrt (r : BitVec 2) (t : BitVec 3) (a : BitVec 3) (d : BitVec 3) : Statement (.vsqrt r t a d) :=
  slot_form _ (107#7) rfl rfl (by decide)
theorem vtanh (r : BitVec 2) (t : BitVec 3) (a : BitVec 3) (d : BitVec 3) : Statement (.vtanh r t a d) :=
  slot_form _ (107#7) rfl rfl (by decide)
theorem vsigm (r : BitVec 2) (t : BitVec 3) (a : BitVec 3) (d : BitVec 3) : Statement (.vsigm r t a d) :=
  slot_form _ (107#7) rfl rfl (by decide)
theorem vrsum (r : BitVec 2) (t : BitVec 3) (a : BitVec 3) (d : BitVec 3) : Statement (.vrsum r t a d) :=
  slot_form _ (109#7) rfl rfl (by decide)
theorem vrmax (r : BitVec 2) (t : BitVec 3) (a : BitVec 3) (d : BitVec 3) : Statement (.vrmax r t a d) :=
  slot_form _ (109#7) rfl rfl (by decide)
theorem vrmin (r : BitVec 2) (t : BitVec 3) (a : BitVec 3) (d : BitVec 3) : Statement (.vrmin r t a d) :=
  slot_form _ (109#7) rfl rfl (by decide)
theorem vscan (r : BitVec 2) (t : BitVec 3) (a : BitVec 3) (d : BitVec 3) : Statement (.vscan r t a d) :=
  slot_form _ (109#7) rfl rfl (by decide)
theorem vdot (r : BitVec 2) (t : BitVec 3) (b : BitVec 3) (a : BitVec 3) (d : BitVec 3) : Statement (.vdot r t b a d) :=
  slot_form _ (109#7) rfl rfl (by decide)
theorem vcount (r : BitVec 2) (t : BitVec 3) (a : BitVec 3) (d : BitVec 3) : Statement (.vcount r t a d) :=
  slot_form _ (109#7) rfl rfl (by decide)
theorem vcmpEq (r : BitVec 2) (t : BitVec 3) (b : BitVec 3) (a : BitVec 3) (d : BitVec 3) : Statement (.vcmpEq r t b a d) :=
  slot_form _ (111#7) rfl rfl (by decide)
theorem vcmpNe (r : BitVec 2) (t : BitVec 3) (b : BitVec 3) (a : BitVec 3) (d : BitVec 3) : Statement (.vcmpNe r t b a d) :=
  slot_form _ (111#7) rfl rfl (by decide)
theorem vcmpLt (r : BitVec 2) (t : BitVec 3) (b : BitVec 3) (a : BitVec 3) (d : BitVec 3) : Statement (.vcmpLt r t b a d) :=
  slot_form _ (111#7) rfl rfl (by decide)
theorem vcmpLe (r : BitVec 2) (t : BitVec 3) (b : BitVec 3) (a : BitVec 3) (d : BitVec 3) : Statement (.vcmpLe r t b a d) :=
  slot_form _ (111#7) rfl rfl (by decide)
theorem vcmpGt (r : BitVec 2) (t : BitVec 3) (b : BitVec 3) (a : BitVec 3) (d : BitVec 3) : Statement (.vcmpGt r t b a d) :=
  slot_form _ (111#7) rfl rfl (by decide)
theorem vcmpGe (r : BitVec 2) (t : BitVec 3) (b : BitVec 3) (a : BitVec 3) (d : BitVec 3) : Statement (.vcmpGe r t b a d) :=
  slot_form _ (111#7) rfl rfl (by decide)
theorem vsel (r : BitVec 2) (t : BitVec 3) (c : BitVec 3) (b : BitVec 3) (a : BitVec 3) (d : BitVec 3) : Statement (.vsel r t c b a d) :=
  slot_form _ (111#7) rfl rfl (by decide)
theorem vand (r : BitVec 2) (t : BitVec 3) (b : BitVec 3) (a : BitVec 3) (d : BitVec 3) : Statement (.vand r t b a d) :=
  slot_form _ (111#7) rfl rfl (by decide)
theorem vor (r : BitVec 2) (t : BitVec 3) (b : BitVec 3) (a : BitVec 3) (d : BitVec 3) : Statement (.vor r t b a d) :=
  slot_form _ (111#7) rfl rfl (by decide)
theorem vxor (r : BitVec 2) (t : BitVec 3) (b : BitVec 3) (a : BitVec 3) (d : BitVec 3) : Statement (.vxor r t b a d) :=
  slot_form _ (111#7) rfl rfl (by decide)
theorem vshl (r : BitVec 2) (t : BitVec 3) (b : BitVec 3) (a : BitVec 3) (d : BitVec 3) : Statement (.vshl r t b a d) :=
  slot_form _ (111#7) rfl rfl (by decide)
theorem vshr (r : BitVec 2) (t : BitVec 3) (b : BitVec 3) (a : BitVec 3) (d : BitVec 3) : Statement (.vshr r t b a d) :=
  slot_form _ (111#7) rfl rfl (by decide)
theorem vgath (t : BitVec 3) (b : BitVec 3) (a : BitVec 3) (d : BitVec 3) : Statement (.vgath t b a d) :=
  slot_form _ (113#7) rfl rfl (by decide)
theorem vscat (t : BitVec 3) (b : BitVec 3) (a : BitVec 3) (d : BitVec 3) : Statement (.vscat t b a d) :=
  slot_form _ (113#7) rfl rfl (by decide)
theorem vshuf (t : BitVec 3) (b : BitVec 3) (a : BitVec 3) (d : BitVec 3) : Statement (.vshuf t b a d) :=
  slot_form _ (113#7) rfl rfl (by decide)
theorem viota (r : BitVec 2) (t : BitVec 3) (d : BitVec 3) : Statement (.viota r t d) :=
  slot_form _ (113#7) rfl rfl (by decide)
theorem vcvt (r : BitVec 2) (t : BitVec 3) (a : BitVec 3) (d : BitVec 3) : Statement (.vcvt r t a d) :=
  slot_form _ (115#7) rfl rfl (by decide)
theorem vqenc (r : BitVec 2) (t : BitVec 3) (c : BitVec 3) (b : BitVec 3) (a : BitVec 3) (d : BitVec 3) : Statement (.vqenc r t c b a d) :=
  slot_form _ (115#7) rfl rfl (by decide)
theorem vqdec (r : BitVec 2) (t : BitVec 3) (c : BitVec 3) (b : BitVec 3) (a : BitVec 3) (d : BitVec 3) : Statement (.vqdec r t c b a d) :=
  slot_form _ (115#7) rfl rfl (by decide)
theorem zbind (b : BitVec 7) (a : BitVec 7) (n : BitVec 3) : Statement (.zbind b a n) :=
  slot_form _ (117#7) rfl rfl (by decide)
theorem zbindc (b : BitVec 7) (a : BitVec 7) (n : BitVec 3) : Statement (.zbindc b a n) :=
  slot_form _ (117#7) rfl rfl (by decide)
theorem zstat (n : BitVec 3) (d : BitVec 7) : Statement (.zstat n d) := slot_form _ (117#7) rfl rfl (by decide)
theorem mset (a : BitVec 3) : Statement (.mset a) := slot_form _ (121#10) rfl rfl (by decide)
theorem mclr (n : BitVec 2) (q : BitVec 3) : Statement (.mclr n q) := slot_form _ (121#7) rfl rfl (by decide)
theorem mload (c : BitVec 3) (a : BitVec 3) (q : BitVec 3) : Statement (.mload c a q) :=
  slot_form _ (121#7) rfl rfl (by decide)
theorem mstat (a : BitVec 3) : Statement (.mstat a) := slot_form _ (121#10) rfl rfl (by decide)
theorem mma (c : BitVec 3) (z : BitVec 1) (b : BitVec 3) (a : BitVec 3) (q : BitVec 3) : Statement (.mma c z b a q) :=
  slot_form _ (123#7) rfl rfl (by decide)
theorem mmag (c : BitVec 3) (z : BitVec 1) (x : BitVec 3) (b : BitVec 3) (a : BitVec 3) (q : BitVec 3) : Statement (.mmag c z x b a q) :=
  slot_form _ (123#7) rfl rfl (by decide)
theorem mteam (c : BitVec 3) (z : BitVec 1) (b : BitVec 3) (a : BitVec 3) (q : BitVec 3) : Statement (.mteam c z b a q) :=
  slot_form _ (123#7) rfl rfl (by decide)
theorem mswap (b : BitVec 3) (a : BitVec 3) : Statement (.mswap b a) := slot_form _ (125#10) rfl rfl (by decide)
theorem mldt (c : BitVec 3) (a : BitVec 3) (q : BitVec 3) : Statement (.mldt c a q) :=
  slot_form _ (125#7) rfl rfl (by decide)
theorem mepi (r : BitVec 2) (p : BitVec 1) (o : BitVec 1) (g : BitVec 1) (n : BitVec 1) (b : BitVec 3) (a : BitVec 3) (q : BitVec 3) : Statement (.mepi r p o g n b a q) :=
  slot_form _ (125#7) rfl rfl (by decide)
theorem cMov (a : BitVec 5) (d : BitVec 5) : Statement (.cMov a d) := parcel_form _ (2#6) rfl rfl (by decide)
theorem cAdd (a : BitVec 5) (d : BitVec 5) : Statement (.cAdd a d) := parcel_form _ (4#6) rfl rfl (by decide)
theorem cSub (a : BitVec 5) (d : BitVec 5) : Statement (.cSub a d) := parcel_form _ (6#6) rfl rfl (by decide)
theorem cAnd (a : BitVec 5) (d : BitVec 5) : Statement (.cAnd a d) := parcel_form _ (8#6) rfl rfl (by decide)
theorem cOr (a : BitVec 5) (d : BitVec 5) : Statement (.cOr a d) := parcel_form _ (10#6) rfl rfl (by decide)
theorem cXor (a : BitVec 5) (d : BitVec 5) : Statement (.cXor a d) := parcel_form _ (12#6) rfl rfl (by decide)
theorem cShl (a : BitVec 5) (d : BitVec 5) : Statement (.cShl a d) := parcel_form _ (14#6) rfl rfl (by decide)
theorem cShr (a : BitVec 5) (d : BitVec 5) : Statement (.cShr a d) := parcel_form _ (16#6) rfl rfl (by decide)
theorem cSar (a : BitVec 5) (d : BitVec 5) : Statement (.cSar a d) := parcel_form _ (18#6) rfl rfl (by decide)
theorem cAddi (i : BitVec 5) (d : BitVec 5) : Statement (.cAddi i d) := parcel_form _ (20#6) rfl rfl (by decide)
theorem cLi (i : BitVec 5) (d : BitVec 5) : Statement (.cLi i d) := parcel_form _ (22#6) rfl rfl (by decide)
theorem cShli (n : BitVec 5) (d : BitVec 5) : Statement (.cShli n d) := parcel_form _ (24#6) rfl rfl (by decide)
theorem cShri (n : BitVec 5) (d : BitVec 5) : Statement (.cShri n d) := parcel_form _ (26#6) rfl rfl (by decide)
theorem cSari (n : BitVec 5) (d : BitVec 5) : Statement (.cSari n d) := parcel_form _ (28#6) rfl rfl (by decide)
theorem cAndi (i : BitVec 5) (d : BitVec 5) : Statement (.cAndi i d) := parcel_form _ (30#6) rfl rfl (by decide)
theorem cSlt (a : BitVec 5) (d : BitVec 5) : Statement (.cSlt a d) := parcel_form _ (32#6) rfl rfl (by decide)
theorem cSeq (a : BitVec 5) (d : BitVec 5) : Statement (.cSeq a d) := parcel_form _ (34#6) rfl rfl (by decide)
theorem cMin (a : BitVec 5) (d : BitVec 5) : Statement (.cMin a d) := parcel_form _ (36#6) rfl rfl (by decide)
theorem cMax (a : BitVec 5) (d : BitVec 5) : Statement (.cMax a d) := parcel_form _ (38#6) rfl rfl (by decide)
theorem cLd (a : BitVec 5) (d : BitVec 5) : Statement (.cLd a d) := parcel_form _ (40#6) rfl rfl (by decide)
theorem cSt (a : BitVec 5) (d : BitVec 5) : Statement (.cSt a d) := parcel_form _ (42#6) rfl rfl (by decide)
theorem cNeg (a : BitVec 5) (d : BitVec 5) : Statement (.cNeg a d) := parcel_form _ (44#6) rfl rfl (by decide)
theorem cNot (a : BitVec 5) (d : BitVec 5) : Statement (.cNot a d) := parcel_form _ (46#6) rfl rfl (by decide)
theorem cBz (i : BitVec 5) (d : BitVec 5) : Statement (.cBz i d) := parcel_form _ (48#6) rfl rfl (by decide)
theorem cBnz (i : BitVec 5) (d : BitVec 5) : Statement (.cBnz i d) := parcel_form _ (50#6) rfl rfl (by decide)
theorem cJ (i : BitVec 10) : Statement (.cJ i) := parcel_form _ (52#6) rfl rfl (by decide)
theorem cJr (a : BitVec 5) : Statement (.cJr a) := parcel_form _ (54#11) rfl rfl (by decide)
theorem cNop : Statement (.cNop) := rfl
theorem cYield : Statement (.cYield) := rfl
theorem cFadd (a : BitVec 5) (d : BitVec 5) : Statement (.cFadd a d) := parcel_form _ (60#6) rfl rfl (by decide)
theorem illegalEncoding (slot : BitVec 32) (high : Bool) : Statement (.illegalEncoding slot high) := trivial
theorem softError (site : ErrorSite) : Statement (.softError site) := trivial
theorem ethLinkDown (port : Nat) : Statement (.ethLinkDown port) := trivial
theorem towlineMooredReceive (session : Nat) : Statement (.towlineMooredReceive session) := trivial

end Sys2Proof.Laws.CodeForm
end

