-- ==== Sys2Proof/Laws/Shared.lean ====
section
/-! SUPPORT. What the shared operations that most meanings end in do, said once: the agenda, the cores, creels and endpoints
after their changes, a park, the trace and a trap. -/

namespace Sys2Proof.Machine

variable (s : State)

/-! ## The agenda -/

/-- What stands in the agenda after an insertion: the new happening and what stood there. -/
@[simp] theorem mem_insertDue (d e : Due) (l : List Due) : e ∈ insertDue d l ↔ e = d ∨ e ∈ l := by
  induction l with
  | nil => simp [insertDue]
  | cons a r ih =>
    simp only [insertDue]
    split
    · simp
    · simp only [List.mem_cons, ih]
      constructor
      · rintro (h | h | h) <;> simp [h]
      · rintro (h | h | h) <;> simp [h]

/-- A happening set for a cycle stands in the agenda. -/
theorem mem_at (c : Nat) (a : Act) (e : Due) : e ∈ (s.at c a).agenda ↔ e = ⟨c, a⟩ ∨ e ∈ s.agenda := mem_insertDue ..

/-- An event set n cycles ahead is in n cycles. -/
theorem inCycles_after (n : Nat) (e : Event) : InCycles (s.after n (.event e)) n e :=
  (mem_at s (s.cyc + n) (.event e) _).mpr (.inl rfl)

/-- What was to come stays to come after another happening is set. -/
theorem inCycles_at {s : State} {n : Nat} {e : Event} (h : InCycles s n e) (c : Nat) (a : Act) : InCycles (s.at c a) n e :=
  (mem_at s c a _).mpr (.inr h)

theorem soon_at {s : State} {e : Event} (h : Soon s e) (c : Nat) (a : Act) : Soon (s.at c a) e :=
  (mem_at s c a _).mpr (.inr h)

/-! ## What is read after a change -/

@[simp] theorem coreOf_modCore (c d : CoreId) (f : CoreSt → CoreSt) :
    coreOf (modCore s c f) d = if c = d then f (coreOf s c) else coreOf s d := by
  unfold coreOf modCore
  simp only [SMap.get_put]
  split <;> rfl

@[simp] theorem creelOf_modCreel (k l : CreelId) (f : CreelSt → CreelSt) :
    creelOf (modCreel s k f) l = if k = l then f (creelOf s k) else creelOf s l := by
  unfold creelOf modCreel
  simp only [SMap.get_put]
  split <;> rfl

@[simp] theorem epOf_modEp (c d : CoreId) (n m : Nat) (f : Endpoint → Endpoint) :
    epOf (modEp s c n f) d m = if (c, n) = (d, m) then f (epOf s c n) else epOf s d m := by
  unfold epOf modEp
  simp only [SMap.get_put]
  split <;> rfl

/-! ## Parking -/

/-- A park in place: the thread waits for its condition, and nothing but what the model keeps of the instruction changes. -/
theorem parked_parkOn {s : State} (k : Cond) (h : (s.threads.find s.cur).isSome = true) : Parked s (parkOn s k) k := by
  have h1 : (parkOn s k).th = { s.th with wait := .redo k, parked := some (s.word, s.high, s.buffered) } := th_mod _ h
  have h2 : parkOn s k = { s with threads := (parkOn s k).threads } := mod_eq s _
  refine ⟨by rw [h1], by rw [h1], by rw [h1]; rfl, fun u hu => find_mod_other s _ u hu, by rw [h2], ?_⟩
  rw [h2]; exact ⟨rfl, rfl, rfl⟩

/-! ## The trace -/

/-- Nothing but the creels differs: the frame of a trace record, which its creel collects until the cycle ends. -/
def TraceFrame (s t : State) : Prop := t = { s with creels := t.creels }

theorem traceFrame_modCreel (k : CreelId) (f : CreelSt → CreelSt) : TraceFrame s (modCreel s k f) := rfl

theorem traceFrame_traceRec (t : ThreadId) (kind : Nat) (p : List Byte) : TraceFrame s (traceRec s t kind p) := by
  unfold traceRec
  split
  · exact traceFrame_modCreel ..
  · rfl

/-- Where the trace does not record, nothing is changed. -/
theorem traceRec_off {s : State} {t : ThreadId} {kind : Nat} (p : List Byte)
    (h : traceOn s t.core.creel kind t.core.node t.slot = false) : traceRec s t kind p = s := by
  unfold traceRec
  rw [if_neg (by simp [h])]

/-! ## Taking a trap -/

/-- One bit of a word set or cleared. -/
theorem getLsbD_setBit (w : Word) (k i : Nat) (b : Bool) (h : i < 64) :
    (setBit w k b).getLsbD i = if i = k then b else w.getLsbD i := by
  have h1 : (1#64 <<< k).getLsbD i = decide (i = k) := by
    rw [BitVec.getLsbD_shiftLeft]
    by_cases hk : i = k
    · subst hk; simp [h]
    · by_cases hl : i < k
      · simp [hl, hk]
      · have : i - k ≠ 0 := by omega
        simp [hl, hk, this]
  unfold setBit
  cases b
  · simp only [Bool.false_eq_true, if_false, BitVec.getLsbD_and, BitVec.getLsbD_not, h, h1]
    by_cases hk : i = k <;> simp [hk]
  · simp only [if_true, BitVec.getLsbD_or, h1]
    by_cases hk : i = k <;> simp [hk]

/-- The handler's address (R275): BASE of XVEC, a multiple of 4,096, and 256 bytes a code. -/
theorem xvecBase_add (c : CoreId) (n : Nat) : xvecBase s c + BitVec.ofNat 57 (256 * n) =
    BitVec.ofNat 57 ((coreOf s c).xvec.toNat / 4096 * 4096 + 256 * n) := by
  unfold xvecBase
  generalize (coreOf s c).xvec = w
  have h : (BitVec.extractLsb' 0 57 w &&& ~~~0xFFF#57) = BitVec.ofNat 57 (w.toNat / 4096 * 4096) := by
    ext i hi
    have h2 : w.toNat / 4096 * 4096 = (w.toNat >>> 12) <<< 12 := by
      rw [Nat.shiftRight_eq_div_pow, Nat.shiftLeft_eq]
    have h3 : (4095#57)[i] = decide (i < 12) := by
      have : (4095#57) = BitVec.ofNat 57 (2 ^ 12 - 1) := rfl
      rw [← BitVec.getLsbD_eq_getElem, this, BitVec.getLsbD_ofNat, Nat.testBit_two_pow_sub_one]
      simp [hi]
    have h5 : (BitVec.ofNat 57 (w.toNat >>> 12 <<< 12))[i] = (decide (12 ≤ i) && w.getLsbD (12 + (i - 12))) := by
      rw [← BitVec.getLsbD_eq_getElem, BitVec.getLsbD_ofNat, Nat.testBit_shiftLeft, Nat.testBit_shiftRight,
        BitVec.testBit_toNat]
      simp [hi]
    simp only [BitVec.getElem_and, BitVec.getElem_extractLsb', BitVec.getElem_not, h2, h3, h5, Nat.zero_add]
    by_cases h4 : i < 12
    · simp [h4, show ¬ 12 ≤ i by omega]
    · simp [h4, show 12 ≤ i by omega, show 12 + (i - 12) = i by omega]
  rw [h, BitVec.ofNat_add]

/-- R275. A trap of the current thread outside a handler, with a handler table: all that it writes. -/
theorem trapped_takeTrap {s : State} (pc : BitVec 57) (tr : Trap) (h : (s.threads.find s.cur).isSome = true)
    (hh : Handled s) : Trapped s (takeTrap s s.cur pc tr) pc tr.code tr.info := by
  obtain ⟨h1, h2, h3, h4⟩ := hh
  have hx : stXm s.th.status = stXm (threadOf s s.cur).status := rfl
  have hg : (stXm (threadOf s s.cur).status || !xvecEn s s.cur.core) = false := by
    rw [← hx, h1]; unfold xvecEn; simp [h2]
  unfold takeTrap
  simp only [hg, Bool.false_eq_true, if_false, h3]
  generalize hr : traceRec s s.cur 2 (leBytes 8 pc.toNat ++ leBytes 1 tr.code ++ leBytes 7 tr.info.toNat) = u
  have hf : TraceFrame s u := hr ▸ traceFrame_traceRec s s.cur 2 _
  have hc : u.cur = s.cur := by rw [hf]
  have ht : u.threads = s.threads := by rw [hf]
  have hu : (u.threads.find u.cur).isSome = true := by rw [hc, ht]; exact h
  have he : u.th = s.th := by unfold State.th threadOf; rw [hc, ht]
  rw [← hc]
  show Trapped s (u.mod _) _ _ _
  refine ⟨?_, ?_, ?_, ?_, ?_, ?_, ?_, ?_, ?_, ?_⟩
  · rw [th_mod _ hu]; rfl
  · rw [th_mod _ hu]; rfl
  · rw [th_mod _ hu]; rfl
  · rw [th_mod _ hu]
    show xvecBase s u.cur.core + BitVec.ofNat 57 (256 * tr.code) = _
    rw [xvecBase_add, hc]
  · intro i hi
    rw [th_mod _ hu, he]
    show (setBit (setBit (setBit s.th.status 21 (stSup s.th.status)) 16 true) 17 true).getLsbD i = _
    rw [getLsbD_setBit _ _ _ _ hi, getLsbD_setBit _ _ _ _ hi, getLsbD_setBit _ _ _ _ hi]
    unfold State.sup
    split
    · simp [*]
    · split
      · simp [*]
      · split <;> simp [*]
  · rw [th_mod _ hu]; exact ⟨rfl, rfl⟩
  · rw [th_mod _ hu, he]; rfl
  · intro v hv
    rw [find_mod_other u _ v (by rw [hc]; exact hv), ht]
  · rw [mod_eq]
    show u.regs = s.regs
    rw [hf]
  · intro hoff
    have : u = s := by rw [← hr]; exact traceRec_off _ hoff
    subst this
    rw [mod_eq]; exact ⟨rfl, rfl, rfl⟩

end Sys2Proof.Machine
end

