-- ==== Sys2Proof/Tests/States.lean ====
section
/-! SUPPORT. Small states for the tests: one supervisor thread of 128 registers in slot 0 of core C0 of creel (0, 0), the
device in RUN, a handler table, and whatever the test puts beside them. -/

namespace Sys2Proof.Tests

open Sys2Proof Sys2Proof.Machine

-- one theorem after the other: each is small, and many at once would take a thread each
set_option Elab.async false

/-- Creel (0, 0). -/
def creel : CreelId := ⟨0, 0⟩

/-- Core C0 of creel (0, 0). -/
def core : CoreId := ⟨0, 0, 3⟩

/-- Slot 0 of that core. -/
def slot0 : ThreadId := ⟨core, 0⟩

/-- A supervisor thread of 128 registers. -/
def thread0 : Thread := { Thread.blank with pc := 0x1000, status := 0x10000, nregs := 128 }

/-- The device in RUN with that thread alone. -/
def base : State :=
  { State.reset with
    power := { PowerSt.initial with state := .run, trans := .none, phase := 5, ready := true }
    cur := slot0
    threads := [(slot0, thread0)]
    cores := [(core, { CoreSt.initial with xvec := 0x2001 })] }

/-- The thread changed. -/
def withThread (s : State) (f : Thread → Thread) : State := { s with threads := s.threads.put slot0 (f s.th) }

/-- Registers of the thread, with S clear. -/
def withRegs (s : State) (l : List (Nat × Word)) : State :=
  { s with regs := l.foldl (fun m e => m.put (core, e.1) (mkEntry e.2 false)) s.regs }

/-- A register with S set. -/
def withSticky (s : State) (n : Nat) (w : Word) : State := { s with regs := s.regs.put (core, n) (mkEntry w true) }

/-- The core changed. -/
def withCore (s : State) (f : CoreSt → CoreSt) : State := modCore s core f

/-- The creel changed. -/
def withCreel (s : State) (f : CreelSt → CreelSt) : State := modCreel s creel f

/-- An endpoint of the core. -/
def withEp (s : State) (n : Nat) (e : Endpoint) : State := { s with eps := s.eps.put (core, n) e }

/-- The physical address of the core's local store, which the self window shows at offset 0x80000 (R52). -/
def local0 : Nat := windowBase creel + 0x80000 + 0x10000 * 3

/-- The virtual address of the local store in the self window. -/
def va0 : Word := 0x1FFFFFFFFF80000

/-- Bytes in the local store, from an offset. -/
def withBytes (s : State) (off : Nat) (bs : List Byte) : State := { s with mem := putBytes s.mem (local0 + off) bs }

/-- One word in the local store. -/
def withWord (s : State) (off : Nat) (w : Word) : State := withBytes s off (leBytes 8 w.toNat)

/-- The instruction's beat is not its first. -/
def going (s : State) : State := withThread s fun th => { th with going := true }

/-- The thread in user mode. -/
def user (s : State) : State := withThread s fun th => { th with status := 0 }

/-- The thread inside a handler. -/
def handler (s : State) : State := withThread s fun th => { th with status := 0x30000 }

/-- Zero bytes but for those listed, by offset. -/
def bytes (n : Nat) (l : List (Nat × Nat)) : List Byte :=
  (List.range n).map fun i => BitVec.ofNat 8 (((l.find? fun e => decide (e.1 = i)).map (·.2)).getD 0)

/-- A launch record of two levels: teams of two creels by one, and teams of one creel below them; each of one slot, eight
registers and 9,216 bytes of scratchpad. -/
def record : List Byte :=
  bytes 320 [(6, 2), (7, 1), (64, 3), (64 + 4, 2), (64 + 5, 1), (64 + 0x19, 0x24), (64 + 0x1E, 8), (64 + 0x22, 1),
    (192, 2), (192 + 0x19, 0x24), (192 + 0x1E, 8), (192 + 0x22, 1)]

/-- Team 0 of level 0, and its second child. -/
def team : TeamKey := ⟨0, 0, 0⟩
def child : TeamKey := ⟨0, 1, 1⟩

/-- A team's record, placed. -/
def placed (x y w h : Nat) : TeamSt := ⟨x, y, w, h, .placed, 0, 0, 0, 0, 0, 0, [], 0, 0, 0, false, false, [], [], 0⟩

/-- Launch slot 0 holds the record; team 0 stands on creels (0, 0) and (1, 0), its second child on creel (1, 0). -/
def withTeams (s : State) : State :=
  { s with launches := [(0, ⟨1, record, 0, 0, 0, []⟩)], teams := [(team, placed 0 0 2 1), (child, placed 1 0 1 1)] }

/-- The thread of team 0. -/
def teamState : State := withTeams (withThread base fun th => { th with key := some team })

/-- A well-formed packet of one unit: level, team, eight registers. -/
def packet (level team : Nat) : List Byte := bytes 64 [(0, 1), (1, 1), (4, 8), (5, level), (8, team)]

/-! ## Channels -/

/-- A state record of a flight: kind, flags, shape, MAXFL and its branches. -/
def flightState (kind flags shape maxfl : Nat) (bs : List (Nat × Nat)) : List Byte :=
  bytes 16 ([(0, kind), (1, 0x11), (2, bs.length), (3, flags), (4, shape), (5, maxfl)] ++
    (bs.zip (List.range 4)).flatMap fun p => [(6 + 2 * p.2, p.1.1), (7 + 2 * p.2, p.1.2)])

/-- An image with a state of every kind: 0 SEND, 1 RECV, 2 OFFER, 3 SELECT, 4 END; 5 and 6 send and receive a tile of two W32
elements, 7 and 8 offer and select it, 9 and 10 send and receive a delegation, 11 sends inline code. -/
def image : List Byte :=
  bytes 32 [(0, 0x54), (1, 0x47), (2, 0x4C), (3, 0x46), (4, 1), (6, 12), (8, 2)] ++
    bytes 16 [(0, 1), (1, 1), (2, 1), (4, 2), (6, 1), (8, 1), (10, 1)] ++ bytes 16 [(0, 2), (8, 0x77)] ++
    [flightState 1 0 0 65 [(0x21, 4)], flightState 2 0 0 9 [(0x22, 1)], flightState 3 0 0 9 [(0x22, 1), (0x2F, 4)],
      flightState 4 0 0 65 [(0x21, 0), (0x2F, 4)], flightState 6 0 0 0 [], flightState 1 1 0 1 [(0x21, 4)],
      flightState 2 1 0 1 [(0x22, 1)], flightState 3 1 0 1 [(0x22, 1), (0x2F, 4)], flightState 4 1 0 1 [(0x21, 0), (0x2F, 4)],
      flightState 1 2 1 1 [(0xF8, 4)], flightState 2 2 1 1 [(0xF8, 4)], flightState 1 0 0 65 [(0xF7, 4)]].flatten

/-- The peer: endpoint 1 of core 4 of the same creel. -/
def peer : BitVec 32 := 0x202

/-- An open endpoint of slot 0 at a state of that image, one credit in hand. -/
def openEp (st : Nat) : Endpoint :=
  { Endpoint.initial with
    est := .opened, state := st, astate := st, peer := peer, lin := 1, lout := 1, maxin := 9, maxout := 65, credit := 1, hown := 0x77
    held := true, bufn := 4 }

/-- The flight of that image, in the store of creel (0, 0). -/
def flight : Flight := ⟨true, 0, image.length, 1, 1, 9, 65, 0x77, 0x78, image, none, none⟩

/-- A pool of 64 units at the local store's offset 0x1000, the flight loaded, endpoint 63 open at a state. -/
def channelState (s : State) (st : Nat) : State :=
  withEp (withCreel (withCore s fun c => { c with chpool := 0x0008100000000081#64 }) fun c => { c with flights := [(0, flight)] }) 63
    (openEp st)

/-- A message from the peer to endpoint 63. -/
def message (ty : Byte) (payload : List Byte) : Msg :=
  ⟨ty, flitsOf payload.length, false, payload.length, epAddr base core 63, peer, 0, 0, 0, 0, payload⟩

/-- The message lies in the first slot of its buffer. -/
def withMessage (s : State) (m : Msg) : State := withBytes s 0x1000 (headerBytes m ++ m.payload)

/-- A stream of two W32 elements at the start of the local store. -/
def stream (total : Nat) : ZReg :=
  ⟨1, 0, 0, false, 0, 0x1FFFFFFFFF80000, 0, ⟨1, 1, 0, 0, [total, 1, 1, 1], [1, 0, 0, 0], 0, [0, 0, 0, 0], [0, 0, 0, 0],
    [0, 0, 0, 0], 0, 0⟩, []⟩

/-- Stream register n bound. -/
def withZ (s : State) (n : Nat) (z : ZReg) : State := withThread s fun th => { th with z := th.z.set n z }

/-- A stream of so many elements of a type, at an offset of the local store. -/
def streamOf (off total et : Nat) : ZReg :=
  { stream total with zbase := BitVec.ofNat 57 (0x1FFFFFFFFF80000 + off), shape := { (stream total).shape with et := et } }

/-- All eight stream registers bound, 64 bytes apart, to four elements of the types given. -/
def withStreams (s : State) (ets : List Nat) : State :=
  withThread s fun th => { th with z := (ets.zip (List.range 8)).map fun p => streamOf (64 * p.2) 4 p.1 }

end Sys2Proof.Tests
end

