-- ==== Sys2Proof/Tests/Slice0.lean ====
section
/-! SUPPORT. Tests of the model on fixed values: slots written out from the spec's encodings, ill-formed terms that the check
refuses, and single steps. The expected values are the spec's worked examples and tables, or hand calculation from its rules. -/

namespace Sys2Proof.Tests

open Sys2Proof Sys2Proof.Machine

-- one theorem after the other: each is small, and many at once would take a thread each
set_option Elab.async false

/-! ## Decoding -/

/-- spec/11 (R263), spec/12 and spec/18: worked encodings of majors 0 to 15. -/
theorem test_decode_alu :
    decodeSlot 0x00E18281#32 false = .ok (.add 7 6 5) ∧
    decodeSlot 0x3182C503#32 false = .ok (.div 12 11 10) ∧
    decodeSlot 0x12440C05#32 false = .ok (.lea 1 18 16 24) ∧
    decodeSlot 0x00610217#32 false = .ok (.shli 3 4 4) ∧
    decodeSlot 0xFFFEC1A1#32 false = .ok (.li 0x3FFFB 3) :=
  ⟨rfl, rfl, rfl, rfl, rfl⟩

/-- spec/12 and spec/18: branches, system registers, waits. The word of the loop is the sum of the fields that R263 gives (DEDUCED, log 60). -/
theorem test_decode_control :
    decodeSlot 0xFFFD4225#32 false = .ok (.bnz 0xFFFD 4) ∧
    decodeSlot 0xFFFD03D5#32 false = .ok (.loop 0xFFFD 7) ∧
    decodeSlot 0x00C002DB#32 false = .ok (.sysrd 6 5) ∧
    decodeSlot 0x02400E5B#32 false = .ok (.sysrd 0x012 28) ∧
    decodeSlot 0x6202405D#32 false = .ok (.syswr 0x310 9) ∧
    decodeSlot 0x20000057#32 false = .ok (.halt) ∧
    decodeSlot 0x50000057#32 false = .ok (.wfe) :=
  ⟨rfl, rfl, rfl, rfl, rfl, rfl, rfl⟩

/-- spec/12: majors 32 and 33. -/
theorem test_decode_floats :
    decodeSlot 0xB2C54A41#32 false = .ok (.ffma 22 21 20) ∧
    decodeSlot 0x020102C3#32 false = .ok (.fcvt 0 2 0 4 5) :=
  ⟨rfl, rfl⟩

/-- R301, R302: majors 34 to 38, m 0 and 6, b 2, a 1, d 3; R303, m 8 of major 37 with grp 2. -/
theorem test_decode_packed :
    decodeSlot 0x004041C5#32 false = .ok (.paddW32 2 1 3) ∧
    decodeSlot 0x004041C7#32 false = .ok (.paddBf16 2 1 3) ∧
    decodeSlot 0x004041C9#32 false = .ok (.paddFp16 2 1 3) ∧
    decodeSlot 0x604041CB#32 false = .ok (.pdotI8 2 1 3) ∧
    decodeSlot 0x004041CD#32 false = .ok (.paddI32 2 1 3) ∧
    decodeSlot 0x804182CB#32 false = .ok (.pcvtW32I8 2 6 5) :=
  ⟨rfl, rfl, rfl, rfl, rfl, rfl⟩

/-- spec/13 and spec/18: majors 20 to 29. -/
theorem test_decode_memory :
    decodeSlot 0x03C084A9#32 false = .ok (.ld 3 6 2 9) ∧
    decodeSlot 0x3C228929#32 false = .ok (.ld 0x3C 1 10 18) ∧
    decodeSlot 0x30E182AB#32 false = .ok (.ldx 3 7 6 5) ∧
    decodeSlot 0x0280822D#32 false = .ok (.st 2 4 2 4) ∧
    decodeSlot 0x0046492D#32 false = .ok (.st 0 2 25 18) ∧
    decodeSlot 0xFFC101AF#32 false = .ok (.lda 0xFF 6 4 3) ∧
    decodeSlot 0x0040C633#32 false = .ok (.spill 2 3 12) ∧
    decodeSlot 0x000182B7#32 false = .ok (.ldfe 6 5) ∧
    decodeSlot 0x02E58039#32 false = .ok (.amoadd 23 22 0) ∧
    decodeSlot 0x710243BB#32 false = .ok (.amocasAcq 8 9 7) :=
  ⟨rfl, rfl, rfl, rfl, rfl, rfl, rfl, rfl, rfl, rfl⟩

/-- spec/13 and spec/18: major 31. -/
theorem test_decode_sync :
    decodeSlot 0x1000003F#32 false = .ok (.fenceRel) ∧
    decodeSlot 0x40068CBF#32 false = .ok (.barrive 26 25) ∧
    decodeSlot 0x50E1003F#32 false = .ok (.bwait 7 4) ∧
    decodeSlot 0x6000003F#32 false = .ok (.waitmsg) ∧
    decodeSlot 0x7000053F#32 false = .ok (.msgpop 10) ∧
    decodeSlot 0x8061403F#32 false = .ok (.mbput 3 5) :=
  ⟨rfl, rfl, rfl, rfl, rfl, rfl⟩

/-- spec/14 and spec/18: major 47. -/
theorem test_decode_tasks :
    decodeSlot 0x00048ADF#32 false = .ok (.enq 18 21) ∧
    decodeSlot 0x1000005F#32 false = .ok (.tdone 0) ∧
    decodeSlot 0x30C1405F#32 false = .ok (.pushc 6 5) ∧
    decodeSlot 0x8000C05F#32 false = .ok (.reprun 0 3) :=
  ⟨rfl, rfl, rfl, rfl⟩

/-- spec/14 and spec/18: majors 48 and 49. -/
theorem test_decode_channels :
    decodeSlot 0x00C422E1#32 false = .ok (.send 6 0x21 5) ∧
    decodeSlot 0x20C442E1#32 false = .ok (.recv 6 0x22 5) ∧
    decodeSlot 0x420000E1#32 false = .ok (.offer 16 1) ∧
    decodeSlot 0x521C00E1#32 false = .ok (.select 16 0xE0 1) ∧
    decodeSlot 0x612000E1#32 false = .ok (.deleg 9 1) ∧
    decodeSlot 0x01E00063#32 false = .ok (.autload 15) ∧
    decodeSlot 0x208001E3#32 false = .ok (.connect 4 3) ∧
    decodeSlot 0x53A00163#32 false = .ok (.epstat 29 2) :=
  ⟨rfl, rfl, rfl, rfl, rfl, rfl, rfl, rfl⟩

/-- spec/15 and spec/18: majors 52 to 58. -/
theorem test_decode_vectors :
    decodeSlot 0x10002169#32 false = .ok (.vadd 0 2 1 0 2) ∧
    decodeSlot 0x401A21E9#32 false = .ok (.vfma 1 0 2 1 0 3) ∧
    decodeSlot 0xC010AFE9#32 false = .ok (.vmul 3 0 5 3 7) ∧
    decodeSlot 0xC000066D#32 false = .ok (.vrsum 3 0 1 4) ∧
    decodeSlot 0x201800ED#32 false = .ok (.vscan 0 4 0 1) ∧
    decodeSlot 0x281022EF#32 false = .ok (.vcmpLt 0 5 1 0 5) ∧
    decodeSlot 0x201800F1#32 false = .ok (.viota 0 4 1) ∧
    decodeSlot 0x380A21F3#32 false = .ok (.vqenc 0 7 2 1 0 3) ∧
    decodeSlot 0x00C14175#32 false = .ok (.zbind 6 5 2) ∧
    decodeSlot 0x206003F5#32 false = .ok (.zstat 3 7) :=
  ⟨rfl, rfl, rfl, rfl, rfl, rfl, rfl, rfl, rfl, rfl⟩

/-- spec/16 and spec/18: majors 60 to 62. -/
theorem test_decode_matrix :
    decodeSlot 0x00000C79#32 false = .ok (.mset 3) ∧
    decodeSlot 0x18080079#32 false = .ok (.mclr 3 0) ∧
    decodeSlot 0x00181C79#32 false = .ok (.mstat 7) ∧
    decodeSlot 0xC000207B#32 false = .ok (.mma 6 0 1 0 0) ∧
    decodeSlot 0xE800697B#32 false = .ok (.mma 7 1 3 2 2) ∧
    decodeSlot 0x400C20FB#32 false = .ok (.mmag 2 0 4 1 0 1) ∧
    decodeSlot 0xC010207B#32 false = .ok (.mteam 6 0 1 0 0) ∧
    decodeSlot 0x6810B07D#32 false = .ok (.mepi 1 1 0 1 0 5 4 0) ∧
    decodeSlot 0x4010147D#32 false = .ok (.mepi 1 0 0 0 0 0 5 0) ∧
    decodeSlot 0x0000207D#32 false = .ok (.mswap 1 0) ∧
    decodeSlot 0x000809FD#32 false = .ok (.mldt 0 2 3) :=
  ⟨rfl, rfl, rfl, rfl, rfl, rfl, rfl, rfl, rfl, rfl, rfl⟩

/-! ## Well-formedness -/

/-- R265, R273, R288, R293, R296, R297, R303, R328, R334, R241, R364, R367, R369, R376, R377: the first field value that each
check refuses, and the last that one admits. -/
theorem test_ill_formed0 :
    (Instr.bfx 31 33 0 0).wellFormed = false ∧
    (Instr.bfi 0 63 0 0).wellFormed = true ∧
    (Instr.bfi 1 63 0 0).wellFormed = false ∧
    (Instr.ld 0 7 0 0).wellFormed = false ∧
    (Instr.ldx 7 0 0 0).wellFormed = false ∧
    (Instr.st 0 1 0 0).wellFormed = false ∧
    (Instr.lda 0 7 0 0).wellFormed = false ∧
    (Instr.stl 0 3 0 0).wellFormed = false ∧
    (Instr.msgpop 5).wellFormed = false ∧
    (Instr.fcvt 0 7 0 0 0).wellFormed = false ∧
    (Instr.fcvt 0 0 7 0 0).wellFormed = false ∧
    (Instr.fcvt 1 2 0 0 0).wellFormed = false ∧
    (Instr.frnd 7 0 0).wellFormed = false ∧
    (Instr.loop 0 0).wellFormed = false ∧
    (Instr.send 0 0xF9 0).wellFormed = false ∧
    (Instr.sendt 0 0xFF 0).wellFormed = false ∧
    (Instr.recv 0 0xF9 0).wellFormed = false ∧
    (Instr.recvt 0 0xFC 0).wellFormed = false ∧
    (Instr.select 0 0xF9 0).wellFormed = false ∧
    (Instr.vadd 3 6 0 0 0).wellFormed = false := by
  decide

/-- R265, R273, R288, R293, R296, R297, R303, R328, R334, R241, R364, R367, R369, R376, R377: the first field value that each
check refuses, and the last that one admits. -/
theorem test_ill_formed1 :
    (Instr.vfma 3 7 0 0 0 0).wellFormed = false ∧
    (Instr.vscl 0 4 0 0 0 0).wellFormed = false ∧
    (Instr.vscl 0 0 4 0 0 0).wellFormed = false ∧
    (Instr.vexp2 0 5 0 0).wellFormed = false ∧
    (Instr.vcount 0 0 0 0).wellFormed = false ∧
    (Instr.vcmpEq 0 3 0 0 0).wellFormed = false ∧
    (Instr.vand 0 1 0 0 0).wellFormed = false ∧
    (Instr.vshl 0 2 0 0 0).wellFormed = false ∧
    (Instr.vqenc 0 5 0 0 0 0).wellFormed = false ∧
    (Instr.vqenc 0 6 4 0 0 0).wellFormed = false ∧
    (Instr.vqdec 0 4 0 0 0 0).wellFormed = false ∧
    (Instr.vrsum 3 7 0 0).wellFormed = false ∧
    (Instr.mclr 0 4).wellFormed = false ∧
    (Instr.mload 0 0 7).wellFormed = false ∧
    (Instr.mma 4 0 0 0 0).wellFormed = false ∧
    (Instr.mma 0 0 0 0 4).wellFormed = false ∧
    (Instr.mmag 4 0 0 0 0 0).wellFormed = false ∧
    (Instr.mteam 4 0 0 0 0).wellFormed = false ∧
    (Instr.mldt 0 0 4).wellFormed = false ∧
    (Instr.mepi 0 0 0 0 0 0 0 4).wellFormed = false := by
  decide

/-- R265, R273, R288, R293, R296, R297, R303, R328, R334, R241, R364, R367, R369, R376, R377: the first field value that each
check refuses, and the last that one admits. -/
theorem test_ill_formed2 :
    (Instr.pcvtBf16W32 1 0 0).wellFormed = false ∧
    (Instr.pcvtFp16W32 1 0 0).wellFormed = false ∧
    (Instr.pcvtI8W32 1 0 0).wellFormed = false ∧
    (Instr.pcvtI32W32 1 0 0).wellFormed = false ∧
    (Instr.pcvtW32Bf16 2 0 0).wellFormed = false ∧
    (Instr.pcvtFp16Bf16 1 0 0).wellFormed = false ∧
    (Instr.pcvtI8Bf16 1 0 0).wellFormed = false ∧
    (Instr.pcvtI32Bf16 2 0 0).wellFormed = false ∧
    (Instr.pcvtW32Fp16 2 0 0).wellFormed = false ∧
    (Instr.pcvtBf16Fp16 1 0 0).wellFormed = false ∧
    (Instr.pcvtI8Fp16 1 0 0).wellFormed = false ∧
    (Instr.pcvtI32Fp16 2 0 0).wellFormed = false ∧
    (Instr.pcvtBf16I8 2 0 0).wellFormed = false ∧
    (Instr.pcvtFp16I8 2 0 0).wellFormed = false ∧
    (Instr.pcvtW32I32 1 0 0).wellFormed = false ∧
    (Instr.pcvtBf16I32 1 0 0).wellFormed = false ∧
    (Instr.pcvtFp16I32 1 0 0).wellFormed = false ∧
    (Instr.pcvtI8I32 1 0 0).wellFormed = false := by
  decide

/-! ## Single steps -/

/-- The state after an instruction; the same state where it stops. -/
def after (i : Instr) (s : State) : State := match exec i s with
  | .next t => t
  | _ => s

/-- R289, R12: the sum wraps, and g0 stays 0. -/
theorem test_add_wraps : (after (.add 2 1 3) (withRegs base [(1, 0xFFFFFFFFFFFFFFFF), (2, 1)])).g 3 = 0 ∧
    (after (.add 2 1 0) (withRegs base [(1, 5), (2, 1)])).g 0 = 0 ∧ (after (.add 2 1 3) base).th.pc = 0x1004 := by decide +kernel

/-- spec/12, "a 64-bit constant": the second and the last of its instructions. -/
theorem test_lix : (after (.lix 0x23456 9) (withRegs base [(9, 4)])).g 9 = 0x123456 ∧
    (after (.lix 0x3CDEF 9) (withRegs base [(9, 0x48D159E26A)])).g 9 = 0x0123456789ABCDEF := by decide +kernel

/-- R289: SLTNI reads -1 as 2^64 - 1; SLTI as -1. -/
theorem test_slti : (after (.sltni 0x7FF 1 3) (withRegs base [(1, 5)])).g 3 = 1 ∧
    (after (.slti 0x7FF 1 3) (withRegs base [(1, 5)])).g 3 = 0 := by decide +kernel

/-- spec/12, "one sum, two roundings": FADD in either order, FCMP, FCVT, FRND and SGET. -/
def oneSum : State := withRegs base [(4, 0x3F800000), (5, 0x30800000)]
def oneRound : State := withSticky (withSticky base 6 0x3F800001) 7 0x3F800001
theorem test_one_sum : (after (.fadd 5 4 6) oneSum).g 6 = 0x3F800001 ∧ (after (.fadd 5 4 6) oneSum).gS 6 = true ∧
    (after (.fadd 4 5 7) oneSum).g 7 = 0x3F800001 := by decide +kernel
theorem test_two_roundings : (after (.fcmp 7 6 8) oneRound).g 8 = 16 ∧ (after (.fcvt 0 2 0 6 9) oneRound).g 9 = 0x3F80 ∧
    (after (.frnd 0 6 10) oneRound).g 10 = 0x3F800001 ∧ (after (.sget 6 11) oneRound).g 11 = 1 := by decide +kernel

/-- spec/10, "a sum that lands near a BF16 tie": 1 + 2^-8 + 2^-30 is (0x3F808001, S = 1), and then 0x3F81. -/
theorem test_near_a_tie : (after (.fadd 5 4 6) (withRegs base [(4, 0x3F808000), (5, 0x30800000)])).g 6 = 0x3F808001 ∧
    (after (.fcvt 0 2 0 6 9) (withSticky base 6 0x3F808001)).g 9 = 0x3F81 := by decide +kernel

/-- spec/10, "FP4 ties after a scale". -/
theorem test_fp4_ties : ([(0x40200000#32, false, 0), (0x40200000#32, true, 0), (0xC0200000#32, false, 0), (0x40200000#32, false, 1),
      (0x3FE00000#32, false, 0), (0xBE800000#32, false, 3), (0x40C00000#32, true, 0)].map fun x =>
      (encodeCb (builtinSlot 6) 4 x.2.2 0 ⟨decodeW32 x.1, x.2.1⟩).1) = [4, 5, 0xC, 5, 4, 8, 7] := by decide +kernel

/-- spec/13, "a fast thread laps a slow one": order 4, the third arrival, and order 6. -/
theorem test_barrive : readWord (after (.barrive 1 5) (withWord (withRegs base [(1, va0)]) 0 0x0003000000000002)) local0 = 0x0003000100000000 ∧
    readWord (after (.barrive 1 5) (withWord (withRegs base [(1, va0)]) 0 0x0003000100000000)) local0 = 0x0003000100010000 ∧
    (after (.barrive 1 5) (withWord (withRegs base [(1, va0)]) 0 0x0003000100000000)).g 5 = 1 := by decide +kernel

/-- R314, little-endian: a byte stored into a word, and a byte loaded with its sign. -/
theorem test_bytes : readWord (after (.st 0 0 1 2) (withWord (withRegs base [(1, va0), (2, 0x1FF)]) 0 0x0102030405060708)) local0 =
      0x01020304050607FF ∧
    (after (.ld 0 0 1 3) (withWord (withRegs base [(1, va0)]) 0 0x80)).g 3 = 0xFFFFFFFFFFFFFF80 := by decide +kernel

/-- R274, R275: a misaligned load traps: xcause 2, xinfo the address, xpc the load, the handler's address and mode. -/
theorem test_align_trap : (after (.ld 0 3 1 3) (withRegs (user base) [(1, va0 + 1)])).th.xcause = 2 ∧
    (after (.ld 0 3 1 3) (withRegs (user base) [(1, va0 + 1)])).th.xinfo = va0 + 1 ∧
    (after (.ld 0 3 1 3) (withRegs (user base) [(1, va0 + 1)])).th.xpc = 0x1000 ∧
    (after (.ld 0 3 1 3) (withRegs (user base) [(1, va0 + 1)])).sup = true := by decide +kernel

/-- spec/02, "a route across three die edges": the head after 120 cycles, the tail 4 later. -/
theorem test_route : msgCycles ⟨5, 3, 4⟩ ⟨77, 40, 3⟩ 1 = 120 ∧ msgCycles ⟨5, 3, 4⟩ ⟨77, 40, 3⟩ 5 = 124 := by decide +kernel

/-- spec/02, "one walk": the indices, and what the leaf says. -/
theorem test_walk : (List.range 5).map (walkIndex 0x0001020304050607) = [1, 2, 3, 4, 5] ∧
    (pteFrame 0x000002C012001D2F, pteScope 0x000002C012001D2F, pteTier 0x000002C012001D2F, pteHeat 0x000002C012001D2F) =
      (0x02C012000000, 4, 2, 1) ∧ pteMig 0x000002C012001D2F = true ∧ pteX 0x000002C012001D2F = false ∧
    homeOf base 0x02C012050607 = some (.control 3 true false) := by decide +kernel

/-- spec/04, "victim order". -/
def wideTeam : State := { teamState with teams := [(team, placed 0 0 4 4)] }
theorem test_victims : (victims wideTeam ⟨1, 1⟩ team).take 10 =
    [⟨2, 1⟩, ⟨1, 2⟩, ⟨0, 1⟩, ⟨1, 0⟩, ⟨3, 1⟩, ⟨2, 2⟩, ⟨1, 3⟩, ⟨0, 2⟩, ⟨0, 0⟩, ⟨2, 0⟩] := by decide +kernel

/-- spec/04, "the estimator": the save times of its team, 40 threads of 64 registers on one creel. -/
def savers : State :=
  let r := bytes 192 [(0, 0x4E), (1, 0x55), (2, 0x41), (3, 0x4C), (4, 1), (6, 1), (8, 192), (64, 3), (68, 2), (69, 2), (64 + 0x1A, 4),
    (64 + 0x1D, 0x40), (64 + 0x22, 15)]
  { base with
    launches := [(0, ⟨1, r, 0, 0, 0, []⟩)], teams := [(team, placed 0 0 2 2)]
    threads := (List.range 40).map fun i => (⟨⟨0, 0, 3 + i / 15⟩, i % 15⟩, { thread0 with key := some team, nregs := 64 }) }
theorem test_save_times : saveTime savers team (placed 0 0 2 2) [team] false = 9216 ∧ saveTime savers team (placed 0 0 2 2) [team] true = 10056 := by
  decide +kernel

/-- R116, R347, R353: the save form of a context has 320 bytes and 16 for each register; slot 5 of C1 (node code 4) stands at 0x02C, `REGS`
at 0x02D, and the flags of the repetition buffer at 0x12C. -/
theorem test_context_form :
    let th := { Thread.blank with nregs := 4, rep := { Thread.blank.rep with running := true }, region := some ⟨0x1240, 3, 1, false⟩ }
    let l := contextForm State.reset ⟨⟨0, 0, 4⟩, 5⟩ th
    l.length = 384 ∧ l.getD 0x2C 0 = 0x45 ∧ l.getD 0x2D 0 = 4 ∧ l.getD 0x12C 0 = 3 ∧ l.getD 0x130 0 = 0x40 ∧ l.getD 0x131 0 = 0x12 ∧
      l.getD 0x138 0 = 3 ∧ l.getD 0x13A 0 = 1 := by
  decide +kernel

/-- R373: element (2, 3) of region 1 lies at 4,096 + 256 + 12, its sticky bit at bit 3 of byte 0x4000 + 128 + 8. -/
theorem test_acc_form :
    accForm { CoreSt.initial with acc := [(1024 + 32 * 2 + 3, ⟨0x01020304#32, true⟩)] } =
      [(4364, 4), (4365, 3), (4366, 2), (4367, 1), (0x4088, 8)] := by
  decide +kernel

/-- spec/06, "halt and resume skew": a halt of ring position 4 in cycle 75,781, a resume accepted in 76,700. -/
def skewed : State :=
  withCreel { base with cyc := 76700 } fun c => { c with halt := some ⟨75781, 4, 1, 0, 5, none, none, none, [], [], []⟩ }
theorem test_resume_cycle : (creelOf (after (.dbgResume creel) skewed) creel).halt.bind (fun h => h.resume) = some 76709 := by decide +kernel

/-- FIPS 180-4: the digest of "abc", by which R192 hashes forms. -/
theorem test_sha256 : sha256 [0x61, 0x62, 0x63] = [0xBA, 0x78, 0x16, 0xBF, 0x8F, 0x01, 0xCF, 0xEA, 0x41, 0x41, 0x40, 0xDE, 0x5D, 0xAE, 0x22, 0x23,
    0xB0, 0x03, 0x61, 0xA3, 0x96, 0x17, 0x7A, 0x9C, 0xB4, 0x10, 0xFF, 0x61, 0xF2, 0x00, 0x15, 0xAD] := by decide +kernel

/-- spec/08, "a fetch flight and its form": its image passes every check. -/
def fetchImage : List Byte :=
  bytes 32 [(0, 0x54), (1, 0x47), (2, 0x4C), (3, 0x46), (4, 1), (6, 4)] ++
    [0x05, 0x10, 1, 0, 0, 0, 0, 1, 0, 0, 0, 0, 0, 0, 0, 0] ++ [0x04, 0x11, 2, 0, 0, 1, 0x21, 2, 0x2F, 3, 0, 0, 0, 0, 0, 0] ++
    [0x02, 0x12, 1, 0, 0, 9, 0x22, 0, 0, 0, 0, 0, 0, 0, 0, 0] ++ [0x06, 0x13, 0, 0, 0, 0, 0, 0, 0, 0, 0, 0, 0, 0, 0, 0]
theorem test_fetch_flight : imageCheck fetchImage = 0 ∧ (lookAhead fetchImage recvKind, lookAhead fetchImage sendKind) = (1, 1) ∧
    (maxFlits fetchImage recvKind, maxFlits fetchImage sendKind) = (9, 1) := by decide +kernel

/-- spec/16, "a cancellation that keeps its sign": 0.75 + 2^-24 with S, times 2, less 1.5. -/
theorem test_cancellation : encodeW32 (mulPair ⟨decodeW32 0x3F400001, true⟩ ⟨decodeW32 0x40000000, false⟩).1.x = 0x3FC00001 ∧
    (mulPair ⟨decodeW32 0x3F400001, true⟩ ⟨decodeW32 0x40000000, false⟩).1.s = true ∧
    encodeW32 (fadd ⟨decodeW32 0x3FC00001, true⟩ ⟨decodeBf16 0xBFC0, false⟩).1.x = 0x34000000 ∧
    (fadd ⟨decodeW32 0x3FC00001, true⟩ ⟨decodeBf16 0xBFC0, false⟩).1.s = true := by decide +kernel

/-- spec/19: FLOOD_STAT after its boot. -/
theorem test_flood_stat : floodStat ⟨1013, 1013, 2, false, false, false, 0, []⟩ 0 = 0x03F503F502000000 := by decide +kernel

/-- The bytes of an instruction placed for the next step are fetched and performed by it (DESIGN CHOICE, log 2). -/
theorem test_fetch_word : (State.reset.withFetchWord 32 0x00E18281).turn = [.issue slot0] ∧
    (match step (State.reset.withFetchWord 32 0x00E18281) with
      | .next t => (threadOf t slot0).pc
      | _ => 0) = 0x1FFFFFFFFF80004 := by decide +kernel

end Sys2Proof.Tests
end

