-- ==== Sys2Proof/Tests/WitnessMemory.lean ====
section
/-! SUPPORT. For each claim with premises, states and operands that meet them, clause by clause: loads, stores, full/empty words,
atomics, fences, barriers, mailboxes and the message queue. -/

namespace Sys2Proof.Tests

open Sys2Proof Sys2Proof.Machine

-- one theorem after the other: each is small, and many at once would take a thread each
set_option Elab.async false

/-- g1 the last doubleword of the local store, g2 the first, g3 the last byte, g4 a word, g5 inside a word. -/
def memState : State :=
  withWord (withRegs base [(1, va0 + 0x5FF8), (2, va0), (3, va0 + 0x5FFF), (4, 0x1122334455667788), (5, va0 + 4), (6, va0 + 6),
    (7, va0 + 0x6000), (8, 0x200000000000000), (9, 8), (10, va0 - 0x80000)]) 0x5FF8 0x0102030405060788

/-- The last doubleword's physical address. -/
def last8 : Nat := local0 + 0x5FF8

/-- Its word bit EMPTY. -/
def emptyState : State := setFull memState last8 false

theorem witness_LoadsReadTheirBytes : Issues memState [1] [127] ∧ OwnAccess memState (memState.g 1) 8 8 needLoad last8 ∧
    OwnAccess memState (memState.g 3) 1 1 needLoad (local0 + 0x5FFF) ∧ Issues memState [2, 9] [127] ∧
    OwnAccess memState (memState.g 10) 8 8 needLoad (windowBase creel) ∧
    NotHeld memState true false ∧ Issues memState [r5 1] [r5 31] := by
  unfold Issues OwnAccess NotHeld; and_intros <;> decide +kernel

theorem witness_StoresWriteTheirBytes : Issues memState [1, 127] [] ∧ OwnAccess memState (memState.g 1) 8 8 needStore last8 ∧
    OwnAccess memState (memState.g 3) 1 1 needStore (local0 + 0x5FFF) ∧ NotHeld memState false true ∧ NoWaiter memState last8 8 ∧
    Issues memState [r5 1, r5 31] [] := by
  unfold Issues OwnAccess NotHeld NoWaiter; and_intros <;> decide +kernel

theorem witness_ImagesNibblesAndTags : Issues memState [1, 4] [] ∧ OwnAccess memState (memState.g 1) 8 8 needStore last8 ∧
    NoWaiter memState last8 8 ∧ Issues memState [1] [127] ∧ OwnAccess memState (memState.g 1) 8 8 needLoad last8 ∧
    OwnAccess memState (memState.g 3) 1 1 needStore (local0 + 0x5FFF) ∧ NoWaiter memState (local0 + 0x5FFF) 1 ∧
    partialPoison memState last8 4 4 = false ∧ NotHeld memState false true ∧ NoWaiter memState last8 4 := by
  unfold Issues OwnAccess NotHeld NoWaiter; and_intros <;> decide +kernel

theorem witness_FullEmptyResults : NoWaiter memState last8 8 ∧ NoWaiter emptyState last8 8 ∧ Issues memState [1] [127] ∧
    Issues emptyState [1] [127] ∧ (∀ m ∈ [0, 1, 2, 3, 4, 5], OwnAccess memState (memState.g 1) 8 8 (feNeed m) last8 ∧
      OwnAccess emptyState (emptyState.g 1) 8 8 (feNeed m) last8) ∧ NotHeld memState true true ∧ NotHeld emptyState true true ∧
    NotHeld memState true false ∧ NotHeld memState false true ∧ memState.free? = true ∧ emptyState.free? = true ∧
    isFull memState last8 = true ∧ isFull emptyState last8 = false ∧ Issues memState [1, 4] [] ∧ Issues emptyState [1, 4] [] := by
  unfold Issues OwnAccess InSlot NotHeld NoWaiter; and_intros <;> decide +kernel

theorem witness_AtomicResults : OwnAccess memState (memState.g 1) 8 8 needAtomic last8 ∧ NoWaiter memState last8 8 ∧
    Issues memState [1, 4, 127] [127] ∧ Issues memState [1, 4] [127] ∧ NotHeld memState true true ∧ NotHeld memState false false ∧ OwnAccess memState (memState.g 5) 4 4 needAtomic (local0 + 4) ∧ NoWaiter memState (local0 + 4) 4 ∧
    Issues memState [5, 4] [127] ∧ NotHeld memState true true := by
  unfold Issues OwnAccess NotHeld NoWaiter; and_intros <;> decide +kernel

/-- A state in which creel (0, 0)'s translation cache holds the page at 0x10000, its frame on die 0's controllers, with a leaf's
low bits. -/
def pageState (s : State) (frame bits : Nat) : State :=
  withCreel (withRegs s [(11, 0x10000), (12, 0x1FFF8), (13, 0x10004)]) fun c =>
    { c with tlb := [⟨0, 1, 0, BitVec.ofNat 64 (frame + bits), 0x8000, 0, 0⟩] }

/-- A bank of the local store under copy, the unit of g1's word. -/
def copyingState : State := withCreel memState fun c => { c with sluice := some ⟨⟨2, 3, 0, false⟩, 5, [], some 0xBFF, []⟩ }

/-- Range, alignment, the window, and then the leaf: permission, home, scope, and a load that goes. -/
theorem witness_AccessChecksInOrder : Issues memState [8] [127] ∧ stSrg memState.th.status = false ∧
    2 ^ 57 ≤ (memState.g 8 + BitVec.ofInt 64 ((0#8).toInt * (8 : Nat))).toNat ∧
    (memState.g 5 + BitVec.ofInt 64 ((0#8).toInt * (8 : Nat))).toNat % 8 ≠ 0 ∧
    watchHit memState memState.cur memState.th (va0 + 4).toNat 8 true false = none ∧
    watchHit memState memState.cur memState.th (va0 + 0x6000).toNat 8 true false = none ∧
    selfBase ≤ (va0 + 0x6000).toNat ∧ selfPa memState memState.cur.core ((va0 + 0x6000).toNat - selfBase) 8 = none ∧
    Issues (pageState base 0x40000 0x103) [12] [127] ∧
    ((pageState base 0x40000 0x103).g 12 + BitVec.ofInt 64 ((0#8).toInt * (8 : Nat))).toNat = 0x1FFF8 ∧
    inFirmware (pageState base 0x40000 0x103).cur (pageState base 0x40000 0x103).th = false ∧
    watchHit (pageState base 0x40000 0x103) slot0 (pageState base 0x40000 0x103).th 0x1FFF8 8 true false = none ∧
    -- RD clear; a user thread at a page without U
    tlbFind (pageState base 0x40000 0x103) creel 0 0x1FFF8 = some ⟨0, 1, 0, 0x40103, 0x8000, 0, 0⟩ ∧ pteRd 0x40103 = false ∧
    tlbFind (pageState (user base) 0x40000 0x107) creel 0 0x1FFF8 = some ⟨0, 1, 0, 0x40107, 0x8000, 0, 0⟩ ∧
    (pageState (user base) 0x40000 0x107).sup = false ∧ pteU 0x40107 = false ∧
    -- no home; a home out of scope; one in scope
    pteRd 0x8000000000127 = true ∧ homeOf (pageState base 0x8000000000000 0x127) (pteFrame 0x8000000000127 + 0xFFF8) = none ∧
    pteScope 0x40007 = 0 ∧ homeOf (pageState base 0x40000 0x7) (pteFrame 0x40007 + 0xFFF8) = some (.control 0 false false) ∧
    inDomain (pageState base 0x40000 0x7) slot0 (pageState base 0x40000 0x7).th 0 (.control 0 false false) = false ∧
    inDomain (pageState base 0x40000 0x107) slot0 (pageState base 0x40000 0x107).th (pteScope 0x40107) (.control 0 false false) =
      true ∧ fencedAt (pageState base 0x40000 0x107) creel = false ∧
    -- a device's page of user mode; a unit under copy
    pteU 0x200000000127 = true ∧ 2 ^ 45 ≤ pteFrame 0x200000000127 + 0xFFF8 ∧ pteFrame 0x200000000127 + 0xFFF8 < 2 ^ 45 + 2 ^ 40 ∧
    access copyingState copyingState.cur (copyingState.g 1) 8 8 needLoad = .self last8 ∧ ¬ InSlot copyingState last8 8 false := by
  unfold Issues InSlot; and_intros <;> decide +kernel

/-- The first beat of a codebook load, and the last. -/
def codebookLast : State :=
  withThread (withRegs base [(1, va0 + 0x5C00)]) fun th =>
    { th with going := true, gathered := (List.range 15).map fun i => (i, List.replicate 64 0) }

theorem witness_CodebookLoads : Issues (withRegs base [(1, va0 + 0x5C00)]) [1] [] ∧
    selfBase ≤ ((withRegs base [(1, va0 + 0x5C00)]).g 1).toNat ∧
    OwnAccess (withRegs base [(1, va0 + 0x5C00)]) (va0 + 0x5C00) 64 64 needLoad (local0 + 0x5C00) ∧
    (withRegs base [(1, va0 + 0x5C00)]).th.going = false ∧ Issues codebookLast [1] [] ∧ codebookLast.th.going = true ∧
    codebookLast.th.gathered.length = 15 ∧ selfBase ≤ (codebookLast.g 1).toNat ∧
    OwnAccess codebookLast (codebookLast.g 1 + BitVec.ofNat 64 (64 * 15)) 64 64 needLoad (local0 + 0x5FC0) := by
  unfold Issues OwnAccess; and_intros <;> decide +kernel

/-- A barrier word of two parties in phase 3 with one arrival, read through g1; g9 holds that phase, g4 another. -/
def barrierState : State := withWord (withRegs memState [(9, 3)]) 0x5FF8 0x0002000300010000

theorem witness_PhaseBarriers : NoWaiter barrierState last8 8 ∧ Issues barrierState [1] [127] ∧
    OwnAccess barrierState (barrierState.g 1) 8 8 (feNeed 6) last8 ∧ NotHeld barrierState false true ∧ Issues barrierState [1, 9] [] ∧
    OwnAccess barrierState (barrierState.g 1) 8 8 (feNeed 7) last8 ∧ NotHeld barrierState true false ∧ barrierState.free? = true ∧
    (readWord barrierState last8).extractLsb' 32 16 = (barrierState.g 9).extractLsb' 0 16 ∧
    (readWord barrierState last8).extractLsb' 32 16 ≠ (barrierState.g 4).extractLsb' 0 16 ∧ Issues barrierState [1, 4] [] := by
  unfold Issues OwnAccess NotHeld NoWaiter; and_intros <;> decide +kernel

/-- A posted write outstanding. -/
def postedState : State := withThread base fun th => { th with posted := [⟨1, 0x10000, false⟩] }

theorem witness_FencesWaitForPostedWrites : Issues base [] [] ∧ base.th.posted = [] ∧ Issues postedState [] [] ∧
    postedState.th.posted ≠ [] := by
  unfold Issues; and_intros <;> decide

/-- Mailbox 15 FULL. -/
def fullBox : State := withCore base fun c => { c with mbox := [(15, ⟨7, true, 2⟩)] }

theorem witness_MailboxesFillAndEmpty : base.free? = true ∧ fullBox.free? = true ∧ Issues base [1] [] ∧ NotHeld base false true ∧
    (mboxOf base base.cur.core (15#4).toNat).full = false ∧ (mboxOf fullBox fullBox.cur.core (15#4).toNat).full = true ∧
    Issues fullBox [1] [] ∧ Issues fullBox [] [127] ∧ NotHeld fullBox true false ∧ NotHeld fullBox false true ∧
    NotHeld base true false ∧ Issues base [] [127] := by
  unfold Issues NotHeld; and_intros <;> decide

/-- An entry of slot 0 behind one of slot 1, and the second beat that reads it. -/
def queueState : State := withCore base fun c => { c with queue := [⟨0x100, 5⟩, ⟨0x2A, 6⟩] }

def queueSecond : State := withThread queueState fun th => { th with going := true, answer := some 0x2A }

theorem witness_MessageQueueReads : base.free? = true ∧ queueState.free? = true ∧ queueSecond.free? = true ∧ Issues queueState [] [] ∧
    ((coreOf queueState queueState.cur.core).queue.find? fun x =>
      decide ((x.lo.extractLsb' 8 8).toNat = queueState.cur.slot)) = some ⟨0x2A, 6⟩ ∧
    ((coreOf base base.cur.core).queue.find? fun x => decide ((x.lo.extractLsb' 8 8).toNat = base.cur.slot)) = none ∧
    Issues base [] [] ∧ Issues queueState [] [126, 127] ∧ Issues queueState [] [] ∧ queueState.th.going = false ∧
    Issues queueSecond [] [126, 127] ∧ queueSecond.th.going = true ∧ queueSecond.th.answer.isSome = true ∧
    (coreOf queueSecond queueSecond.cur.core).queueWait = [] ∧ Issues (going base) [] [] ∧ (going base).th.answer = none ∧
    (127#7).toNat % 2 = 1 ∧ (base.threads.find base.cur).isSome = true := by
  unfold Issues; and_intros <;> decide

end Sys2Proof.Tests
end

