-- ==== Sys2Proof/Tests/WitnessControl.lean ====
section
/-! SUPPORT. For each claim with premises, states and operands that meet them, clause by clause: control, traps, system registers,
threads, tasks, engines, static regions and the repetition buffer. -/

namespace Sys2Proof.Tests

open Sys2Proof Sys2Proof.Machine

-- one theorem after the other: each is small, and many at once would take a thread each
set_option Elab.async false

/-- A thread that SLOT_START started. -/
def started : State := withThread base fun th => { th with started := true }

/-- A thread parked on WFE at cycle 0. -/
def wfeState : State := withThread base fun th => { th with wait := .redo (.event 0) }

theorem witness_ControlInstructions : Issues base [] [] ∧ base.free? = true ∧ base.th.started = false ∧ Issues started [] [] ∧
    started.th.started = true ∧ started.th.posted = [] ∧ engineBusy started started.cur = false ∧ ownedEps started started.cur = [] ∧
    base.sup = true ∧ base.again = false ∧ wfeReady base = false ∧ wfeReady queueState = true ∧ Issues queueState [] [] ∧
    queueState.sup = true ∧ Issues (user base) [] [] ∧ (user base).sup = false ∧ (threadOf wfeState slot0).wait = .redo (.event 0) ∧
    (threadOf base slot0).wait ≠ .redo (.event 0) ∧ Issues base [1] [127] := by
  unfold Issues; and_intros <;> decide

/-- A handler whose trap came from a held repetition run. -/
def heldRun : State := withThread base fun th => { th with status := 0x330000 }

/-- A core without a handler table. -/
def noTable : State := withCore base fun c => { c with xvec := 0 }

theorem witness_TrapsAndReturns : Handled base ∧ Issues base [] [] ∧ base.th.answer = none ∧
    (dbgReg base base.cur.core.creel 0).getLsbD 1 = false ∧ (base.threads.find base.cur).isSome = true ∧ Issues (handler base) [] [] ∧
    (handler base).sup = true ∧ stXm (handler base).th.status = true ∧ Issues heldRun [] [] ∧ heldRun.sup = true ∧
    stXm heldRun.th.status = true ∧ stReph heldRun.th.status = true ∧ Issues (user base) [] [] ∧ (user base).sup = false ∧
    stXm base.th.status = false ∧ Issues noTable [] [] ∧ (coreOf noTable noTable.cur.core).xvec.getLsbD 0 = false ∧
    noTable.dieRegs.get (noTable.cur.core.die, 0x20000 + 8 * 85) 0 ≠ BitVec.allOnes 64 := by
  unfold Issues Handled; and_intros <;> decide

/-- A lengthsman core's thread. -/
def onLengthsman : State :=
  { base with cur := ⟨⟨0, 0, 8⟩, 0⟩, threads := [(⟨⟨0, 0, 8⟩, 0⟩, thread0)] }

/-- The first and the last register of a class, one past it, a class of another mode, and the device window. -/
theorem witness_SystemRegisterAccess : Issues base [] [127] ∧ Issues base [1] [] ∧ sysAllowed base false 0x007 = true ∧
    sysAllowed base false 0x008 = false ∧ sysAllowed (user base) false 0x010 = false ∧ Issues (user base) [] [127] ∧
    sysAllowed base true 0x015 = true ∧ sysAllowed base true 0x016 = false ∧ sysAllowed base true 0x005 = false ∧
    Issues onLengthsman [] [127] ∧ Issues onLengthsman [1] [] ∧ sysAllowed onLengthsman false 0x311 = true ∧
    sysAllowed onLengthsman true 0x311 = true ∧ sysAllowed base false 0x311 = false ∧
    ((sysEvents base 5).map fun p => p.1.toNat) =
      [0, 0x21, 0x24, 0x41, 0x110, 0x10, 0x11, 0x12, 0x13, 0x14, 0x15, 0x20, 0x22, 0x23, 0x34, 0x35, 0x40, 0x42, 0x310] := by
  unfold Issues; and_intros <;> decide

/-- An endpoint that holds buffer slots; a thread parked on DEV_DATA. -/
def heldEp : State := withEp base 63 { Endpoint.initial with est := .opened, held := true }
def devState : State := withThread base fun th => { th with wait := .redo .device, answer := some 0x100 }

theorem witness_RegisterWrites : (base.threads.find slot0).isSome = true ∧ (∀ e ∈ base.eps, e.1.1 = core → e.2.held = false) ∧
    (∃ e ∈ heldEp.eps, e.1.1 = core ∧ e.2.held = true) ∧ (heldEp.threads.find slot0).isSome = true ∧
    (devState.threads.find slot0).isSome = true ∧ (threadOf devState slot0).wait = .redo .device := by
  and_intros <;> decide

/-- SLOT_SEL names slot 14 with 128 registers, without and with a team; eight registers more than a part may give; slot 15. -/
def selState (w : Word) : State := withCore teamState fun c => { c with slotSel := w }

/-- A message of type 7 waits at service endpoint 5, whose vector entry names a supervisor handler of eight registers. -/
def serviceState : State :=
  withWord (withWord (withCore (withEp base 5 { Endpoint.initial with est := .opened, svc := true, lin := 1, maxin := 1 }) fun c =>
    { c with vtbase := 0x80001, chpool := 0x0008100000000001#64 }) 0x38 0xA000000000000400) 0x1000 7

theorem witness_ThreadsBegin : (base.threads.find slot0).isSome = true ∧ (threadOf base slot0).wait ≠ .stopped ∧
    (threadOf (withThread base fun th => { th with wait := .stopped }) slot0).wait = .stopped ∧
    slotFree (selState 0x80000E) ⟨core, 14⟩ = true ∧ (8 ≤ 128 ∧ 128 ≤ 128 ∧ 128 % 8 = 0) ∧
    freeRange (selState 0x80000E) core 128 = some 128 ∧
    (selTeam (selState 0x100000000080000E) creel 0x100000000080000E).isSome = true ∧
    slotFree (selState 0x80000F) ⟨core, 15⟩ = false ∧ slotFree base slot0 = false ∧ ¬ (8 ≤ 136 ∧ 136 ≤ 128 ∧ 136 % 8 = 0) ∧
    selTeam (selState 0x110000000080000E) creel 0x110000000080000E = none ∧
    freeRange (withThread base fun th => { th with nregs := 2041 }) core 8 = none ∧
    (epOf serviceState core 5).svc = true ∧ (epOf serviceState core 5).handler = none ∧ msgReady serviceState core 5 = true ∧
    (vecEntry serviceState core (nextMsg serviceState core 5).mtype.toNat).getLsbD 63 = true ∧
    vecClass (vecEntry serviceState core (nextMsg serviceState core 5).mtype.toNat) = 1 ∧
    handlerSlot serviceState core 8 = some (⟨core, 1⟩, 128) := by
  and_intros <;> decide +kernel

end Sys2Proof.Tests
end

