-- ==== Sys2Proof/Tests/WitnessConversations.lean ====
section
/-! SUPPORT. For each claim with premises, states and operands that meet them, clause by clause: conversations, endpoints, arrivals. -/

namespace Sys2Proof.Tests

open Sys2Proof Sys2Proof.Machine

-- one theorem after the other: each is small, and many at once would take a thread each
set_option Elab.async false

/-- Endpoint 63 of slot 0 with a status, holding nothing. -/
def withEst (e : Est) : State :=
  withEp (withRegs (channelState base 0) [(1, 0x202), (2, 0x601)]) 63 { openEp 0 with est := e, held := false, bufn := 0 }

/-- No pool enabled. -/
def noPool (s : State) : State := withCore s fun c => { c with chpool := 0 }

/-- A Connect for endpoint 63 whose hashes are dual, and one whose hashes are not. -/
def connectOf (own : Nat) : Msg := message 0xFA (bytes 24 [(0, 0x78), (8, own), (16, 1)])

/-- It is held at the core. -/
def heldConnect (n : Nat) : State := withCore (withEst .bound) fun c => { c with connects := List.replicate n (connectOf 0x77) }

/-- A thread that waits for the Accept. -/
def connecting : State := withThread (withEst .connecting) fun th => { th with wait := .redo (.connected 63) }

/-- The answer of CONNECT's wait has come. -/
def answered : State := withThread (withEst .opened) fun th => { th with answer := some 0x200000202 }

theorem witness_ConversationsOpen : Issues (withEst .bound) [1] [1] ∧ (withEst .bound).free? = true ∧
    (epOf (withEst .bound) core 63).slot = (withEst .bound).cur.slot ∧ (epOf (withEst .bound) core 63).est = .bound ∧
    (withEst .bound).th.answer = none ∧ connectNowhere (withEst .bound) (((withEst .bound).g 2).extractLsb' 0 32) = true ∧
    connectNowhere (withEst .bound) (((withEst .bound).g 1).extractLsb' 0 32) = false ∧
    reserve (noPool (withEst .bound)) core 63 = none ∧ connectNowhere (noPool (withEst .bound)) 0x202 = false ∧
    (reserve (withEst .bound) core 63).isSome = true ∧
    ((coreOf (heldConnect 1) core).connects.find? fun m => decide (addrEp m.dst = 63)) = some (connectOf 0x77) ∧
    (reserve (heldConnect 1) core 63).isSome = true ∧
    BitVec.ofNat 64 (fieldAt (connectOf 0x77).payload 8 8) = (epOf (heldConnect 1) core 63).hown ∧
    (flightOf (heldConnect 1) core (epOf (heldConnect 1) core 63).flight).dhash = BitVec.ofNat 64 (fieldAt (connectOf 0x77).payload 0 8) ∧
    ((coreOf (withEst .bound) core).connects.find? fun m => decide (addrEp m.dst = 63)) = none ∧
    Issues answered [1] [1] ∧ answered.th.answer = some 0x200000202 ∧ (epOf answered core 63).est = .opened ∧
    -- arrivals
    isServer (connectOf 0x77).dst = false ∧ addrCore (connectOf 0x77).dst = core ∧ addrEp (connectOf 0x77).dst = 63 ∧
    (epOf (withEst .accepting) core 63).est = .accepting ∧
    BitVec.ofNat 64 (fieldAt (connectOf 0x77).payload 8 8) = (epOf (withEst .accepting) core 63).hown ∧
    BitVec.ofNat 64 (fieldAt (connectOf 0x76).payload 8 8) ≠ (epOf (withEst .accepting) core 63).hown ∧
    (coreOf (heldConnect 3) core).connects.length < 4 ∧ 4 ≤ (coreOf (heldConnect 4) core).connects.length ∧
    (epOf (heldConnect 4) core 63).est = .bound ∧ (epOf connecting core 63).est = .connecting ∧
    fieldAt (message 0xFB (bytes 28 [])).payload 0 1 = 0 ∧ fieldAt (message 0xFB (bytes 28 [(0, 1)])).payload 0 1 ≠ 0 ∧
    (threadOf connecting slot0).wait = .redo (.connected 63) ∧ (connecting.threads.find slot0).isSome = true := by
  unfold Issues; and_intros <;> decide +kernel

/-- The fetch flight of spec/08 (R193), its START in the image's first record. -/
def fetchFlight : List Byte :=
  bytes 32 [(0, 0x54), (1, 0x47), (2, 0x4C), (3, 0x46), (4, 1), (6, 4)] ++
    [0x05, 0x10, 1, 0, 0, 0, 0, 1, 0, 0, 0, 0, 0, 0, 0, 0] ++ [0x04, 0x11, 2, 0, 0, 1, 0x21, 2, 0x2F, 3, 0, 0, 0, 0, 0, 0] ++
    [0x02, 0x12, 1, 0, 0, 9, 0x22, 0, 0, 0, 0, 0, 0, 0, 0, 0] ++ [0x06, 0x13, 0, 0, 0, 0, 0, 0, 0, 0, 0, 0, 0, 0, 0, 0]

/-- The flight in memory at the start of the local store; an AUTLOAD of an image in work; a store without room. -/
def autState : State := withBytes (withRegs base [(1, va0)]) 0 fetchFlight
def loadingState (im : List Byte) : State :=
  withCreel (withThread base fun th => { th with wait := .reply (.flight 1 0 false) }) fun c =>
    { c with loading := [⟨slot0, 1, im⟩] }
def fullStore : State :=
  withCreel (loadingState fetchFlight) fun c =>
    { c with flights := (List.range 32).map fun n => (n, { flight with off := 4096 * n, len := 4096, image := [BitVec.ofNat 8 n] }) }

/-- A vector table at the start of the local store. -/
def serviceBase : State := withCore base fun c => { c with vtbase := 0x80001 }

/-- Endpoint 63 delegated, its forwarding ended or not. -/
def delegated (ended : Bool) : State := withEp base 63 { openEp 0 with est := .delegated, fwdEnd := ended }

theorem witness_EndpointManagement : Issues (channelState (withRegs base [(1, 0x100)]) 0) [1] [1] ∧
    (channelState (withRegs base [(1, 0x100)]) 0).free? = true ∧ (epOf (channelState (withRegs base [(1, 0x100)]) 0) core 0).est = .free ∧
    (((channelState (withRegs base [(1, 0x100)]) 0).g 1).extractLsb' 0 5).toNat = 0 ∧
    (flightOf (channelState (withRegs base [(1, 0x100)]) 0) core 0).valid = true ∧
    (flightOf (channelState (withRegs base [(1, 31)]) 0) core 31).valid = false ∧
    (((channelState (withRegs base [(1, 31)]) 0).g 1).extractLsb' 0 5).toNat = 31 ∧
    (epOf (channelState base 0) core 63).slot = (channelState base 0).cur.slot ∧ (epOf (channelState base 0) core 63).est = .opened ∧
    (epOf (withEst .closed) core 63).est = .closed ∧ Issues (withEst .closed) [1] [1] ∧ Issues base [] [] ∧
    (epOf (delegated true) core 63).est = .delegated ∧ (epOf (delegated true) core 63).fwdEnd = true ∧
    (epOf (delegated false) core 63).fwdEnd = false ∧ Issues (delegated false) [] [] ∧
    -- MSGVEC
    selfPa serviceBase core (((coreOf serviceBase core).vtbase.toNat / 2048 % 512) * 2048 + 8 * (255#8).toNat) 8 =
      some (local0 + 8 * 255) ∧
    InSlot serviceBase (local0 + 8 * 255) 8 true ∧ InSlot (user serviceBase) (local0 + 8 * 255) 8 true ∧
    serviceBase.sup = true ∧ (user serviceBase).sup = false ∧ vecClass ((user serviceBase).g 1) ≠ 1 ∧
    vecClass (readWord (user serviceBase) (local0 + 8 * 255)) ≠ 1 ∧
    selfPa (user serviceBase) core (((coreOf (user serviceBase) core).vtbase.toNat / 2048 % 512) * 2048 + 8 * 255) 8 =
      some (local0 + 8 * 255) ∧
    -- AUTLOAD
    Issues autState [1] [1] ∧ autState.free? = true ∧ OwnAccess autState (autState.g 1) 32 32 needLoad local0 ∧
    headerSizes (readBytes autState local0 32) = true ∧ imLen (readBytes autState local0 32) = 96 ∧
    selfPa autState core ((autState.g 1).toNat - selfBase) 96 = some local0 ∧ poisoned autState local0 96 = false ∧
    (creelOf autState creel).loading = [] ∧ headerSizes (readBytes base local0 32) = false ∧
    (creelOf (loadingState image) creel).loading = [⟨slot0, 1, image⟩] ∧ ((loadingState image).threads.find slot0).isSome = true ∧
    (threadOf (loadingState image) slot0).wait = .reply (.flight 1 0 false) ∧ imageCheck (image.set 4 2) ≠ 0 ∧
    imageCheck fetchFlight = 0 ∧ placeFlight fullStore slot0 creel fetchFlight = none ∧
    (creelOf fullStore creel).loading = [⟨slot0, 1, fetchFlight⟩] := by
  unfold Issues OwnAccess; and_intros <;> decide +kernel

/-- A message in its turn at endpoint 63, open in a state. -/
def arrival (ty : Byte) (seq : Nat) : Msg := { message ty (List.replicate 40 5) with seq := BitVec.ofNat 32 seq }

/-- A delegated endpoint, and one that takes a delegation. -/
def delegIn : State := withEp (channelState base 1) 63 { openEp 1 with est := .delegin }

/-- Endpoint 5 of a service, at a RECV state, with a message of inline code. -/
def inlineState : State := withMessage (channelState base 1) (message 0xF0 (List.replicate 24 0))

theorem witness_MessagesArrive : isServer (arrival 0x22 0).dst = false ∧ addrCore (arrival 0x22 0).dst = core ∧
    addrEp (arrival 0x22 0).dst = 63 ∧ (epOf (channelState base 1) core 63).est = .opened ∧
    (arrival 0x22 0).seq = (epOf (channelState base 1) core 63).anext ∧ (epOf (channelState base 1) core 63).early = [] ∧
    (epOf (channelState base 1) core 63).notice = none ∧ arrivalOk (channelState base 1) core 63 (arrival 0x22 0) = true ∧
    arrivalOk (channelState base 1) core 63 (arrival 0x23 0) = false ∧ (arrival 0x22 0).nflit = 1 ∧
    0 < ((arrival 0x22 (2 ^ 31 - 1)).seq - (epOf (channelState base 1) core 63).anext).toNat ∧
    ((arrival 0x22 (2 ^ 31 - 1)).seq - (epOf (channelState base 1) core 63).anext).toNat < 2 ^ 31 ∧
    (epOf (channelState base 1) core 63).held = true ∧
    ((arrival 0x22 0).seq - (epOf (channelState base 1) core 63).rseq).toNat < (epOf (channelState base 1) core 63).lin ∧
    (epOf base core 63).est = .free ∧ (epOf (withEst .closed) core 63).est = .closed ∧ (epOf delegIn core 63).est = .delegin ∧
    (epOf (delegated false) core 63).est = .delegated ∧ (epOf (delegated false) core 63).notice = none ∧
    (epOf (delegated false) core 63).anext = (epOf (delegated false) core 63).rseq ∧
    (epOf (withEst .bound) core 63).est = .bound ∧
    msgReady inlineState core 63 = true ∧ recvKind (recKind (epRec inlineState core 63)) = true ∧
    (epOf inlineState core 63).est = .opened ∧ inlineState.waiters = [] ∧ (nextMsg inlineState core 63).mtype = 0xF0 ∧
    (helperRun inlineState core (List.replicate 16 0) (List.replicate 6 0)).dieRegs = inlineState.dieRegs := by
  and_intros <;> decide +kernel

end Sys2Proof.Tests
end

