-- ==== Sys2Proof/Tests/WitnessDebug.lean ====
section
/-! SUPPORT. For each claim with premises, states and operands that meet them, clause by clause: the debug module and the
scheduler. -/

namespace Sys2Proof.Tests

open Sys2Proof Sys2Proof.Machine

-- one theorem after the other: each is small, and many at once would take a thread each
set_option Elab.async false

/-- Creel (0, 0) halted since cycle 100, with what the test changes of that; the cycle is 200. -/
def halt0 : Halt := ⟨100, 0, 1, 0, 0, none, none, none, [], [], []⟩
def halted (s : State) (f : Halt → Halt) : State := withCreel { s with cyc := 200 } fun c => { c with halt := some (f halt0) }

/-- A resume accepted for cycle 212, with a thread whose operation stands frozen until 240. -/
def resuming : State :=
  halted (withThread base fun th => { th with ready := 240 }) fun h => { h with resume := some 212, waits := [(slot0, 240, 0)] }

/-- Sampling on. -/
def sampling : State := withCreel base fun c => { c with dbg := [(0x90, 0x108)] }

theorem witness_DebugOperations : creelThere { base with fused := [creel] } creel = false ∧ creelThere base ⟨128, 0⟩ = false ∧
    creelThere base creel = true ∧ isHalted base creel = false ∧ traceOn base creel 6 0 0 = false ∧
    isHalted (halted base id) creel = true ∧ (creelOf (halted base id) creel).halt = some halt0 ∧ halt0.resume = none ∧
    (0x1F8 % 8 = 0 ∧ 0x1F8 < 0x200) ∧ ¬ (0x200 % 8 = 0 ∧ 0x200 < 0x200) ∧ ¬ (4 % 8 = 0 ∧ 4 < 0x200) ∧
    (halted base id).threads.find ⟨core, 15⟩ = none ∧ (halted base id).threads.find ⟨⟨0, 0, 3⟩, 0⟩ = some thread0 ∧
    127 < thread0.nregs ∧ thread0.nregs ≤ 128 ∧ thread0.wait = .run ∧ thread0.stopping = false ∧
    { thread0 with wait := .halted }.wait ≠ .run ∧ ({ base with tried := [(slot0, true)] }).tried.contains (slot0, true) = true ∧
    (creelOf (halted base fun h => { h with step := some slot0 }) creel).halt = some { halt0 with step := some slot0 } ∧
    ((teamsAt teamState creel).find? fun q => decide (q.1.level = 1)) = none ∧
    ((teamsAt teamState creel).find? fun q => decide (q.1.level = 0)) = some (team, placed 0 0 2 1) ∧
    teamState.teams.find team = some (placed 0 0 2 1) ∧ (placed 0 0 2 1).phase = .placed ∧
    ({ placed 0 0 2 1 with phase := .leaving 1 }).phase = .leaving 1 ∧
    -- resume points
    (creelOf (halted base fun h => { h with resume := some 200 }) creel).halt = some { halt0 with resume := some 200 } ∧
    200 ≤ (halted base fun h => { h with resume := some 200 }).cyc ∧ ({ halt0 with resume := some 200, step := some slot0 }).step ≠ none ∧ (creelOf resuming creel).halt.isSome = true ∧ resuming.cyc < 212 ∧
    halt0.h + 16 ≤ 240 ∧
    (∀ n ∈ [3, 4, 5, 6], (coreOf resuming ⟨0, 0, n⟩).mrun = none ∧ (coreOf resuming ⟨0, 0, n⟩).mqueue = []) ∧
    (resuming.threads.find slot0).isSome = true ∧ (threadOf resuming slot0).wait = .run ∧ (threadOf resuming slot0).ready = 240 ∧
    -- samples
    (dbgReg sampling creel 0x90).getLsbD 8 = true ∧ 8 ≤ ((dbgReg sampling creel 0x90).extractLsb' 0 5).toNat ∧ ((dbgReg sampling creel 0x90).extractLsb' 0 5).toNat ≤ 24 ∧ traceOn sampling creel 7 0 0 = false ∧ (dbgReg base creel 0x90).getLsbD 8 = false := by
  and_intros <;> decide +kernel

/-- The second child waits; so it does with no scratchpad left. -/
def waitingChild : State := { teamState with teams := [(team, placed 0 0 2 1), (child, { placed 0 0 0 0 with phase := .waiting })] }
def noScratch : State := { waitingChild with creels := [(⟨0, 0⟩, { CreelSt.initial with spBytes := 0 }), (⟨1, 0⟩, { CreelSt.initial with spBytes := 0 })] }

/-- A packet of team 0 in the queue of creel (0, 0); the same with every slot of the team's domain taken. -/
def waitingTask : State := ringPut teamState creel 1 0 5 (packet 0 0)
def crowded : State := { waitingTask with
  threads := [(slot0, thread0), (⟨⟨0, 0, 4⟩, 0⟩, thread0), (⟨⟨0, 0, 5⟩, 0⟩, thread0), (⟨⟨0, 0, 6⟩, 0⟩, thread0)] }
def waitingPacket : Waiting := ⟨1, 0, 5, packet 0 0⟩

/-- A gate test outstanding; a thief with an attempt out, and one asleep. -/
def gateTest : GateTest := ⟨1, 0, 1, none, true⟩
def gated : State := withCreel teamState fun c => { c with gates := [gateTest] }
def thief (busy sleeping : Bool) : State := withCreel teamState fun c => { c with thief := some ⟨team, 0, busy, sleeping⟩ }

/-- Team 0 of two level-0 teams, on creels (0, 0) and (1, 0): a creel whose part is done, and the root when both are. -/
def tree : State := { withTeams { base with threads := [] } with
  teams := [(team, placed 0 0 2 1), (⟨0, 0, 1⟩, placed 2 0 2 1)] }
def treeRoot : State := modDone tree creel team fun d => { d with children := 1 }
def openKids : State := { treeRoot with teams := treeRoot.teams.put team { placed 0 0 2 1 with kidsOpen := 1 } }

theorem witness_SchedulerActs : updateHolds waitingChild = false ∧ mooringHolds waitingChild = false ∧
    (waitingChild.teams.find child).map (·.phase) = some .waiting ∧
    parentCorner waitingChild child = some (0, 0) ∧ chooseFoot waitingChild (recordOf waitingChild 0) 1 0 0 = some 0 ∧
    chooseTile waitingChild child 0 0 0 = some (1, 0) ∧ parentCorner noScratch child = some (0, 0) ∧
    chooseFoot noScratch (recordOf noScratch 0) 1 0 0 = none ∧
    -- examination
    residentLaunch base creel = none ∧ residentLaunch waitingTask creel = some 0 ∧
    firstFit (testGates (windows (feedCreel waitingTask creel) creel).1 creel 0 (windows (feedCreel waitingTask creel) creel).2).1 creel 0
        (testGates (windows (feedCreel waitingTask creel) creel).1 creel 0 (windows (feedCreel waitingTask creel) creel).2).2 =
      some (waitingPacket, [(⟨⟨0, 0, 4⟩, 0⟩, 0)]) ∧
    (creelOf gated creel).gates.find? (fun x => decide (x.ring = 1 ∧ x.unit = 0 ∧ x.gate = 1)) = some gateTest ∧
    -- stealing
    residentLaunch teamState creel = some 0 ∧
    (eligible (testGates (windows teamState creel).1 creel 0 (windows teamState creel).2).1 creel
      (testGates (windows teamState creel).1 creel 0 (windows teamState creel).2).2).filter
        (fun w => decide ((0 : Nat) = team.lslot ∧ w.key 0 = team) && !pkStatic record w.bytes) = [] ∧
    (eligible (testGates (windows crowded creel).1 creel 0 (windows crowded creel).2).1 creel
      (testGates (windows crowded creel).1 creel 0 (windows crowded creel).2).2).filter
        (fun w => decide ((0 : Nat) = team.lslot ∧ w.key 0 = team) && !pkStatic record w.bytes) = [waitingPacket] ∧
    (testGates (windows crowded creel).1 creel 0 (windows crowded creel).2).1.teams.find team = some (placed 0 0 2 1) ∧
    isHalted (testGates (windows crowded creel).1 creel 0 (windows crowded creel).2).1 creel = false ∧
    (doneOf (testGates (windows crowded creel).1 creel 0 (windows crowded creel).2).1 creel team).sent = false ∧
    placesFor (testGates (windows crowded creel).1 creel 0 (windows crowded creel).2).1 creel team (packet 0 0) = none ∧
    (creelOf (thief true false) creel).thief = some ⟨team, 0, true, false⟩ ∧
    (teamsAt (thief true false) creel).any (fun q => decide (q.1 = team)) = true ∧ packet 0 0 ≠ [] ∧
    ringRoom (thief true false) creel 1 (pkLen (packet 0 0)) = some 0 ∧
    ringMeets (thief true false) creel 1 0 (pkLen (packet 0 0)) = false ∧
    (creelOf (thief false true) creel).thief = some ⟨team, 0, false, true⟩ ∧
    -- the done tree
    tree.teams.find team = some (placed 0 0 2 1) ∧ doneReady tree ⟨1, 0⟩ team = true ∧ treeParent (placed 0 0 2 1) ⟨1, 0⟩ = some creel ∧
    doneReady treeRoot creel team = true ∧ treeParent (placed 0 0 2 1) creel = none ∧ creel = ⟨0, 0⟩ ∧
    (placed 0 0 2 1).kidsOpen = 0 ∧ parentKey (recordOf treeRoot 0) team = none ∧ (treeRoot.launches.find 0).isSome = true ∧
    (treeRoot.teams.any fun q => decide (q.1.lslot = 0 ∧ q.1.level = 0 ∧ q.1 ≠ team)) = true ∧
    doneReady openKids creel team = true ∧ (openKids.teams.find team).map (·.kidsOpen) = some 1 := by
  and_intros <;> decide +kernel

end Sys2Proof.Tests
end

