-- ==== Sys2Proof/Tests/WitnessHomes.lean ====
section
/-! SUPPORT. For each claim with premises, states and operands that meet them, clause by clause: requests at their homes, and
replies. -/

namespace Sys2Proof.Tests

open Sys2Proof Sys2Proof.Machine

-- one theorem after the other: each is small, and many at once would take a thread each
set_option Elab.async false

/-- A request of slot 0, token 5, of n bytes at pa, with a width code and data. -/
def request (pa n : Nat) (wid : Byte) (data : List Byte) : MemReq :=
  ⟨.slot slot0, 5, 0, wid, n, 0, false, false, false, false, false, 0, pa, 0x10000, data, 0, false⟩

/-- The last doubleword of the local store, and of die 0's first DRAM stack below the firmware's area. -/
def storeEnd : Nat := local0 + 0x5FF8
def dramEnd : Nat := 0xFAFFFFFF8

/-- The word there full, and empty. -/
def homeState : State := withWord base 0x5FF8 0x0002000300010000
def homeEmpty : State := setFull homeState storeEnd false

theorem witness_HomesPerformRequests : Reached homeState (request storeEnd 8 0 (List.replicate 8 1)) (.store core) ∧
    Reached homeState (request dramEnd 8 0 []) (.control 0 false false) ∧
    (request storeEnd 8 0 []).len = 8 ∧ storeEnd % 8 = 0 ∧ readWord homeState storeEnd = 0x0002000300010000 ∧
    BitVec.ofNat 64 (fieldAt (leBytes 8 0x0002000300010000) 0 8) = 0x0002000300010000 ∧
    Reached homeState (request (storeEnd + 4) 4 8 (leBytes 4 0x3F800000)) (.store core) ∧ (storeEnd + 4) % 4 = 0 ∧
    aheadOfOrder homeState (request (storeEnd + 7) 1 0x11 [1]) = false ∧
    Reached homeState (request (storeEnd + 7) 1 0x11 [1]) (.store core) ∧ partialPoison homeState (storeEnd + 7) 1 1 = false ∧
    (∀ w ∈ [9, 14, 16], Reached homeState (request storeEnd 0 (BitVec.ofNat 8 w) (List.replicate (destWidth w) 1)) (.store core)) ∧
    (∀ w ∈ [1, 2, 3, 4], (destFloat w).isSome = true ∧ storeEnd % destWidth w = 0 ∧
      Reached homeState (request storeEnd 0 (BitVec.ofNat 8 w) (List.replicate (destWidth w) 1)) (.store core)) ∧
    poisoned homeState storeEnd 8 = false ∧ isFull homeState storeEnd = true ∧ isFull homeEmpty storeEnd = false ∧
    Reached homeEmpty (request storeEnd 8 2 (List.replicate 8 1)) (.store core) ∧ waiterRoom homeEmpty (.store core) = true ∧
    (∃ v, Arrived (readWord homeState storeEnd) v) ∧
    (readWord homeState storeEnd).extractLsb' 32 16 = (3#64).extractLsb' 0 16 ∧
    (readWord homeState storeEnd).extractLsb' 32 16 ≠ (2#64).extractLsb' 0 16 := by
  refine ⟨?_, ?_, ?_, ?_, ?_, ?_, ?_, ?_, ?_, ?_, ?_, ?_, ?_, ?_, ?_, ?_, ?_, ?_, ⟨0x0002000400000000, ?_⟩, ?_, ?_⟩ <;>
    first
    | exact ⟨by decide +kernel, by decide +kernel, by decide +kernel⟩
    | (constructor <;> first | decide +kernel | (intro d h; cases h))
    | decide +kernel
    | (intro w h; simp only [List.mem_cons, List.not_mem_nil, or_false] at h; rcases h with rfl | rfl | rfl <;>
        (constructor <;> first | decide +kernel | (intro d h; cases h)))
    | (intro w h; simp only [List.mem_cons, List.not_mem_nil, or_false] at h; rcases h with rfl | rfl | rfl | rfl <;>
        refine ⟨by decide +kernel, by decide +kernel, ?_⟩ <;> constructor <;> first | decide +kernel | (intro d h; cases h))

/-- A thread that waits for the reply of request 5 with a completion; one that waits for its acknowledgement; one that waits for
a line; and requests of theirs. -/
def awaiting (k : Compl) : State :=
  withThread base fun th => { th with wait := .reply k, req := some (request dramEnd 8 0 []), next := 0x1004 }
def acking : State := withThread base fun th => { th with wait := .redo .ack, posted := [⟨5, 0x10000, false⟩] }
def fetching (install : Bool) : State :=
  withCore (withThread base fun th => { th with wait := .line 0x1000 }) fun c => { c with noInstall := if install then [] else [0] }
def waiterOf : Waiter := ⟨dramEnd, 0, 0, some (request dramEnd 8 0 []), none⟩
def cancelled : State := { awaiting (.word 3) with waiters := [waiterOf] }

/-- The thread's stepped instruction parked while its creel stays halted. -/
def steppedWait : State :=
  withCreel { awaiting (.load 127 3) with cyc := 200 } fun c => { c with
    halt := some ⟨100, 0, 1, 0, 0, none, none, none, [], [slot0], []⟩ }

theorem witness_RepliesComplete : (∀ k ∈ [Compl.load 127 3, .fill 127, .word 127, .pair 127, .bit 127, .nothing],
      ((awaiting k).threads.find slot0).isSome = true ∧ (threadOf (awaiting k) slot0).wait = .reply k ∧
      (threadOf (awaiting k) slot0).req.map (fun x => x.tok) = some 5) ∧
    (request dramEnd 8 0 []).who = .slot slot0 ∧ (request dramEnd 8 0 []).posted = false ∧
    (acking.threads.find slot0).isSome = true ∧ ((threadOf acking slot0).posted.any fun p => decide (p.tok = 5)) = true ∧
    (threadOf acking slot0).wait = .redo .ack ∧ { request dramEnd 8 0 [] with posted := true }.posted = true ∧
    { request dramEnd 64 0 [] with who := .fetch slot0 0x1000 }.who = .fetch slot0 0x1000 ∧
    (∀ b ∈ [true, false], ((fetching b).threads.find slot0).isSome = true ∧ (threadOf (fetching b) slot0).wait = .line 0x1000 ∧
      (coreOf (fetching b) core).noInstall.contains 0 = !b) ∧
    (∃ w ∈ icWays (fetching true) core, ∀ l ∈ setLines (fetching true) core 0x1000, l.way ≠ w) ∧
    cancelled.heldWaits = [] ∧ (cancelled.waiters.find? fun x => match x.q with
      | some y => decide (y.tok = 5 ∧ y.who = .slot slot0)
      | none => false) = some waiterOf ∧
    (cancelled.threads.find slot0).isSome = true ∧ (threadOf cancelled slot0).req.map (fun x => x.tok) = some 5 ∧
    ((creelOf steppedWait creel).halt.map fun h => h.stepped.contains slot0) = some true ∧ haltedNow steppedWait core = true ∧
    (creelOf cancelled creel).halt = none ∧ fencedAt base creel = false := by
  decide +kernel

end Sys2Proof.Tests
end

