-- ==== Sys2Proof/Tests/WitnessHost.lean ====
section
/-! SUPPORT. For each claim with premises, states and operands that meet them, clause by clause: fences, links, the host. -/

namespace Sys2Proof.Tests

open Sys2Proof Sys2Proof.Machine

-- one theorem after the other: each is small, and many at once would take a thread each
set_option Elab.async false

/-- A fence of team 0 at a step, consumed at cycle 0; the cycle is 512. -/
def fence (step : Nat) : FenceSt := ⟨team, 0, 0, 2, 1, step, 0⟩
def fenced (step : Nat) : State := { teamState with cyc := 512, fences := [fence step] }

/-- A message of the peer into creel (1, 0), and one from another creel. -/
def inside : Msg := { message 4 [] with dst := 0x10202 }
def outside : Msg := { inside with src := 0x20202, dst := 0x10202 }

/-- A word in DRAM with an uncorrectable error; an edge with link 33 in training; a pair whose effect is held. -/
def spoilt : State := { base with err := [(0x1000, 2)] }
def trainingEdge : State := { base with edges := [(9, ⟨[0, 1], [], [33], []⟩)] }

/-- Link 5 in training while both spares are gone. -/
def foldingEdge : State := { base with edges := [(9, ⟨[32, 33], [], [5], []⟩)] }
def pairHeld : State := withThread base fun th => { th with wait := .redo .pair, pairSince := 7 }

/-- Port 0, the host's, with its link up, an IPv4 and an IPv6 address, both answered, flow control on priority 7. -/
def wired : State := { base with
  eth := [(0, { EthPort.initial with link := true }), (15, { EthPort.initial with link := true })]
  dieRegs := [((0, 0x80020), 0x324B8003), ((0, 0x80008), 0x0A000001), ((0, 0x80010), 5), ((0, 0x80018), 6)] }

/-- A Towline packet ACK of session 0; a frame that carries it, and one that no longer fits. -/
def ackPacket : List Byte := bytes 16 [(0, 1), (1, 2)]
def frame (n : Nat) : EthFrame := ⟨0, n, false, .ipv4 0x0A000002 0x0A000001 false false true 5000 19470 true ackPacket⟩
def nearlyFull : State := { wired with eth := [(0, { EthPort.initial with link := true, held := [524288, 0, 0, 0, 0, 0, 0, 0] })] }

theorem witness_FencesErrorsAndLinks : teamState.fences = [] ∧
    teamState.teams.find (fenceTeam teamState 9 team) = some (placed 0 0 2 1) ∧
    (∀ n ∈ [0, 1, 2], (fenced n).fences = [fence n] ∧ (fence n).key = team ∧ (fence n).step = n) ∧
    (fenced 0).cyc = (fence 0).since + 512 ∧ (fenced 2).teams.find team = some (placed 0 0 2 1) ∧
    ((fenced 1).fences.any fun f => decide (1 ≤ f.step) && inFence f ⟨(addrCore inside.src).x, (addrCore inside.src).y⟩ &&
      inFence f ⟨(addrCore inside.dst).x, (addrCore inside.dst).y⟩) = true ∧
    ((fenced 1).fences.any fun f => decide (1 ≤ f.step) && inFence f ⟨(addrCore outside.src).x, (addrCore outside.src).y⟩ &&
      inFence f ⟨(addrCore outside.dst).x, (addrCore outside.dst).y⟩) = false ∧
    addrMod outside.src = modSelf (fenced 1) ∧ expectsReply (message 0xF9 []) = false ∧ expectsReply outside = true ∧
    isServer outside.src = false ∧ isHost base outside.src = false ∧ outside.mtype ≠ 0xFA ∧
    (threadOf pairHeld slot0).wait = .redo .pair ∧ (threadOf pairHeld slot0).pairSince = 7 ∧
    (homeOf base 0x1000).isSome = true ∧ unitState spoilt 0x1000 = 2 ∧ 2047 < 2048 ∧
    bankValid ⟨3, 3, 0, true⟩ = true ∧ creelThere base creel = true ∧ bankRetired (creelOf base creel) ⟨3, 3, 0, true⟩ = false ∧
    (edgeOf trainingEdge 9).training.contains 33 = true ∧ (edgeOf trainingEdge 9).training.contains 0 = false ∧
    (edgeOf trainingEdge 9).failed.contains 33 = false ∧ (edgeOf trainingEdge 9).failed.length < 33 ∧
    (edgeOf trainingEdge 9).carriers = [] ∧ (edgeOf trainingEdge 9).failed.contains 32 = false ∧
    (edgeOf foldingEdge 9).training.contains 5 = true ∧ (edgeOf foldingEdge 9).failed.contains 5 = false ∧
    (edgeOf foldingEdge 9).carriers = [] ∧ (edgeOf foldingEdge 9).failed.contains 32 = true ∧
    (edgeOf foldingEdge 9).failed.contains 33 = true ∧
    nearestLink { (edgeOf foldingEdge 9) with training := [], failed := [32, 33] ++ [5] } 5 = some 4 ∧
    base.power.state ≠ .off ∧ (ethCfg wired 0).getLsbD 0 = true ∧ (ethCfg wired 0).getLsbD 1 = true ∧
    (ethCfg base 0).getLsbD 0 = false ∧ (ethCfg { base with dieRegs := [((0, 0x80020), 2)] } 0).getLsbD 1 = true ∧
    (0x62630000#64).extractLsb' 24 8 = 98 ∧ (0x62630000#64).extractLsb' 16 8 = 99 ∧
    ¬ (1 ≤ ((0x63630000#64).extractLsb' 24 8).toNat ∧
      ((0x63630000#64).extractLsb' 24 8).toNat < ((0x63630000#64).extractLsb' 16 8).toNat) ∧
    base.launches = [] ∧ teamState.launches ≠ [] ∧ (ethPort wired 0).link = true ∧ (ethPort wired 15).link = true ∧
    (ethRead wired 0 8).extractLsb' 0 32 = 0x0A000001 ∧ (ethRead wired 0 0x18 ++ ethRead wired 0 0x10 : BitVec (64 + 64)) = 0x60000000000000005 ∧
    (ethCfg wired 0).getLsbD (8 + 7) = true ∧ (frame 9216).len ≤ 9216 ∧ (frame 9216).ce = false ∧ (ethCfg wired 0).getLsbD (8 + (frame 1).pcp) = false ∧
    524288 < (ethPort nearlyFull 0).held.getD 0 0 + (frame 1).len ∧ (ethPort wired 0).held.getD 0 0 + (frame 9216).len ≤ 524288 ∧
    wired.hostPort = 0 ∧ packetValid ackPacket = true ∧ fieldAt ackPacket 1 1 = 2 := by
  and_intros <;> decide +kernel

/-- The host's register conversation, on an open session 0 over port 0. -/
def hostConv : Conv := ⟨0x400, hostAddr base 0, 0, 0, false, true⟩
def hosted : State := { wired with convs := [hostConv], sessions := [(0, { Session.initial with isOpen := true })] }

/-- An address space that maps the first terabyte to itself, with a packet of team 127 at 3 MiB. -/
def mapped : State := { base with
  mem := putBytes (putBytes (putBytes base.mem 0x100000 (leBytes 8 0x200001)) 0x200000 (leBytes 8 0x33F)) 0x300000 (packet 0 127) }

/-- A launch record of one level: teams of 8 by 8 creels, that packet its initial one. -/
def launchable : List Byte :=
  bytes 192 [(0, 0x4E), (1, 0x55), (2, 0x41), (3, 0x4C), (4, 1), (6, 1), (8, 192), (0x22, 0x10), (64, 3), (68, 8), (69, 8), (74, 0x30),
    (80, 1), (64 + 0x19, 0x24), (64 + 0x1E, 8), (64 + 0x22, 1)]

/-- Session 3 open, three packets unacknowledged. -/
def unacked (n : Nat) : Unacked := ⟨BitVec.ofNat 32 n, message 4 [], 11⟩
def session (f : Session → Session) : State := { base with sessions := [(3, f { Session.initial with isOpen := true })] }
def three (tries : Nat) : State :=
  session fun n => { n with sendSeq := 2, unacked := [-1, 0, 1].map fun q => ⟨q, message 4 [], tries⟩ }

/-- A tile request of two W32 elements that end a page of die 0's first stack, and its write; the conversation they belong to. -/
def tile : List Byte :=
  bytes 40 [(0, 0xF8), (1, 0xFF), (2, 0x20), (8, 1), (9, 1), (12, 2), (14, 1), (16, 1), (18, 1), (20, 1)]
def tileMsg (server : BitVec 32) (b : List Byte) : Msg := { message 0xE0 b with dst := server }
def tileState : State := { base with convs := [⟨0x602, peer, 0, 0, false, true⟩] }

theorem witness_HostConversations : regPlace 0x80000000 = none ∧ base.power.state = .run ∧ regPlace 0x70020000 = some (7, 0x20000) ∧
    regServed { base with power := PowerSt.initial } 7 0x20000 false = false ∧
    regServed { base with power := PowerSt.initial } 7 0x20000 true = false ∧ elsewhere 7 0x20000 = false ∧
    regServed base 7 0x20000 false = true ∧ dieRead base 7 0x20000 = some 0 ∧ dieRead base 7 0x20001 = none ∧
    regServed base 7 0x20000 true = true ∧
    -- a session
    (hosted.convs.find? fun c => decide (serviceOf c.server = some 0)) = some hostConv ∧ isHost hosted hostConv.client = true ∧
    addrNode hostConv.server = 8 ∧ regServed hosted 7 0x20000 false = true ∧ dieRead hosted 7 0x20000 = some 0 ∧
    addrEp hostConv.client / 8 = 0 ∧ (sessionOf hosted 0).isOpen = true ∧ (sessionOf hosted 0).waiting = [] ∧
    (sessionOf hosted 0).unacked.length < (sessionOf hosted 0).window ∧ (ethPort hosted hosted.hostPort).link = true ∧
    (ethPort hosted hosted.hostPort).paused.getLsbD 3 = false ∧ ¬ (PowerSt.initial.state = .idle ∨ PowerSt.initial.state = .run) ∧
    -- launches
    updateHolds { base with fwu := ⟨0, 1, true, 2, 0⟩ } = true ∧ updateHolds mapped = false ∧ launchStatus base record ≠ 0 ∧
    launchStatus mapped launchable = 0 ∧ freeLaunch mapped = some 0 ∧
    (initialPackets mapped launchable 0).1 = [⟨⟨0, 0, 127⟩, packet 0 127, none, true, false⟩] ∧
    ((initialPackets mapped launchable 0).1.map fun p => pkLen p.bytes).sum ≤ 16384 ∧
    -- attestation
    { NvSt.initial with leaf := 1048575 }.leaf < 1048576 ∧ 1048576 ≤ { NvSt.initial with leaf := 1048576 }.leaf ∧ base.nv.leaf < 1048576 ∧
    (5 < 6 ∧ 6 ≠ 255) ∧ base.notices = [] ∧
    -- sessions
    (sessionOf base 3).isOpen = false ∧ { base.power with state := .moored }.state = .moored ∧ (sessionOf (three 0) 3).isOpen = true ∧
    (sessionOf (three 0) 3).waiting = [] ∧ (sessionOf (three 0) 3).unacked.length = 3 ∧ serviceOf (message 4 []).dst ≠ some 0 ∧
    (sessionOf (three 0) 3).early = [] ∧ 2 ^ 31 ≤ (0x80000000#32 - (sessionOf (three 0) 3).recvSeq).toNat ∧
    256 ≤ (256#32 - (sessionOf (three 0) 3).recvSeq).toNat ∧ (256#32 - (sessionOf (three 0) 3).recvSeq).toNat < 2 ^ 31 ∧
    (∀ n ∈ [11, 12], ((sessionOf (three n) 3).unacked.find? fun u => decide (u.seq = 0xFFFFFFFF)) = some ⟨0xFFFFFFFF, message 4 [], n⟩) ∧
    (sessionOf (three 0) 3).moored = false ∧
    -- tiles and bulk memory
    tqStatus tileState 0x602 tile = 0 ∧ tqStatus tileState 0x682 tile = 5 ∧ tqLfmt tile = 0 ∧ 8 ≤ formatBits (tqEt tile) ∧
    (∀ x ∈ tqPlaces tile, tagAt tileState x.pa = false) ∧ (tile ++ List.replicate 8 1).length = 40 + tqBytes tile ∧
    (∀ x ∈ tqPlaces tile, partialPoison tileState x.pa 4 4 = false) ∧
    (tqPlaces tile).Pairwise (fun a b => a.pa + 4 ≤ b.pa ∨ b.pa + 4 ≤ a.pa) ∧ tileState.moves = [] ∧ tileState.waiters = [] ∧
    convFind tileState (tileMsg 0x602 tile).dst (tileMsg 0x602 tile).src = some ⟨0x602, peer, 0, 0, false, true⟩ ∧
    bulkStatus base 0x604 0x20FFFF 2 4096 = 0 ∧ bulkStatus base 0x604 0xFBFFFFFFF 2 4088 = 1 ∧ bulkStatus base 0x604 0 0 4088 = 3 ∧
    partialPoison base 0x20FFFF 2 2 = false := by
  and_intros <;> decide +kernel

end Sys2Proof.Tests
end

