-- ==== Sys2Proof/Tests/WitnessMatrix.lean ====
section
/-! SUPPORT. For each claim with premises, states and operands that meet them, clause by clause: rows of vectors, and the matrix unit. -/

namespace Sys2Proof.Tests

open Sys2Proof Sys2Proof.Machine

-- one theorem after the other: each is small, and many at once would take a thread each
set_option Elab.async false

/-- A stream of 2 by 2 elements of a type. -/
def square (off et : Nat) : ZReg :=
  { streamOf off 4 et with shape := { (streamOf off 4 et).shape with rank := 2, ext := [2, 2, 1, 1], str := [1, 2, 0, 0] } }

/-- Two sources of two rows, in z0 and z1, a result a row in z3 and one an element in z4. -/
def rowState (src dst : Nat) : State :=
  withThread base fun th => { th with
    z := [square 0 src, square 64 src, ZReg.unbound, streamOf 128 2 dst, streamOf 192 4 dst, ZReg.unbound, ZReg.unbound, ZReg.unbound] }

/-- What a stream supplies to a beat is read, without error. -/
def supplies (s : State) (i ph n : Nat) : Bool :=
  match (nextPositions (s.z i) ph n).mapM (fun x => reach s s.cur (s.z i) false x.1 x.2) with
  | .ok gs => (gs.mapM (elemAt s (s.z i).shape.et)).isOk
  | .error _ => false

/-- The elements that a stream supplies to a beat, and the places it is written to. -/
def gots (s : State) (i ph n : Nat) (write : Bool) : List Got :=
  match (nextPositions (s.z i) ph n).mapM (fun x => reach s s.cur (s.z i) write x.1 x.2) with
  | .ok gs => gs
  | .error _ => []

/-- A beat from these streams to that one is served in this slot. -/
def served (s : State) (srcs : List Nat) (ph n : Nat) (d first m : Nat) : Bool :=
  decide (beatCost s (srcs.flatMap (fun i => vRuns s (s.z i) false (gots s i ph n false)) ++ vRuns s (s.z d) true (gots s d first m true))
    (srcs.flatMap (fun i => gots s i ph n false) ++ gots s d first m true) = 0)

/-- Places for what a beat writes are found, without error. -/
def accepts (s : State) (i first n : Nat) : Bool :=
  match (nextPositions (s.z i) first n).mapM (fun x => reach s s.cur (s.z i) true x.1 x.2) with
  | .ok gs => (putsPoison s (s.z i).shape.et gs).isNone
  | .error _ => false

/-- The premises of VectorRowsAndScans for a row instruction with sources z0 and z1 and destination z3. -/
def rowReady (s : State) (t r : Nat) (p : RowRule) : Bool :=
  let op : VOp := ⟨t, r, 3, p.srcs.map fun x => .seq x.toNat, none⟩
  let n := min (beatElems t (s.z 3).shape.et) ((s.z 3).shape.total * 2)
  p.ok && vOk s op (p.srcs.map fun _ => p.cls) && decide ((s.z 3).zm = 1) && (p.srcs.all fun x => decide ((s.z x.toNat).zm = 1)) &&
    (p.srcs.all fun x => supplies (openWalk s) x.toNat 0 n) && accepts (openWalk s) 3 0 (n / 2) &&
    served (openWalk s) (p.srcs.map fun x => x.toNat) 0 n 3 0 (n / 2) &&
    (tagChecks (openWalk s) (p.srcs.map fun x => x.toNat)).isOk && s.waiters.isEmpty

theorem witness_VectorRowsAndScans : Issues (rowState 1 1) [] [] ∧
    (((vectorRows 1 0 1 0 3).take 4).map (rowReady (rowState 1 1) 0 1)) = List.replicate 4 true ∧
    ((vectorRows 0 5 1 0 3).map (rowReady (rowState 8 8) 5 0)) = List.replicate 5 true ∧
    okRound 0 0 = true ∧ vOk (rowState 1 1) ⟨0, 0, 4, [.seq 0], none⟩ [etFloating] = true ∧
    supplies (openWalk (rowState 1 1)) 0 0 4 = true ∧ accepts (openWalk (rowState 1 1)) 4 0 4 = true ∧
    served (openWalk (rowState 1 1)) [0] 0 4 4 0 4 = true ∧
    (tagChecks (openWalk (rowState 1 1)) [0]).isOk = true ∧ (rowState 1 1).th.rep.running = false ∧ (rowState 1 1).buffered = false := by
  unfold Issues; and_intros <;> decide +kernel

/-- A descriptor of 2 by 2 by 2 elements, a grid of one core. -/
def desc : List Byte := bytes 32 [(0, 2), (1, 2), (2, 2)]

/-- The thread of team 0 with that descriptor, 2 by 2 streams of a type in every stream register, and registers to name a
descriptor in memory, valid at 0 and not at 32. -/
def matrixState (et : Nat) : State :=
  withBytes (withRegs (withThread teamState fun th => { th with
    mdesc := desc, mvalid := true, z := List.replicate 8 (square 0 et) }) [(1, 0x80000), (2, 0x80020)]) 0 desc

/-- Both ends of a swap; scaled operands of class 6, and a W32 index for MMAG. -/
def scaled : State :=
  withThread (matrixState 10) fun th => { th with
    mdesc := bytes 32 [(0, 2), (1, 2), (2, 2), (4, 15), (5, 8), (6, 0x21)]
    z := [square 0 10, square 0 15, square 0 15, square 0 10, square 0 9, square 0 10, square 0 10, square 0 10] }

theorem witness_MatrixInstructionsIssue : (matrixState 1).cur.core.isCompute = true ∧ otherRegion (matrixState 1) slot0 = false ∧
    (matrixState 1).th.rep.running = false ∧ (matrixState 1).buffered = false ∧ Issues (matrixState 1) [] [] ∧
    (3#3).toNat ≤ 3 ∧ (matrixState 1).th.mvalid = true ∧
    ((matrixState 1).z 7).zm = 1 ∧ classAdmits 0 ((matrixState 1).z 7).shape.et = true ∧
    etSelector (matrixState 1).th.fmt ((matrixState 1).z 7).shape.et = true ∧ mdSfmt (matrixState 1).th.mdesc = 0 ∧
    (tagChecks (matrixState 1) ([7, 0] ++ scaleRegs (matrixState 1))).isOk = true ∧ (tagChecks (matrixState 1) [7]).isOk = true ∧
    -- scaled, and gathered
    Issues scaled [] [] ∧ scaled.th.mvalid = true ∧ mdOk scaled.th.mdesc = true ∧ classAdmits 6 (scaled.z 0).shape.et = true ∧
    etSelector scaled.th.fmt (scaled.z 0).shape.et = true ∧ (scaled.z (mdZsa scaled.th.mdesc)).zm = 1 ∧
    (scaled.z (mdZsa scaled.th.mdesc)).shape.et = mdSfmt scaled.th.mdesc ∧ (scaled.z (mdZsb scaled.th.mdesc)).zm = 1 ∧
    (scaled.z (mdZsb scaled.th.mdesc)).shape.et = mdSfmt scaled.th.mdesc ∧ classAdmits 4 (scaled.z 4).shape.et = true ∧
    (tagChecks scaled ([0, 3, 4] ++ scaleRegs scaled)).isOk = true ∧
    -- MTEAM and MSWAP
    (matrixState 1).free? = true ∧ gridPos (matrixState 1) slot0 = some (placed 0 0 2 1, 0, 0) ∧
    (teamStreams (matrixState 1) 0 0 1 2) = [(1, false), (2, false)] ∧
    (tagChecks (matrixState 1) ((teamStreams (matrixState 1) 0 0 1 2).map fun y => y.1)).isOk = true ∧
    (teamStreams scaled 0 0 0 3).all (fun y => if y.2 then mScales scaled y.1 else classAdmits 6 (scaled.z y.1).shape.et) = true ∧
    mdGw desc = mdGh desc ∧ ((matrixState 1).z 1).zpos = 0 ∧ ((matrixState 1).z 1).shape.total * etBits 1 ≤ 2 ^ 17 ∧
    -- MSET and MSTAT
    Issues (matrixState 1) [1] [] ∧ OwnOperand (matrixState 1) (((matrixState 1).g 1).toNat % 2 ^ 20) 32 32 local0 ∧
    mdOk (readBytes (matrixState 1) local0 32) = true ∧ Issues (matrixState 1) [2] [] ∧
    OwnOperand (matrixState 1) (((matrixState 1).g 2).toNat % 2 ^ 20) 32 32 (local0 + 32) ∧
    mdOk (readBytes (matrixState 1) (local0 + 32) 32) = false ∧ Issues (matrixState 1) [] [(7#3).setWidth 7] := by
  unfold Issues OwnOperand; and_intros <;> decide +kernel

theorem witness_MatrixTiles : 1 < mdM desc ∧ 1 < mdN desc ∧ (List.replicate 4 melemZero).length = mdM desc * mdK desc ∧
    (List.replicate 4 melemZero).length = mdN desc * mdK desc ∧ mdBlk desc = 0 ∧ 1 ≤ mdK desc ∧ mdK desc ≤ 32 ∧
    accIndex 3 63 63 < 4096 := by
  and_intros <;> decide

/-- The queue of core C0's unit holds an instruction. -/
def queued (et : Nat) (w : BitVec 32) : State := withCore (matrixState et) fun c => { c with mqueue := [⟨0, w, 0, false⟩] }

/-- The queue as the unit has taken from it. -/
def taken (et : Nat) : State := modCore (matrixState et) core fun c => { c with mqueue := [] }

/-- An instruction of the unit in its last beat. -/
def result (team mismatch : Bool) (word : BitVec 32) (finish : Nat) : MResult :=
  ⟨⟨0, word, 0, false⟩, 0, [], finish, 12, [(1, melemZero)], [], [], 0, mismatch, team, none⟩
def running (r : MResult) : State := withCore { matrixState 1 with cyc := 20 } fun c => { c with mrun := some r }

/-- The blocks of a grid of one core. -/
def block (isA : Bool) (cls : Nat) : MBlock := ⟨core, isA, 0, blockFields desc, cls, List.replicate 4 melemZero, []⟩
def oneBlock (r : MResult) : State := withCore (running r) fun c => { c with blocks := [block true 0] }

/-- MTEAM of class 0 with z1 and z2; MSWAP of z1. -/
def mteamWord : BitVec 32 := 0x0010447B
def mswapWord : BitVec 32 := 0x0000207D

/-- A partner's message. -/
def swapOf : SwapMsg := ⟨core, 1, 4, 0, List.replicate 4 (0, false)⟩

theorem witness_MatrixUnitRuns : (coreOf (queued 1 0x0000207B) core).mqueue = [⟨0, 0x0000207B, 0, false⟩] ∧
    (coreOf (queued 1 0x0000207B) core).mrun = none ∧ haltedNow (queued 1 0x0000207B) core = false ∧
    -- MMA, MMAG, MLOAD, MLDT and MCLR, as their words say
    ((0x0000207B#32).extractLsb' 1 6).toNat = 61 ∧ ((0x0000207B#32).extractLsb' 19 8).toNat = 0 ∧
    (supplyA (taken 1) slot0 desc 0 0 (upTo 2)).isOk = true ∧ (supplyB (taken 1) slot0 desc 0 1).isOk = true ∧
    ((0x400C20FB#32).extractLsb' 1 6).toNat = 61 ∧ ((0x400C20FB#32).extractLsb' 19 8).toNat = 1 ∧
    (gatherRows (taken 9) slot0 4 2).isOk = true ∧ (fetchOp (taken 1) slot0 0 2 (upTo 4) (upTo 4)).isOk = true ∧
    ((0x00100079#32).extractLsb' 1 6).toNat = 60 ∧ ((0x00000079#32).extractLsb' 19 8).toNat = 0 ∧
    ((0x000809FD#32).extractLsb' 1 6).toNat = 62 ∧ ((0x000809FD#32).extractLsb' 19 8).toNat = 1 ∧
    ((0x18080079#32).extractLsb' 1 6).toNat = 60 ∧ ((0x18080079#32).extractLsb' 19 8).toNat = 1 ∧
    -- the commit
    (coreOf (running (result false false 0 20)) core).mrun = some (result false false 0 20) ∧
    (result false false 0 20).finish = (running (result false false 0 20)).cyc ∧ haltedNow (running (result false false 0 20)) core = false ∧
    (result false false 0 20).writes = [] ∧ ((running (result true true 0 20)).threads.find slot0).isSome = true ∧
    (result true true 0 20).mismatch = true ∧
    (oneBlock (result true false mteamWord 0)).agenda = [] ∧
    -- blocks: a full latch, an idle unit, and the second operand of a waiting MTEAM
    2 ≤ ((coreOf (withCore (matrixState 1) fun c => { c with blocks := [block true 0, block true 0] }) core).blocks.filter
      fun b => decide (b.src = core ∧ b.isA = true)).length ∧
    ((coreOf (oneBlock (result true false mteamWord 0)) core).blocks.filter fun b => decide (b.src = core ∧ b.isA = false)).length < 2 ∧
    (coreOf (oneBlock (result true false mteamWord 0)) core).mrun = some (result true false mteamWord 0) ∧
    (mteamWord.extractLsb' 1 6).toNat = 61 ∧ haltedNow (oneBlock (result true false mteamWord 0)) core = false ∧
    gridPos (oneBlock (result true false mteamWord 0)) slot0 = some (placed 0 0 2 1, 0, 0) ∧
    blockFrom (modCore (oneBlock (result true false mteamWord 0)) core fun c => { c with blocks := c.blocks ++ [block false 0] }) core
      (gridAt (placed 0 0 2 1) desc 0 0) true 0 = some (block true 0) ∧
    blockFrom (modCore (oneBlock (result true false mteamWord 0)) core fun c => { c with blocks := c.blocks ++ [block false 0] }) core
      (gridAt (placed 0 0 2 1) desc 0 0) false 0 = some (block false 0) ∧
    (block true 0).desc = blockFields desc ∧ (block true 1).cls ≠ (mteamWord.extractLsb' 29 3).toNat ∧
    -- a swap
    (mswapWord.extractLsb' 1 6).toNat ≠ 61 ∧ (coreOf (running (result true false mswapWord 0)) core).swaps = [] ∧
    swapOf.src = gridAt (placed 0 0 2 1) desc 0 0 ∧ swapOf.et = ((matrixState 1).z 1).shape.et ∧
    swapOf.total = ((matrixState 1).z 1).shape.total ∧ (swapPlaces (running (result true false mswapWord 0)) slot0 1).isOk = true := by
  and_intros <;> decide +kernel

/-- Streams 64 bytes into the local store, so that a tile's metadata word stands before it. -/
def epiState (total : Nat) : State :=
  withThread (matrixState 1) fun th => { th with
    mdesc := if total = 4 then desc else bytes 32 [(0, 10), (1, 2), (2, 2)], z := List.replicate 8 (streamOf 64 total 1) }

theorem witness_MatrixEpilogue : Issues (epiState 4) [] [] ∧ (epiState 4).cur.core.isCompute = true ∧
    otherRegion (epiState 4) slot0 = false ∧ (epiState 4).th.rep.running = false ∧ (epiState 4).buffered = false ∧
    (epiState 4).th.mvalid = true ∧ ((epiState 4).z 0).zm = 1 ∧ ((epiState 4).z 0).shape.et = 1 ∧ etSelector (epiState 4).th.fmt 1 = true ∧
    8 < etBits 1 ∧ etInteger ((epiState 4).z 1).shape.et = false ∧ ((epiState 4).z 0).shape.total = mdM desc * mdN desc ∧
    tileWhole (epiState 4) ((epiState 4).z 0) = true ∧ poisoned (epiState 4) (metaPa (epiState 4) ((epiState 4).z 0)) 8 = false ∧
    accepts (openWalk (epiState 4)) 0 0 4 = true ∧ supplies (openWalk (epiState 4)) 1 0 2 = true ∧
    beatCost (openWalk (epiState 4)) (streamRuns (openWalk (epiState 4)) slot0 32 true (gots (openWalk (epiState 4)) 0 0 4 true) ++
      streamRuns (openWalk (epiState 4)) slot0 32 false (gots (openWalk (epiState 4)) 1 0 2 false))
      (gots (openWalk (epiState 4)) 0 0 4 true ++ gots (openWalk (epiState 4)) 1 0 2 false) = 0 ∧
    (tagChecks (openWalk (epiState 4)) [1]).isOk = true ∧ (epiState 4).waiters = [] ∧
    -- a tile of more than one beat
    ((epiState 20).z 0).shape.total = mdM (epiState 20).th.mdesc * mdN (epiState 20).th.mdesc ∧
    accepts (openWalk (epiState 20)) 0 0 16 = true := by
  unfold Issues; and_intros <;> decide +kernel

end Sys2Proof.Tests
end

