-- ==== Sys2Proof/Tests/WitnessPages.lean ====
section
/-! SUPPORT. For each claim with premises, states and operands that meet them, clause by clause: pre-emption, sluices, pages, and
the step. -/

namespace Sys2Proof.Tests

open Sys2Proof Sys2Proof.Machine

-- one theorem after the other: each is small, and many at once would take a thread each
set_option Elab.async false

/-- Team 0 in a phase; its launch may restart it. -/
def inPhase (p : TeamPhase) : State := { teamState with teams := [(team, { placed 0 0 2 1 with phase := p })] }
def restartable (s : State) : State := { s with launches := [(0, ⟨1, record.set 66 1, 0, 0, 0, []⟩)] }

/-- A save image with nothing in it. -/
def noImage13 : Image := ⟨0, [], [], [], [], [], [], [], [], []⟩
def savedTeam : State := { inPhase .saved with images := [(team, noImage13)] }

/-- The last bank of the scratchpad; its sluice in a phase. -/
def lastBank : BankReq := ⟨1, 0, 63, false⟩
def sluicing (r : BankReq) (phase : Nat) (units : List Nat) (copying : Option Nat) : State :=
  withCreel base fun c => { c with sluice := some ⟨r, phase, units, copying, []⟩ }
def sluiceWaits : State := withCreel base fun c => { c with sluiceQ := [lastBank] }
def retired : State := withCreel base fun c => { c with spRet := 1#64 <<< 63 }

/-- A leaf of the first 64 KiB frame, which may migrate; a walk that stands at it. -/
def leaf13 : Word := 0xB27
def walk13 : Walk := ⟨4, slot0, creel, 1, 0x10000, 4, 0x200000, 0, true, true, false⟩
def walking : State := { base with walks := [walk13] }

/-- Ring 0 of die 0 of 512 entries at 4 KiB, with one entry left, and full; migration enabled. -/
def rings (n : Nat) : State := { base with dieRegs := [((0, 0x10040), 0x1009)], frameRings := [((0, 0), (3, n))] }
def migrating : State := { base with dieRegs := [((0, 0x10000), 1)], frameHeat := [(0x20000, (0, 0, 0))], frameCount := [(2, 9)] }

/-- A page on its way down, at its last line, its leaf entry unchanged, and changed. -/
def move13 : Move := ⟨1, 0, false, false, 0x20000, 0x20000000000, 0x200000, leaf13, 1023⟩
def moving (entry : Word) : State :=
  { rings 511 with moves := [{ move13 with up := true }], mem := putBytes base.mem 0x200000 (leBytes 8 entry.toNat) }

theorem witness_PreemptionSluicesAndPages :
    -- requests
    updateHolds teamState = false ∧ mooringHolds teamState = false ∧ (0x0000000000000000#64).getLsbD 0 = false ∧ requestKey 0 = team ∧
    teamState.teams.find team = some (placed 0 0 2 1) ∧ (placed 0 0 2 1).phase = .placed ∧
    ([0, 1, 2, 3].all fun n => decide (((BitVec.ofNat 64 (n * 2 ^ 38)).extractLsb' 38 2).toNat = n ∧
      requestKey (BitVec.ofNat 64 (n * 2 ^ 38)) = team)) = true ∧
    lvRestart (recordOf (restartable teamState) 0) 0 = true ∧ lvRestart (recordOf teamState 0) 0 = false ∧
    base.teams.find team = none ∧ ((inPhase .kept).teams.find team).map (·.phase) = some .kept ∧
    (threadOf teamState ⟨core, (epOf teamState core 63).slot⟩).key = some team ∧
    ¬ ((epOf teamState core 63).est = .delegated ∧ (epOf teamState core 63).fwdEnd = false) ∧
    ({ (epOf teamState core 63) with est := .delegated }).fwdEnd = false ∧
    thread0.partner = none ∧ (placed 0 0 2 1).asked = 0 ∧ teamState.power.trans ≠ .mooring ∧
    -- the boundary, the save, the relaunch
    (∀ a ∈ [0, 1, 2, 3], ((inPhase (.leaving a)).teams.find team).map (·.phase) = some (.leaving a)) ∧
    lvGraph (recordOf (inPhase (.leaving 2)) 0) 0 = false ∧ withDescendants (inPhase (.leaving 2)) team = [team] ∧
    { inPhase (.leaving 2) with threads := [] }.threads = [] ∧
    (inPhase (.leaving 2)).threads.map (fun e => (e.1, e.2.key, e.2.wait, e.2.going, e.2.bound)) = [(slot0, some team, .run, false, false)] ∧
    parentCorner (restartable (inPhase .gone)) team = some (0, 0) ∧ chooseFoot (restartable (inPhase .gone)) (record.set 66 1) 0 0 0 = some 0 ∧
    chooseTile (restartable (inPhase .gone)) team 0 0 0 = some (0, 0) ∧ parentCorner savedTeam team = some (0, 0) ∧
    savedTeam.images.find team = some noImage13 ∧ fitsSome savedTeam (recordOf savedTeam 0) 0 0 0 0 = true ∧
    usableRect savedTeam team 0 0 0 = true ∧ noImage13.threads = [] ∧
    -- banks
    (⟨((0x3F05#64).extractLsb' 2 3).toNat, ((0x3F05#64).extractLsb' 5 3).toNat, ((0x3F05#64).extractLsb' 8 8).toNat, false⟩ : BankReq) =
      lastBank ∧ (0x3F05#64).getLsbD 0 = true ∧ bankValid lastBank = true ∧ bankValid { lastBank with bank := 64 } = false ∧
    bankRetired (creelOf base creel) lastBank = false ∧ bankRetired (creelOf retired creel) lastBank = true ∧
    bankQueued (creelOf base creel) lastBank = false ∧ creelThere base creel = true ∧ (creelOf base creel).sluice = none ∧
    (creelOf sluiceWaits creel).sluiceQ = [lastBank] ∧ mooringHolds sluiceWaits = false ∧
    traceOn base creel 8 0 0 = false ∧ misfits (sluicing lastBank 2 [] none) creel = [] ∧
    bankPinned (sluicing lastBank 3 [] none) creel lastBank = false ∧ regsMisfit (sluicing lastBank 3 [] none) creel lastBank = none ∧
    (sluiceUnits (sluicing ⟨2, 3, 2, false⟩ 3 [] none) creel ⟨2, 3, 2, false⟩).head? = some 3071 ∧
    bankPinned (sluicing ⟨4, 3, 3, false⟩ 3 [] none) creel ⟨4, 3, 3, false⟩ = false ∧
    regsMisfit (sluicing ⟨4, 3, 3, false⟩ 3 [] none) creel ⟨4, 3, 3, false⟩ = none ∧
    (creelOf (sluicing ⟨3, 3, 15, false⟩ 5 [8] (some 0)) creel).sluice = some ⟨⟨3, 3, 15, false⟩, 5, [8], some 0, []⟩ ∧
    -- walks and shootdowns
    walking.walks = [walk13] ∧ walk13.walker < 2 ^ 20 ∧ (match readEntry walking leaf13 4 0x10000 with
      | .leaf => true
      | _ => false) = true ∧
    ¬ ((tsdOf base slot0).busy = true ∨ 6 ≤ ((0x504#64).extractLsb' 8 3).toNat ∨ ((0x504#64).extractLsb' 0 3).toNat ∉ [0, 2, 3, 4]) ∧
    6 ≤ ((0x600#64).extractLsb' 8 3).toNat ∧ ((0x501#64).extractLsb' 0 3).toNat ∉ [0, 2, 3, 4] ∧
    -- frames and moves
    (rings 511).frameRings.get (0, 0) (0, 0) = (3, 511) ∧ 511 < ringSize (rings 511) 0 0 ∧ ringReach (rings 511) 0 0 (3 + 511) = true ∧ ringSize (rings 512) 0 0 ≤ 512 ∧
    frameSuits (rings 511) 0 0 0xFBFFF0000 = true ∧ frameSuits (rings 511) 0 0 0xFC0000000 = false ∧ migEn migrating 0 = true ∧
    migEn base 0 = false ∧ (homeOf migrating 0x20000) = some (.control 0 false false) ∧ migrating.frameCount.get 2 0 ≠ 0 ∧
    { base with moves := [move13] }.moves = [move13] ∧ move13.old + move13.bytes ≤ move13.new ∧ 64 * move13.line < move13.bytes ∧
    readWord (moving leaf13) move13.leafAddr = leaf13 ∧ (moving leaf13).waiters = [] ∧ readWord (moving 0) move13.leafAddr ≠ leaf13 ∧
    (moving 0).frameRings.get (0, 0) (0, 0) = (3, 511) ∧ 511 < ringSize (moving 0) 0 0 ∧
    ringReach (moving 0) 0 0 (3 + 511) = true := by
  and_intros <;> decide +kernel

/-- The thread is about to issue the first slot of a line in its core's instruction cache. -/
def issuing (w : BitVec 32) : State :=
  { withCore base fun c => { c with icache := [⟨0, 0x1000, 0, 0, none, leBytes 4 w.toNat ++ List.replicate 60 0⟩] } with
    turn := [.issue slot0] }

theorem witness_StepPerformsTheDecodedInstruction : (issuing 0x00E18281).inputs = [] ∧ (issuing 0x00E18281).hand = none ∧
    (issuing 0x00E18281).turn = .issue slot0 :: [] ∧ (issuing 0x00E18281).threads.find slot0 = some thread0 ∧ thread0.trap = none ∧
    thread0.partner = none ∧ thread0.region = none ∧ thread0.going = false ∧ thread0.delay = 0 ∧
    (issuing 0x00E18281).sampled = none ∧ (issuing 0x00E18281).late = none ∧ stepping (issuing 0x00E18281) slot0 = false ∧
    (lineFind (issuing 0x00E18281) core thread0.asid thread0.pc.toNat).isSome = true ∧
    slotIn (leBytes 4 0x00E18281 ++ List.replicate 60 0) thread0.pc.toNat = 0x00E18281 ∧ thread0.pc.getLsbD 1 = false ∧
    breakHit (issuing 0x00E18281) slot0 thread0 true = none ∧ breakHit (issuing 0) slot0 thread0 true = none ∧
    slotIn (leBytes 4 0 ++ List.replicate 60 0) thread0.pc.toNat = 0 := by
  and_intros <;> decide +kernel

theorem witness_EveryInstructionCompletes : (base.threads.find base.cur).isSome = true ∧
    ∀ slot high, Event.powerGood ≠ .illegalEncoding slot high := ⟨by decide +kernel, fun _ _ h => Event.noConfusion h⟩

theorem witness_decodes : decodeSlot 0x00E18281 false = .ok (.add 7 6 5) ∧ decodeSlot 0 false = .error .reservedOp5 := ⟨rfl, rfl⟩

theorem witness_DecodeReadsWhatEncodeWrites : encode (.add 7 6 5) = .slot 0x00E18281 ∧ encode (.cAddi 0x1F 3) = .parcel 0xF8D4 ∧
    (0x1902#16).getLsbD 0 = false := ⟨rfl, rfl, rfl⟩

/-- Memory of a form that the invariant asks for, with bytes in it. -/
theorem witness_MemoryKeepsItsForm : (moving leaf13).Inv ∧ State.reset.Inv := by
  unfold State.Inv; decide +kernel

end Sys2Proof.Tests
end

