-- ==== Sys2Proof/Tests/WitnessPower.lean ====
section
/-! SUPPORT. For each claim with premises, states and operands that meet them, clause by clause: power, boot floods and updates. -/

namespace Sys2Proof.Tests

open Sys2Proof Sys2Proof.Machine

-- one theorem after the other: each is small, and many at once would take a thread each
set_option Elab.async false

/-- The power block changed. -/
def powered (f : PowerSt → PowerSt) : State := { base with power := f base.power }

/-- In a power state, in a transition, and held by the pin and the command. -/
def inState (p : Power) : State := powered fun q => { q with state := p }
def inTrans (p : Power) (tr : Trans) (n : Nat) : State := powered fun q => { q with state := p, trans := tr, phase := n }
def twoHolders : PowerSt := { base.power with pin := true, cmd := true }

/-- Team 0 stands on creels (0, 0) and (1, 0), in IDLE or RUN. -/
def withTeam (p : Power) : State := { teamState with power := { base.power with state := p } }

theorem witness_PowerAndMooring : (inState .off).power.state = .off ∧
    -- holders: one appears, one stays, the last goes
    holders base.power = false ∧ base.power.state = .run ∧ base.power.trans ≠ .mooring ∧ base.power.ready = true ∧
    ¬ (holders twoHolders = false ∧ (twoHolders.state = .idle ∨ twoHolders.state = .run) ∧ twoHolders.trans ≠ .mooring) ∧
    holders { twoHolders with pin := false } = true ∧ holders { twoHolders with cmd := false, trip := false } = true ∧
    holders { (inState .moored).power with pin := false } = false ∧ (inState .moored).power.state = .moored ∧
    (inState .moored).power.trans = .none ∧
    (powered fun q => { q with state := .standby, again := true, cmd := true }).power.again = true ∧
    holders { (powered fun q => { q with state := .standby, again := true, cmd := true }).power with cmd := false } = false ∧
    holders { base.power with pin := false } = false ∧
    ¬ (base.power.state = .moored ∧ base.power.trans = .none) ∧ ¬ (base.power.state = .standby ∧ base.power.again = true) ∧
    -- commands barred, in a transition, and taken
    (inState .moored).power.state = .moored ∧ (inTrans .run .mooring 5).power.trans = .mooring ∧ holders twoHolders = true ∧
    (∀ p ∈ [inTrans .standby .bringup 2, inTrans .run .toIdle 5], ¬ (p.power.state = .moored ∨ p.power.trans = .mooring ∨
      p.power.trans = .resuming ∨ holders p.power = true) ∧ p.power.trans ≠ .none) ∧
    (∀ p ∈ [Power.standby, .idle, .run], ¬ ((inState p).power.state = .moored ∨ (inState p).power.trans = .mooring ∨
      (inState p).power.trans = .resuming ∨ holders (inState p).power = true) ∧ (inState p).power.trans = .none ∧
      (inState p).power.state = p ∧ ((inState p).teams.any fun k => resident k.2) = false) ∧
    ((withTeam .idle).teams.any fun k => resident k.2) = true ∧ (withTeam .idle).power.trans = .none ∧
    holders (withTeam .idle).power = false ∧
    -- power windows and limits at their boundaries
    (3960#16).toNat ≤ 8 * base.power.limit.toNat ∧ 8 * base.power.limit.toNat < (3961#16).toNat ∧
    ([125#64, 525].all fun v => decide (125 ≤ (v.extractLsb' 0 12).toNat ∧ (v.extractLsb' 0 12).toNat ≤ 525)) = true ∧
    ([124#64, 526].any fun v => decide (125 ≤ (v.extractLsb' 0 12).toNat ∧ (v.extractLsb' 0 12).toNat ≤ 525)) = false ∧
    -- the mask: outside RUN; no change; creel (1, 0) cleared under two teams
    ¬ ((inState .idle).power.state = .run ∧ (inState .idle).power.trans = .none) ∧
    maskCreels base 0 (BitVec.allOnes 64 ^^^ base.power.mask.get 0 (BitVec.allOnes 64)) = [] ∧
    maskCreels (withTeam .run) 0 ((withTeam .run).power.mask.get 0 (BitVec.allOnes 64) &&& ~~~(0xFFFFFFFFFFFFFFFD#64)) = [⟨1, 0⟩] ∧
    maskCreels (withTeam .run) 0 (0xFFFFFFFFFFFFFFFD#64 &&& ~~~(withTeam .run).power.mask.get 0 (BitVec.allOnes 64)) = [] ∧
    (teamsAt (withTeam .run) ⟨1, 0⟩).getLast? = some (team, placed 0 0 2 1) ∧
    -- ends of transitions
    (inTrans .run .mooring 5).power.entryAt + 1200000 ≤ { inTrans .run .mooring 5 with wall := 1200000 }.wall ∧
    (inTrans .run .mooring 5).wall < (inTrans .run .mooring 5).power.entryAt + 1200000 ∧
    linksTrain (inTrans .moored .resuming 5) = false ∧ linksTrain { base with edges := [(9, ⟨[], [], [33], []⟩)] } = true ∧
    meshBusy (inTrans .run .toIdle 5) = false ∧ floodsDue (inTrans .standby .bringup 4) = false ∧
    floodsDue { inTrans .standby .bringup 4 with boot := [(1, { BootSt.initial with busy := true })] } = true ∧
    moorQuiet { inTrans .run .mooring 5 with threads := [] } = true ∧
    (inTrans .moored .resuming 5).power.trans = .resuming ∧ (inTrans .moored .resuming 5).power.lost = [] ∧
    (inTrans .run .toStandby 5).power.trans = .toStandby ∧ (inTrans .run .toIdle 5).power.trans = .toIdle ∧
    messageInFlight (inTrans .run .toIdle 5) = false ∧ (inTrans .run .toIdle 5).power.stopAt ≤ (inTrans .run .toIdle 5).cyc ∧
    (inTrans .idle .toRun 5).power.trans = .toRun ∧ (inTrans .idle .toRun 5).power.stored = [] ∧ (inTrans .idle .toRun 5).idleHeld = [] ∧
    -- bring-up
    (∀ n ∈ [0, 1, 2, 3, 4, 5], (inTrans .standby .bringup n).power.trans = .bringup ∧ (inTrans .standby .bringup n).power.phase = n ∧
      holders (inTrans .standby .bringup n).power = false) ∧
    holders (powered fun q => { q with state := .standby, trans := .bringup, phase := 1, pin := true }).power = true := by
  and_intros <;> decide +kernel

/-- The boot unit of die 1 changed. -/
def bootAs (f : BootSt → BootSt) : State := { base with boot := [(1, f BootSt.initial)] }

/-- Six packets from offset 0 to 0x7A000, after a discovery answered by one creel: the most that either store takes. -/
def imaging : State := bootAs fun b => { b with ans := 1, img := 0x0007A00000060000#64 }

/-- A flood of number 7 in its window; a flit of it. -/
def flooding : State := bootAs fun b => { b with busy := true, lastf := 7 }
def flit : FloodFlit := ⟨2, 7, 1, 0, 0, 0, true, 0x7F000, [1, 2]⟩

/-- The creel has seen flood 7, and its parent is port 1. -/
def seenFlood : State := withCreel base fun c => { c with lastFlood := some 7, parent := 1 }

/-- Another copy of the flood comes through port 1 in the same cycle. -/
def earlier : State := { base with agenda := [⟨0, .event (.floodFlitArrival creel 1 flit)⟩] }

/-- The update unit in a phase, B the new image; the same in STANDBY without an image. -/
def updating (n : Nat) : State := { base with fwu := ⟨0, 1, true, n, 0⟩ }
def noImage : State := powered fun q => { q with state := .standby, code := 1 }

theorem witness_BootFloodsAndUpdates :
    (bootOf flooding 1).busy = true ∧ (0x700#64).extractLsb' 8 8 = (bootOf (bootAs fun b => { b with lastf := 7 }) 1).lastf ∧
    (bootOf imaging 1).busy = false ∧ (0x700#64).extractLsb' 8 8 ≠ (bootOf imaging 1).lastf ∧ (bootOf base 1).ans = 0 ∧
    ¬ ((bootOf imaging 1).busy = true ∨ (bootOf imaging 1).ans = 0 ∨ imgPackets (bootOf imaging 1).img = 0 ∨
      6 < imgPackets (bootOf imaging 1).img ∨ 24576 < imgSource (bootOf imaging 1).img + 4096 * imgPackets (bootOf imaging 1).img ∨
      0x80000 < imgDest (bootOf imaging 1).img + 4096 * imgPackets (bootOf imaging 1).img) ∧
    imgPackets (bootOf imaging 1).img = 6 ∧ imgDest (bootOf imaging 1).img + 4096 * 6 = 0x80000 ∧
    (creelOf seenFlood creel).lastFlood = some flit.fnum ∧ earlierCopy earlier creel 2 flit = true ∧
    (creelOf base creel).lastFlood ≠ some flit.fnum ∧ earlierCopy base creel 1 flit = false ∧ creelThere base creel = true ∧
    (bootSpread creel 1).length = 2 ∧ (creelOf seenFlood creel).parent = 1 ∧ (creelOf seenFlood creel).parent ≠ 2 ∧
    seenFlood.waiters = [] ∧ (if flit.last then some flit.fpkt else (creelOf seenFlood creel).lastPacket) = some 0 ∧
    (∀ i ≤ 0, i ∈ (creelOf seenFlood creel).packets ++ [flit.fpkt]) ∧
    (bootOf flooding 1).lastf = flit.fnum ∧ ¬ ((bootOf base 1).busy = true ∧ (bootOf base 1).lastf = flit.fnum) ∧
    floodPhase flooding = false ∧ floodPhase (powered fun q => { q with trans := .bringup, phase := 4 }) = true ∧
    (updating 0).power.state = .run ∧ (updating 0).power.saved = false ∧ (∀ n ∈ [0, 1, 2, 3, 4], (updating n).fwu.phase = n) ∧
    (∀ d ∈ (updating 2).agenda, ∀ t, d.act ≠ .event (.dispatchEnterRotation t)) ∧
    (⟨lengthsman 0 0, 8⟩ : ThreadId).core.isLengthsman = true ∧ (8 ≤ 8 ↔ (updating 4).fwu.tgt = true) ∧
    60000000 ≤ (updating 4).fwu.t0.toNat + 60000000 ∧
    -- writes of the image slots
    base.power.state ≠ .moored ∧ (1#8).toNat ≤ 1 ∧ [1#8] ≠ [] ∧ 8388607 + [1#8].length ≤ 8388608 ∧ (List.replicate 4032 0#8).length ≤ 4032 ∧
    decide (1#8 = 1) ≠ base.nv.activeB ∧ decide (0#8 = 1) = base.nv.activeB ∧ ¬ (base.power.state = .standby ∧ base.power.code = 1) ∧
    (noImage.power.state = .standby ∧ noImage.power.code = 1) := by
  and_intros <;> first | decide +kernel | (intro d h; cases h)

end Sys2Proof.Tests
end

