-- ==== Sys2Proof/Tests/WitnessScalar.lean ====
section
/-! SUPPORT. For each claim with premises, states and operands that meet them, clause by clause: scalar instructions, numbers,
packed lanes. -/

namespace Sys2Proof.Tests

open Sys2Proof Sys2Proof.Machine

-- one theorem after the other: each is small, and many at once would take a thread each
set_option Elab.async false

/-- A state with values at the edges: 0, -1, the most negative word, the most positive one. -/
def edges : State :=
  withRegs base [(1, 0), (2, 0xFFFFFFFFFFFFFFFF), (3, 0x8000000000000000), (4, 0x7FFFFFFFFFFFFFFF), (5, 64), (6, 1), (7, 0x1002),
    (8, 0x200000000000000)]

/-- Every register named, g0 and the last register among them, and an instruction of a thread whose beat is going. -/
theorem witness_issues : Issues edges [3, 5] [127] ∧ Issues edges [0, 127] [0] ∧ Issues edges [1, 2, 127] [127] ∧
    edges.g 127 = 0 ∧ Issues edges [1, 2, 2] [2] ∧ edges.g 2 ≠ 0 ∧ Issues edges [] [127] ∧ Issues edges [] [] ∧
    Issues (going edges) [3, 5] [127] ∧ (going edges).th.going = true ∧ edges.th.going = false := by
  unfold Issues; decide

theorem witness_MajorZeroResults : Issues edges [3, 5] [127] ∧ Issues edges [0, 127] [0] ∧ Issues edges [1, 2, 2] [2] ∧ edges.g 2 ≠ 0 ∧
    Issues edges [1, 2, 127] [127] ∧ edges.g 127 = 0 := by
  unfold Issues; decide

theorem witness_MajorOneResults : Issues edges [3, 5] [127] ∧ Issues (going edges) [3, 5] [127] ∧ (going edges).th.going = true ∧
    edges.th.going = false := by
  unfold Issues; decide

theorem witness_ImmediateResults : Issues edges [127] [0] ∧ Issues edges [] [127] ∧ Issues edges [3] [3] := by
  unfold Issues; decide

theorem witness_BitInstructionResults : Issues edges [3, 5] [127] ∧ (63#7).toNat < 64 ∧ (32#6).toNat + (31#5).toNat + 1 ≤ 64 ∧
    (63#6).toNat + (0#5).toNat + 1 ≤ 64 ∧ Issues edges [3, 127] [127] ∧ 64 < (63#6).toNat + (1#5).toNat + 1 := by
  unfold Issues; decide

theorem witness_CompactArithmetic : Issues edges [r5 31, r5 1] [r5 1] ∧ Issues edges [r5 31] [r5 31] ∧ Issues edges [r5 0] [r5 0] := by
  unfold Issues; decide

/-- A branch taken and one not taken, of every test. -/
theorem witness_BranchesGoWhereTheySay : Issues edges [1] [] ∧ Issues edges [3] [] ∧
    (branches edges 1 0xFFFF).map (fun p => p.2) = [true, false, false, true] ∧
    (branches edges 3 0x8000).map (fun p => p.2) = [false, true, true, false] ∧
    Issues edges [r5 1] [] ∧ edges.g (r5 1) = 0 ∧ Issues edges [r5 2] [] ∧ edges.g (r5 2) ≠ 0 ∧ Issues edges [] [] ∧
    Issues edges [r5 7] [0] := by
  unfold Issues; decide

/-- JALR to a slot, to the last address in range, to one inside a slot, and past the range. -/
theorem witness_JumpsLinkAndGo : Issues edges [5] [127] ∧
    (BitVec.ofInt 64 ((edges.g 5).toInt + 4 * (1023#11).toInt) : Word).toNat % 4 = 0 ∧
    (BitVec.ofInt 64 ((edges.g 8).toInt + 4 * (0x7FF#11).toInt) : Word).toNat = 2 ^ 57 - 4 ∧ Issues edges [8] [127] ∧
    (BitVec.ofInt 64 ((edges.g 7).toInt + 4 * (0#11).toInt) : Word).toNat % 4 = 2 ∧ Issues edges [7] [127] ∧
    (BitVec.ofInt 64 ((edges.g 8).toInt + 4 * (0#11).toInt) : Word).toNat = 2 ^ 57 ∧
    Issues edges [] [127] ∧ Handled edges := by
  unfold Issues Handled; decide

theorem witness_LoopCountsDown : Issues edges [1] [1] ∧ (BitVec.ofInt 64 ((edges.g 1).toInt - 1) : Word) ≠ 0 ∧
    Issues edges [6] [6] ∧ (BitVec.ofInt 64 ((edges.g 6).toInt - 1) : Word) = 0 ∧ Issues edges [0] [0] ∧ (1#2) ≠ 0 ∧
    { edges with word := 0xFFFD#16 ++ 1#2 ++ 7#7 ++ 42#6 ++ 1#1 }.word = 0xFFFD43D5 ∧ edges.high = false := by
  unfold Issues; decide

/-- RoundOdd of a value that its format holds, and of one that it does not. -/
theorem witness_FormatsAndRoundOdd : 2 ≤ Fmt.w32.p ∧
    (roundOdd .w32 (.fin false 3 (-1)) false).1.x = .fin false 12582912 (-23) ∧
    (roundOdd .w32 (.fin false 3 (-1)) false).1.s = false ∧
    (roundOdd .w32 (.fin true (2 ^ 25 + 1) 0) false).1.x = .fin true 8388609 2 ∧
    (roundOdd .w32 (.fin true (2 ^ 25 + 1) 0) false).1.s = true := by
  decide +kernel

/-- The held values 1.0 and, with S set, 2.0. -/
def floatsState : State := withSticky (withRegs base [(1, 0x3F800000)]) 2 0x40000000

theorem witness_FloatResults : Issues floatsState [1, 2] [3] ∧ floatsState.th.going = false ∧ (going floatsState).th.going = true ∧
    Issues (going floatsState) [1, 2] [3] ∧ Issues floatsState [1, 2, 3] [3] := by
  unfold Issues; decide

/-- Selectors: the built-in ones of reset, and FMT with an 8-bit selector that names no format. -/
theorem witness_ConversionResults : Issues floatsState [1] [3] ∧ ((6#3 ≠ 7) ∧ (5#3 ≠ 7) ∧ (0#1 = 1 → 6#3 = 1) ∧ (1#1 = 1 → 1#3 = 1)) ∧
    (4 ≤ (4#3).toNat ∧ 4 ≤ (6#3).toNat) ∧ (1#1 = 1 ∧ 0#3 ≠ 1) ∧ 6#3 ≠ 7 ∧
    selectorOk (fmtSelector base.th.fmt 8) 8 = true ∧ selectorOk (fmtSelector base.th.fmt 4) 4 = true ∧
    (∃ f : Word, selectorOk (fmtSelector f 8) 8 = false) ∧ ∃ f : Word, selectorOk (fmtSelector f 4) 4 = false := by
  refine ⟨by unfold Issues; decide, by decide, by decide, by decide, by decide, by decide, by decide, ⟨0xFFFFFFFFFFFFFFFF, by decide⟩,
    0xFFFFFFFFFFFFFFFF, by decide⟩

theorem witness_PackedResults : Issues floatsState [1, 2, 127] [127] ∧ Issues floatsState [1] [127] := by
  unfold Issues; decide

/-- The last group in range and the first beyond it, for one target wider than its source and one narrower. -/
theorem witness_PackedConversions : LaneType.bf16.count = 4 ∧ LaneType.w32.count = 2 ∧
    (if LaneType.w32.count ≤ LaneType.bf16.count then (0#2 : BitVec 2) = 0 else True) ∧
    (if LaneType.i8.count ≤ LaneType.w32.count then False else (3#2).toNat < LaneType.i8.count / LaneType.w32.count) ∧
    ¬ (if LaneType.bf16.count ≤ LaneType.w32.count then False else (2#2).toNat < LaneType.bf16.count / LaneType.w32.count) := by
  decide

end Sys2Proof.Tests
end

