-- ==== Sys2Proof/Tests/WitnessSends.lean ====
section
/-! SUPPORT. For each claim with premises, states and operands that meet them, clause by clause: channels and endpoints. -/

namespace Sys2Proof.Tests

open Sys2Proof Sys2Proof.Machine

-- one theorem after the other: each is small, and many at once would take a thread each
set_option Elab.async false

/-- g1 describes the last 40 bytes of the local store, g2 its last 41, g3 its last 80, g4 the tile in z7, g5 endpoint 62. -/
def sendState (st : Nat) : State :=
  withZ (withRegs (channelState base st) [(1, 0x28000000085FD8), (2, 0x29000000085FD0), (3, 0x50000000085FB0), (4, 0x70000000000),
    (5, 62)]) 7 (stream 2)

/-- Endpoint 62, open, to be delegated. -/
def delegState : State := withEp (sendState 9) 62 (openEp 0)

theorem witness_ChannelSends : Issues (sendState 0) [1] [1] ∧ MaySend (sendState 0) 63 1 0x21 (flitsOf (dsLen ((sendState 0).g 1))) ∧
    flitsOf (dsLen ((sendState 0).g 1)) = 1 ∧ areaPa (sendState 0) ((sendState 0).g 1) false = .ok (local0 + 0x5FD8) ∧
    poisoned (sendState 0) (local0 + 0x5FD8) 40 = false ∧
    -- two flits, and inline code
    MaySend (sendState 0) 63 1 0x21 (flitsOf (dsLen ((sendState 0).g 2))) ∧ flitsOf (dsLen ((sendState 0).g 2)) ≠ 1 ∧
    areaPa (sendState 0) ((sendState 0).g 2) false = .ok (local0 + 0x5FD0) ∧ poisoned (sendState 0) (local0 + 0x5FD0) 41 = false ∧
    (sendState 0).th.going = false ∧ (going (sendState 0)).th.going = true ∧ Issues (going (sendState 0)) [2] [2] ∧
    MaySend (sendState 11) 63 1 0xF7 (flitsOf (dsLen ((sendState 11).g 3))) ∧ dsLen ((sendState 11).g 3) = 24 + 8 * (0xF7 - 0xF0) ∧
    -- SELECT, plain and of a tile
    MaySend (sendState 3) 63 4 0x21 (flitsOf (dsLen ((sendState 3).g 1))) ∧ recShaped (epRec (sendState 3) core 63) = false ∧
    areaPa (sendState 3) ((sendState 3).g 1) false = .ok (local0 + 0x5FD8) ∧
    MaySend (sendState 5) 63 1 0x21 (flitsOf (tileBytes (entryOf (sendState 5) core 63))) ∧
    flitsOf (tileBytes (entryOf (sendState 5) core 63)) = 1 ∧ recShaped (epRec (sendState 5) core 63) = true ∧
    streamFits ((sendState 5).z (dsZ ((sendState 5).g 4))) (entryOf (sendState 5) core 63) = true ∧
    (tilePayload (sendState 5) ((sendState 5).z (dsZ ((sendState 5).g 4))) (fieldAt (entryOf (sendState 5) core 63) 3 1)).isOk = true ∧
    MaySend (sendState 8) 63 4 0x21 (flitsOf (tileBytes (entryOf (sendState 8) core 63))) ∧
    recShaped (epRec (sendState 8) core 63) = true ∧
    -- DELEG
    Issues delegState [5] [5] ∧ MaySend delegState 63 1 0xF8 1 ∧ recDel (epRec delegState core 63) = true ∧ delegState.again = false ∧
    (delegState.g 5).toNat % 64 = 62 ∧ (epOf delegState core 62).est = .opened ∧ (epOf delegState core 62).slot = delegState.cur.slot ∧
    (epOf delegState core 62).mark = false ∧
    (epOf delegState core 62).hown = BitVec.ofNat 64 (fieldAt (entryOf delegState core 63) 8 8) := by
  unfold Issues; and_intros <;> first
    | decide +kernel
    | (constructor <;> first | decide +kernel | (unfold NotHeld; decide +kernel))

/-- A message of five bytes, of the longest payload of one flit, and of a delegation, at endpoint 63. -/
def recvState (st : Nat) (ty : Byte) (n : Nat) : State := withMessage (sendState st) (message ty (List.replicate n 3))

/-- g6 describes an area as long as nine flits, g7 the same with T and z7. -/
def recvArea (st : Nat) (ty : Byte) (n : Nat) : State :=
  withRegs (recvState st ty n) [(6, 0x228000000082000), (7, 0x228870000082000), (8, 0x28870000082000)]

/-- Endpoint 62 bound, to take the delegation. -/
def delegin : State :=
  withEp (withMessage (sendState 10) (message 0xF8 (List.replicate 40 1))) 62
    { openEp 0 with est := .bound, held := false, bufn := 0, lin := 1, maxin := 1 }

theorem witness_ChannelReceives : Issues (recvArea 1 0x22 5) [6] [6] ∧ MayReceive (recvArea 1 0x22 5) 63 2 ∧
    ((recBranches (epRec (recvArea 1 0x22 5) core 63)).any fun b => decide (b.1 = 0x22)) = true ∧
    flitPayload (recMaxfl (epRec (recvArea 1 0x22 5) core 63)) ≤ dsLen ((recvArea 1 0x22 5).g 6) ∧
    areaPa (recvArea 1 0x22 5) ((recvArea 1 0x22 5).g 6) true = .ok (local0 + 0x2000) ∧
    partialPoison (recvArea 1 0x22 5) (local0 + 0x2000) 8 8 = false ∧ NoWaiter (recvArea 1 0x22 5) (local0 + 0x2000) 8 ∧
    (nextMsg (recvArea 1 0x22 5) core 63).nflit ≤ 1 ∧ (recvArea 1 0x22 41).th.going = false ∧
    1 < (nextMsg (recvArea 1 0x22 41) core 63).nflit ∧ MayReceive (recvArea 1 0x22 41) 63 2 ∧
    MayReceive (going (recvArea 1 0x22 41)) 63 2 ∧ (going (recvArea 1 0x22 41)).th.going = true ∧
    -- OFFER, without T, and with T at a shaped state whose message is no tile
    MayReceive (recvArea 2 0x22 5) 63 3 ∧ dsT ((recvArea 2 0x22 5).g 6) = false ∧
    MayReceive (recvArea 7 0x22 5) 63 3 ∧ dsT ((recvArea 7 0x22 5).g 8) = true ∧ recShaped (epRec (recvArea 7 0x22 5) core 63) = true ∧
    flitPayload (recMaxfl (epRec (recvArea 7 0x22 5) core 63)) ≤ dsLen ((recvArea 7 0x22 5).g 8) ∧
    streamFits ((recvArea 7 0x22 5).z (dsZ ((recvArea 7 0x22 5).g 8))) (entryOf (recvArea 7 0x22 5) core 63) = true ∧
    (nextMsg (recvArea 7 0x22 5) core 63).plen ≠ tileBytes (entryOf (recvArea 7 0x22 5) core 63) ∧
    -- a tile
    MayReceive (recvArea 6 0x22 8) 63 2 ∧ recShaped (epRec (recvArea 6 0x22 8) core 63) = true ∧ (recvArea 6 0x22 8).waiters = [] ∧
    streamFits ((recvArea 6 0x22 8).z (dsZ ((recvArea 6 0x22 8).g 8))) (entryOf (recvArea 6 0x22 8) core 63) = true ∧
    (tileWrite (recvArea 6 0x22 8) ((recvArea 6 0x22 8).z (dsZ ((recvArea 6 0x22 8).g 8)))
      ((nextMsg (recvArea 6 0x22 8) core 63).lfmt.toNat % 16) (nextMsg (recvArea 6 0x22 8) core 63).payload).isOk = true ∧
    MayReceive (recvArea 7 0x22 8) 63 3 ∧ (nextMsg (recvArea 7 0x22 8) core 63).plen = tileBytes (entryOf (recvArea 7 0x22 8) core 63) ∧
    areaPa (recvArea 7 0x22 8) ((recvArea 7 0x22 8).g 8) true = .ok (local0 + 0x2000) ∧
    -- a delegation
    Issues delegin [5] [5] ∧ MayReceive delegin 63 2 ∧ recDel (epRec delegin core 63) = true ∧ (nextMsg delegin core 63).nflit ≤ 1 ∧
    (epOf delegin core 62).est = .bound ∧ (epOf delegin core 62).slot = delegin.cur.slot ∧
    (epOf delegin core 62).hown = BitVec.ofNat 64 (fieldAt (entryOf delegin core 63) 8 8) ∧
    (reserve (consume delegin core 63 (nextMsg delegin core 63)) core 62).isSome = true := by
  unfold Issues NoWaiter; and_intros <;> first
    | decide +kernel
    | (constructor <;> first | decide +kernel | (unfold NotHeld; decide +kernel))

end Sys2Proof.Tests
end

