-- ==== Sys2Proof/Tests/WitnessStreams.lean ====
section
/-! SUPPORT. For each claim with premises, states and operands that meet them, clause by clause: streams and vectors. -/

namespace Sys2Proof.Tests

open Sys2Proof Sys2Proof.Machine

-- one theorem after the other: each is small, and many at once would take a thread each
set_option Elab.async false

/-- A shape record: W32, rank 1, two elements. -/
def shapeRecord (l : List (Nat × Nat)) : List Byte := bytes 64 (l ++ [(0, 1), (1, 1), (4, 2), (6, 1), (8, 1), (10, 1), (0xC, 1)])

/-- The record at offset 0x40 of the local store, its descriptor at 0x80, g1 the local store, g2 the record's offset, g3 inside an
element, g4 endpoint 63, g5 endpoint 62. -/
def bindState (l : List (Nat × Nat)) : State :=
  withBytes (withBytes (withRegs (withEp base 63 (openEp 0)) [(1, va0), (2, 0x80040), (3, va0 + 2), (4, 63), (5, 62), (6, 8)])
    0x40 (shapeRecord l)) 0x80 (bytes 32 [(0, 2), (4, 1), (8, 1), (12, 1), (0x11, 1), (0x12, 1)])

theorem witness_StreamsBind : (bindState []).th.rep.running = false ∧ Issues (bindState []) [1, 2] [] ∧
    OwnOperand (bindState []) (((bindState []).g 2).toNat % 2 ^ 20) 64 64 (local0 + 0x40) ∧
    shapeOk (shapeOf (readBytes (bindState []) (local0 + 0x40) 64)) = true ∧
    (shapeOf (readBytes (bindState []) (local0 + 0x40) 64)).distv = false ∧
    ((bindState []).g 1).toNat % 4 = 0 ∧ (windowPa (bindState []) slot0 ((bindState []).g 1).toNat 4).isOk = true ∧
    ((bindState []).g 3).toNat % 4 ≠ 0 ∧ Issues (bindState []) [3, 2] [] ∧
    -- with a descriptor
    shapeOk (shapeOf (readBytes (bindState [(2, 2), (0x3C, 0x80), (0x3E, 8)]) (local0 + 0x40) 64)) = true ∧
    (shapeOf (readBytes (bindState [(2, 2), (0x3C, 0x80), (0x3E, 8)]) (local0 + 0x40) 64)).distv = true ∧
    (shapeOf (readBytes (bindState [(2, 2), (0x3C, 0x80), (0x3E, 8)]) (local0 + 0x40) 64)).distoff = 0x80080 ∧
    watchHit (bindState [(2, 2), (0x3C, 0x80), (0x3E, 8)]) slot0 (bindState []).th (selfBase + 0x80080) 32 true false = none ∧
    windowPa (bindState [(2, 2), (0x3C, 0x80), (0x3E, 8)]) slot0 (selfBase + 0x80080) 32 = .ok (local0 + 0x80) ∧
    poisoned (bindState [(2, 2), (0x3C, 0x80), (0x3E, 8)]) (local0 + 0x80) 32 = false ∧
    distOk (readBytes (bindState [(2, 2), (0x3C, 0x80), (0x3E, 8)]) (local0 + 0x80) 32) 1 = true ∧
    -- ZBINDC
    (shapeOf (readBytes (bindState []) (local0 + 0x40) 64)).flags = 0 ∧ (shapeOf (readBytes (bindState []) (local0 + 0x40) 64)).tagx = 0 ∧
    (shapeOf (readBytes (bindState []) (local0 + 0x40) 64)).et ≠ 15 ∧ (epOf (bindState []) core 63).est ≠ .free ∧
    (epOf (bindState []) core 63).slot = slot0.slot ∧ (epOf (bindState []) core 62).est = .free ∧
    shapeOk (shapeOf (readBytes (bindState [(0, 0)]) (local0 + 0x40) 64)) = false ∧
    shapeOk (shapeOf (readBytes (bindState [(0, 15)]) (local0 + 0x40) 64)) = true ∧
    (shapeOf (readBytes (bindState [(0, 15)]) (local0 + 0x40) 64)).et = 15 ∧ Issues (bindState []) [] [127] := by
  unfold Issues OwnOperand; and_intros <;> first | decide +kernel | rfl

/-- A stream of 2 by 2 nibbles whose last element is at the top of the local store, clamped at the second column. -/
def nibbles (flags chi : Nat) : ZReg :=
  ⟨1, 0, 0, false, 0, 0x1FFFFFFFFF85FFE, 0, ⟨7, 2, flags, 1, [2, 2, 1, 1], [1, 2, 0, 0], 0, [0, 0, 0, 0], [0, 0, 0, 0],
    [chi, 1, 0, 0], 0x80000, 0⟩, []⟩

theorem witness_StreamElementPlaces : (nibbles 0 1).shape.ext.length = 4 ∧ (nibbles 0 1).shape.idim < 4 ∧
    (nibbles 0 1).shape.distv = false ∧ (nibbles 0 1).shape.clampv = false ∧ (nibbles 0 1).shape.idxv = false ∧
    watchHit base slot0 (threadOf base slot0) 0x1FFFFFFFFF85FFF 1 true false = none ∧
    windowPa base slot0 0x1FFFFFFFFF85FFF 1 = .ok (local0 + 0x5FFF) ∧
    -- clamped, a write outside; the index tensor
    (nibbles 4 0).shape.clampv = true ∧ ¬ ((1 : Int) ≤ (nibbles 4 0).shape.chi.getD 0 0) ∧ (nibbles 1 1).shape.idxv = true ∧
    watchHit base slot0 (threadOf base slot0) (selfBase + 0x80000 + 4 * 1) 4 true false = none ∧
    windowPa base slot0 (selfBase + 0x80000 + 4 * 1) 4 = .ok (local0 + 4) ∧ poisoned base (local0 + 4) 4 = false ∧
    -- outside the global extents
    globalCoords base slot0 { nibbles 2 1 with dist := [⟨1, 0, 0, 1, 1⟩, ⟨2, 0, 0, 1, 1⟩, ⟨1, 0, 0, 1, 1⟩, ⟨1, 0, 0, 1, 1⟩] }
      [1, 0, 0, 0] = none := by
  and_intros <;> first | decide +kernel | rfl

/-- The premises of VectorElements for a rule, but for those on the thread: its operands are bound, its beat's elements are
read, its places found and free of errors, and it is served in this slot. -/
def ready (s : State) (p : VRule) : Bool :=
  let s1 := openWalk s
  let z := s.z p.op.d
  let n := min (beatElems p.op.et z.shape.et) (z.shape.total - z.zpos)
  p.ok && vOk s p.op p.classes && decide ((s.z p.op.d).zm = 1) && (p.op.srcs.all fun x => decide ((s.z x.reg).zm = 1)) &&
    !s.th.rep.running && !s.buffered && s.waiters.isEmpty && (tagChecks s1 (p.op.srcs.map VSrc.reg)).isOk &&
    match readCols s1 z.zpos n p.op.srcs [] with
    | .ok (cols, gs, runs) => (match destPlaces s1 p.op n cols with
      | .ok places => (putsPoison s1 z.shape.et places).isNone &&
          (decide (beatCost s1 (runs ++ vRuns s1 z true places) (gs ++ places) = 0) || decide (s.th.delay ≠ 0))
      | .error _ => false)
    | .error _ => false

/-- Streams of W32, of signed bytes, of words to index by, and of codebook elements with their scales. -/
def floatStreams : State := withStreams base [1, 1, 1, 1, 1, 1, 1, 1]
def intStreams : State := withStreams base [8, 8, 8, 8, 8, 8, 8, 8]
def indexStreams : State :=
  withThread base fun th => { th with z := ([1, 9, 1, 1, 1, 1, 1, 1].zip (List.range 8)).map fun p => streamOf (64 * p.2) 1 p.1 }
def boolStreams : State := withStreams base [1, 1, 1, 8, 1, 1, 1, 1]
def scaleStreams : State := withStreams base [1, 15, 1, 10, 1, 1, 1, 1]

/-- Walks of 20 elements, of which a beat of W32 takes 16, 17 words apart; and all at one place, whose port serves one run a slot. -/
def longStreams : State := withThread base fun th => { th with z := (List.range 8).map fun k => streamOf (136 * k) 20 1 }
def meetingStreams : State := withThread base fun th => { th with z := List.replicate 8 (streamOf 0 20 1) }

theorem witness_VectorElements : Issues floatStreams [] [] ∧ Issues intStreams [] [] ∧
    ((vectorArith floatStreams 1 0 2 1 0 3).map (ready floatStreams)) = List.replicate 12 true ∧
    (((vectorArith intStreams 0 5 2 1 0 3).take 11).map (ready intStreams)) = List.replicate 11 true ∧
    ((vectorSpecial 3 0 0 3).map (ready floatStreams)) = List.replicate 7 true ∧
    (((vectorLogic boolStreams 0 5 2 1 0 3).take 6).map (ready boolStreams)) = List.replicate 6 true ∧
    ((vectorLogic intStreams 0 5 2 1 0 3).map (ready intStreams)) = List.replicate 12 true ∧
    ((vectorMoves indexStreams 0 0 1 0 3).map (ready indexStreams)) = [true, true, true, true, false] ∧
    (((vectorConvert 0 6 2 1 0 3).drop 1).take 1).map (ready scaleStreams) = [true] ∧
    (((vectorConvert 0 0 2 1 3 0).drop 2).map (ready scaleStreams)) = [true] ∧
    (((vectorConvert 0 0 2 1 0 3).take 1).map (ready floatStreams)) = [true] ∧
    ((vectorArith longStreams 1 0 2 1 0 3).map (ready longStreams)) = List.replicate 12 true ∧
    ((vectorArith meetingStreams 1 0 2 1 0 3).map (ready meetingStreams)).getD 0 true = false := by
  unfold Issues; and_intros <;> decide +kernel

end Sys2Proof.Tests
end

