-- ==== Sys2Proof/Tests/WitnessTasks.lean ====
section
/-! SUPPORT. For each claim with premises, states and operands that meet them, clause by clause: tasks, engines, static regions and
the repetition buffer. -/

namespace Sys2Proof.Tests

open Sys2Proof Sys2Proof.Machine

-- one theorem after the other: each is small, and many at once would take a thread each
set_option Elab.async false

/-- The thread of team 0, g1 naming a packet at the last 64 bytes of the local store. -/
def enqState (level num : Nat) : State := withBytes (withRegs teamState [(1, 0x85FC0)]) 0x5FC0 (packet level num)

/-- The first beat of a packet of two units, and the second. -/
def enqLong (n : Nat) : State :=
  withBytes (withThread (withRegs teamState [(1, 0x85F80)]) fun th =>
    { th with gathered := (List.range n).map fun i => (i, (packet 0 0).set 1 2) }) 0x5F80 ((packet 0 0).set 1 2 ++ packet 0 0)

/-- The rings of creel (0, 0) full. -/
def fullRing (s : State) : State := withCreel s fun c => { c with rings := [(1, (32, 0))] }

theorem witness_TaskInstructions : Issues teamState [1] [] ∧ teamState.th.key = some team ∧
    teamState.teams.find team = some (placed 0 0 2 1) ∧ teamState.free? = true ∧ teamState.th.posted = [] ∧
    engineBusy teamState teamState.cur = false ∧ ownedEps teamState teamState.cur = [] ∧ teamState.th.partner = none ∧
    Issues (enqState 0 0) [1] [127] ∧ (enqState 0 0).free? = true ∧ (enqState 0 0).th.answer = none ∧
    OwnOperand (enqState 0 0) 0x85FC0 64 64 (local0 + 0x5FC0) ∧ poisoned (enqState 0 0) (local0 + 0x5FC0) 64 = false ∧
    InSlot (enqState 0 0) (local0 + 0x5FC0) 64 false ∧ InSlot (enqLong 1) (local0 + 0x5F80 + 64) 64 false ∧
    (enqState 0 0).th.posted = [] ∧ (enqState 0 0).th.gathered.length = 0 ∧
    -- malformed: LEVEL is LEVELS; refused; own; of a child whose head is another creel
    packetOk (packet 2 0) (threadLevels (enqState 2 0) (enqState 2 0).th) = false ∧
    packetOk (packet 1 0) (threadLevels (enqState 1 0) (enqState 1 0).th) = true ∧
    enqTarget (enqState 0 1) (enqState 0 1).th (packet 0 1) = .refused ∧
    enqTarget (enqState 0 0) (enqState 0 0).th (packet 0 0) = .own ∧ (enqState 0 0).th.key = some team ∧
    ringRoom (enqState 0 0) creel 1 1 = some 0 ∧ ringWaits (enqState 0 0) creel 1 1 = false ∧ ringRoom (fullRing (enqState 0 0)) creel 1 1 = none ∧
    enqTarget (enqState 1 1) (enqState 1 1).th (packet 1 1) = .child child ∧ openHead (enqState 1 1) child = some ⟨1, 0⟩ ∧
    (⟨1, 0⟩ : CreelId) ≠ (enqState 1 1).cur.core.creel ∧
    -- two units: the beat that reads the first, and the one that reads the last
    OwnOperand (enqLong 0) 0x85F80 (64 * 2) 64 (local0 + 0x5F80) ∧ (enqLong 0).th.gathered.length + 1 < 2 ∧
    2 ≤ (enqLong 1).th.gathered.length + 1 ∧ poisoned (enqLong 1) (local0 + 0x5F80 + 64) 64 = false ∧
    OwnOperand (enqLong 1) 0x85F80 64 64 (local0 + 0x5F80) ∧
    -- the answer of another creel
    openHead teamState child = some ⟨1, 0⟩ ∧ ringRoom teamState ⟨1, 0⟩ 1 1 = some 0 ∧ ringWaits teamState ⟨1, 0⟩ 1 1 = false ∧
    (threadOf (withThread teamState fun th => { th with wait := .redo .answer }) slot0).wait = .redo .answer ∧
    (withThread teamState fun th => { th with answer := some 2 }).th.answer = some 2 := by
  unfold Issues OwnOperand; and_intros <;> decide +kernel

/-- A copy of four bytes, one element: kind 1 of engine 0. -/
def copyCommand : List Byte := bytes 64 [(0, 1), (1, 0x5A), (2, 4), (0x20, 1), (0x22, 1)]

/-- Its command in the FIFO of an engine, in work, and sixteen of them. -/
def command (bs : List Byte) : Command := ⟨7, core, 0, bs, 0, 0, true, none, none⟩
def fifoState (bs : List Byte) (eng : Nat) : State := withCreel base fun c => { c with engines := [(eng, ⟨[command bs], [], [], []⟩)] }
def workState (bs : List Byte) (eng : Nat) : State := withCreel base fun c => { c with engines := [(eng, ⟨[], [command bs], [], []⟩)] }
def fullFifo : State :=
  withRegs (withCreel base fun c => { c with engines := [(2, ⟨List.replicate 16 (command copyCommand), [], [], []⟩)] })
    [(1, 0x80000), (2, 2)]

/-- Mailbox 14 holds a barge request of slot 0 for the command at the start of the local store. -/
def bargeState : State := withCore base fun c => { c with mbox := [(14, ⟨0x5A00000000080000, true, 0⟩)] }

theorem witness_EngineInstructions : Issues (withRegs base [(1, 0x80000), (2, 2)]) [1, 2] [] ∧
    (withRegs base [(1, 0x80000), (2, 2)]).free? = true ∧ OwnOperand (withRegs base [(1, 0x80000), (2, 2)]) 0x80000 64 64 local0 ∧
    (withRegs base [(1, 0x80000), (2, 2)]).th.posted = [] ∧ ((withRegs base [(1, 0x80000), (2, 2)]).g 2).toNat % 4 = 2 ∧
    engineRoom (withRegs base [(1, 0x80000), (2, 2)]) slot0 2 = true ∧ engineRoom fullFifo slot0 2 = false ∧ (fullFifo.g 2).toNat % 4 = 2 ∧
    OwnOperand fullFifo 0x80000 64 64 local0 ∧ ((withRegs base [(2, 7)]).g 2).toNat % 4 = 3 ∧
    -- results: the slot's own, none and nothing outstanding, none and one outstanding
    Issues (withRegs base [(1, 1)]) [1] [127] ∧ NotHeld base true false ∧
    (((engineOf (withCreel base fun c => { c with engines := [(0, ⟨[], [], [⟨core, 1, 5⟩, ⟨core, 0, 6⟩], []⟩)] }) creel 0).results).find?
      fun r => decide (r.core = core ∧ r.slot = 0)) = some ⟨core, 0, 6⟩ ∧
    outstanding base slot0 1 false = 0 ∧ outstanding (fifoState copyCommand 0) slot0 0 false ≠ 0 ∧
    -- a command taken into work, one refused and one performed
    enginesFrozen (fifoState copyCommand 0) creel = false ∧ fencedAt (fifoState copyCommand 0) creel = false ∧
    ((engineOf (fifoState copyCommand 0) creel 0).fifo.find? fun c => decide (c.id = 7)) = some (command copyCommand) ∧
    ((engineOf (workState copyCommand 0) creel 0).fifo.find? fun c => decide (c.id = 7)) = none ∧
    ((engineOf (workState copyCommand 0) creel 0).work.find? fun c => decide (c.id = 7)) = some (command copyCommand) ∧
    (command copyCommand).barge = none ∧ cmdOk 1 copyCommand = false ∧ cmdOk 0 copyCommand = true ∧ cmKind copyCommand ≤ 5 ∧
    -- the barge slot
    nextServed bargeState core = some 14 ∧ haltedNow bargeState core = false ∧ clocked bargeState core = true ∧
    engineRoom bargeState ⟨core, (mboxOf bargeState core 14).filler⟩ 0 = true ∧
    (bargeState.threads.find ⟨core, (mboxOf bargeState core 14).filler⟩).isSome = true ∧
    ((mboxOf bargeState core 14).value.extractLsb' 20 36).toNat = 0 ∧ (mboxOf bargeState core 14).value.toNat % 2 ^ 20 % 64 = 0 ∧
    selfPa bargeState core ((mboxOf bargeState core 14).value.toNat % 2 ^ 20) 64 = some local0 ∧
    poisoned bargeState local0 64 = false := by
  unfold Issues OwnOperand NotHeld; and_intros <;> decide +kernel

/-- A region record of n lines over `banks` banks at the start of the local store, and line 0x1000 in the instruction cache. -/
def regionState (n banks : Nat) : State :=
  withCore (withWord (withRegs base [(1, 0x80000)]) 0 (BitVec.ofNat 64 (n * 65536 + banks))) fun c =>
    { c with icache := [⟨0, 0x1000, 0, 0, none, List.replicate 64 0⟩] }

/-- A thread of another slot inside its region. -/
def twoRegions : State :=
  { regionState 1 3 with threads := (regionState 1 3).threads.put ⟨core, 1⟩ { thread0 with base := 128, status := 0x90000 } }

/-- A thread inside a region; a buffer of one VADD, loaded and running. -/
def inRegion : State := withThread base fun th => { th with status := 0x90000, region := some ⟨0x1000, 1, 3, false⟩ }
def vaddWord : BitVec 32 := 0x10002169
def loaded (running : Bool) : State :=
  withThread (withRegs base [(1, 1), (2, 0)]) fun th => { th with rep := { RepBuf.empty with body := [vaddWord], running := running } }
def repSource (w : BitVec 32) : State := withBytes (withRegs base [(1, 0x80000), (2, 8)]) 0 ((List.replicate 8 (leBytes 4 w.toNat)).flatten)

theorem witness_RegionsAndRepetition : Issues (regionState 1 3) [1] [] ∧ (regionState 1 3).free? = true ∧ (regionState 1 3).again = false ∧
    OwnOperand (regionState 1 3) 0x80000 8 8 local0 ∧
    ((readWord (regionState 1 3) local0).extractLsb' 16 16).toNat = 1 ∧ ((readWord (regionState 1 3) local0).extractLsb' 0 2).toNat = 3 ∧
    bankCount (regionState 1 3) core = 3 ∧ (nextSlot (regionState 1 3).th.pc).toNat / 64 * 64 = 0x1000 ∧
    lockFits (regionState 1 3) slot0 ⟨0x1000, 1, 3, false⟩ = true ∧
    (otherRegion (regionState 1 3) slot0 || matrixHeld (regionState 1 3) slot0 || sluicePins (regionState 1 3) core) = false ∧
    (∀ x ∈ regionLines ⟨0x1000, 1, 3, false⟩, (lineFind (lockPresent (regionState 1 3) slot0 (regionState 1 3).th.asid
      ⟨0x1000, 1, 3, false⟩) core (regionState 1 3).th.asid x).isSome = true) ∧
    otherRegion twoRegions slot0 = true ∧ Issues twoRegions [1] [] ∧ OwnOperand twoRegions 0x80000 8 8 local0 ∧
    lockFits twoRegions slot0 ⟨0x1000, 1, 3, false⟩ = true ∧
    ((readWord (regionState 1 2) local0).extractLsb' 0 2).toNat ≠ bankCount (regionState 1 2) core ∧
    lockFits (regionState 193 3) slot0 ⟨0x1000, 193, 3, false⟩ = false ∧
    Issues inRegion [] [] ∧ stSrg inRegion.th.status = true ∧ inRegion.th.rep.running = false ∧ Issues base [] [] ∧
    stSrg base.th.status = false ∧
    -- the repetition buffer
    Issues (repSource vaddWord) [1, 2] [] ∧ (repSource vaddWord).th.rep.running = false ∧
    OwnOperand (repSource vaddWord) 0x80000 32 4 local0 ∧ ((repSource vaddWord).g 2).toNat % 16 = 8 ∧
    (((List.range 8).map fun i => BitVec.ofNat 32 (fieldAt (readBytes (repSource vaddWord) local0 32) (4 * i) 4)).all
      fun w => (bufForm w).isSome) = true ∧
    (((List.range 8).map fun i => BitVec.ofNat 32 (fieldAt (readBytes (repSource 1) local0 32) (4 * i) 4)).find?
      fun w => (bufForm w).isNone) = some 1 ∧
    Issues (loaded false) [1, 2] [] ∧ (loaded false).th.rep.running = false ∧ ((loaded false).g 1).toNat % 2 ^ 32 ≠ 0 ∧
    (loaded false).th.rep.body ≠ [] ∧ Issues (loaded false) [2, 1] [] ∧ ((loaded false).g 2).toNat % 2 ^ 32 = 0 ∧
    Issues (loaded true) [] [] ∧ (loaded true).th.rep.running = true ∧
    (withThread (loaded true) fun th => { th with runsAt := 5 }).th.runsAt ≠ (loaded true).cyc ∧
    (threadOf (loaded true) slot0).rep.running = true ∧ (threadOf (loaded false) slot0).rep.running = false := by
  unfold Issues OwnOperand; and_intros <;> decide +kernel

end Sys2Proof.Tests
end

section
/-! SUPPORT. Writes of registers as events (R8, R76, R122, R201, R242, R269): the bits of a masked write, the threads that a
write of a register block leaves as they were, and one lemma for each kind of register event. -/

namespace Sys2Proof.Machine

variable {s : State}

/-! ## The bits of a masked write (R8, R242) -/

/-- R8. A written bit is taken where the mask has it, and kept elsewhere. -/
theorem getLsbD_maskWrite (old v mask : Word) {i : Nat} (hi : i < 64) :
    (maskWrite old v mask).getLsbD i = if mask.getLsbD i then v.getLsbD i else old.getLsbD i := by
  unfold maskWrite
  rw [BitVec.getLsbD_or, BitVec.getLsbD_and, BitVec.getLsbD_and, BitVec.getLsbD_not]
  cases mask.getLsbD i
  · simp only [hi, decide_true, Bool.not_false, Bool.and_true, Bool.and_false, Bool.or_false, Bool.false_eq_true, if_false]
  · simp only [Bool.not_true, Bool.and_false, Bool.and_true, Bool.false_or, if_true]

/-- R244. The flags reach bits 8 to 15 and no other. -/
theorem getLsbD_orFlags (w : Word) (f : BitVec 8) {i : Nat} (hi : i < 64) :
    (orFlags w f).getLsbD i = (w.getLsbD i || (decide (8 ≤ i ∧ i < 16) && f.getLsbD (i - 8))) := by
  unfold orFlags
  rw [BitVec.getLsbD_or, BitVec.getLsbD_shiftLeft, BitVec.getLsbD_setWidth]
  by_cases h8 : i < 8
  · have hout : ¬ (8 ≤ i ∧ i < 16) := by omega
    simp only [h8, hout, decide_true, decide_false, Bool.not_true, Bool.and_false, Bool.false_and]
  · have hsub : i - 8 < 64 := by omega
    simp only [h8, hi, hsub, decide_true, decide_false, Bool.not_false, Bool.true_and]
    by_cases h16 : i < 16
    · have hin : 8 ≤ i ∧ i < 16 := by omega
      simp only [hin, and_self, decide_true, Bool.true_and]
    · have hout : ¬ (8 ≤ i ∧ i < 16) := by omega
      simp only [hout, decide_false, Bool.false_and, BitVec.getLsbD_of_ge f (i - 8) (by omega)]

/-- The RW bits of STATUS when RM is written with a mode (R242). -/
theorem getLsbD_statusMask : ∀ i < 64, statusMask.getLsbD i = decide (48 ≤ i ∨ (8 ≤ i ∧ i ≤ 13) ∨ i < 3) := by
  decide

/-- The same without RM, for a written 6 or 7 (R242). -/
theorem getLsbD_statusMask_keepRm :
    ∀ i < 64, (0xFFFF000000003F00#64).getLsbD i = decide (48 ≤ i ∨ (8 ≤ i ∧ i ≤ 13)) := by
  decide

/-- R242. The bits of STATUS after a masked write: SRDC and the flags as written, RM as written when it is a mode. -/
theorem getLsbD_statusWritten (old v : Word) {i : Nat} (hi : i < 64) :
    (maskWrite old v (if 6 ≤ (v.extractLsb' 0 3).toNat then 0xFFFF000000003F00#64 else statusMask)).getLsbD i =
      if 48 ≤ i ∨ (8 ≤ i ∧ i ≤ 13) ∨ (i < 3 ∧ v.toNat % 8 < 6) then v.getLsbD i else old.getLsbD i := by
  have hrm : (v.extractLsb' 0 3).toNat = v.toNat % 8 := by rw [BitVec.extractLsb'_toNat, Nat.shiftRight_zero]
  rw [getLsbD_maskWrite _ _ _ hi, hrm]
  by_cases h : 6 ≤ v.toNat % 8
  · rw [if_pos h, getLsbD_statusMask_keepRm i hi]
    simp only [Nat.not_lt.mpr h, and_false, or_false, decide_eq_true_eq]
  · rw [if_neg h, getLsbD_statusMask i hi]
    simp only [Nat.lt_of_not_le h, and_true, decide_eq_true_eq]

/-! ## A register write leaves the threads as they were -/

@[simp] theorem now_threads (e : Event) : (now s e).threads = s.threads := rfl
@[simp] theorem putDie_threads (die off : Nat) (v : Word) : (putDie s die off v).threads = s.threads := rfl
@[simp] theorem modBoot_threads (die : Nat) (f : BootSt → BootSt) : (modBoot s die f).threads = s.threads := rfl
@[simp] theorem ethPut_threads (port off : Nat) (v : Word) : (ethPut s port off v).threads = s.threads := rfl

@[simp] theorem powerWrite_threads (off : Nat) (v : Word) : (powerWrite s off v).threads = s.threads := by
  unfold powerWrite
  simp only [apply_ite State.threads, now_threads, ite_self]

@[simp] theorem capWrite_threads (k : CreelId) (off : Nat) (v : Word) : (capWrite s k off v).threads = s.threads := by
  unfold capWrite
  simp only [apply_ite State.threads, now_threads, ite_self]

@[simp] theorem writeSample_threads (k : CreelId) (v : Word) : (writeSample s k v).threads = s.threads := by
  unfold writeSample
  extract_lets l w s₁ s₂ p
  have h₂ : s₂.threads = s.threads := rfl
  rw [apply_ite State.threads, after_threads, h₂, ite_self]

@[simp] theorem dbgWrite_threads (k : CreelId) (off : Nat) (v : Word) : (dbgWrite s k off v).threads = s.threads := by
  unfold dbgWrite
  simp only [apply_ite State.threads, modCreel_threads, writeSample_threads, ite_self]

@[simp] theorem writeMigCtl_threads (die : Nat) (v : Word) : (writeMigCtl s die v).threads = s.threads := by
  unfold writeMigCtl
  extract_lets w due s₁
  have h₁ : s₁.threads = s.threads := rfl
  rw [apply_ite State.threads, after_threads, h₁, ite_self]

/-- R72. Each block's write only changes registers or sets an event for the end of the cycle. -/
@[simp] theorem dieWrite_threads (die off : Nat) (v : Word) (who : Option ThreadId) :
    (dieWrite s die off v who).threads = s.threads := by
  unfold dieWrite
  -- the two matches, on the kind of a flood and on who writes, are decided first; what stays are choices by offset
  generalize (v.extractLsb' 4 2).toNat = kind
  rcases who with _ | t <;> rcases kind with _ | _ | _ | kind <;>
    simp only [apply_ite State.threads, now_threads, putDie_threads, modBoot_threads, ethPut_threads, powerWrite_threads,
      capWrite_threads, dbgWrite_threads, writeMigCtl_threads, ite_self]

/-! ## The register events -/

/-- An event whose meaning changes one thread leaves that thread as the change says. -/
theorem gives_threadOf {i : Instr} {t : ThreadId} (f : Thread → Thread) (P : Thread → Prop)
    (ht : (s.threads.find t).isSome = true) (h : exec i s = .next (modThread s t f)) (hP : P (f (threadOf s t))) :
    Gives i s fun u => P (threadOf u t) := by
  refine ⟨_, h, ?_⟩
  show P (threadOf (modThread s t f) t)
  rwa [threadOf_modThread_same s t f ht]

/-- An event whose meaning changes one core leaves that core as the change says. -/
theorem gives_coreOf {i : Instr} {c : CoreId} (f : CoreSt → CoreSt) (P : CoreSt → Prop)
    (h : exec i s = .next (modCore s c f)) (hP : P (f (coreOf s c))) : Gives i s fun u => P (coreOf u c) := by
  refine ⟨_, h, ?_⟩
  show P (coreOf (modCore s c f) c)
  rwa [coreOf_modCore, if_pos rfl]

/-- R242, R308. STATUS after its write, with the flags of a buffered beat of the same cycle. -/
theorem statusWrite_gives (t : ThreadId) (v : Word) (ht : (s.threads.find t).isSome = true) :
    Gives (.statusWrite t v) s fun u => ∀ i, i < 64 → (threadOf u t).status.getLsbD i =
      ((if 48 ≤ i ∨ (8 ≤ i ∧ i ≤ 13) ∨ (i < 3 ∧ v.toNat % 8 < 6) then v.getLsbD i
          else (threadOf s t).status.getLsbD i) ||
        (decide ((threadOf s t).runsAt = s.cyc ∧ 8 ≤ i ∧ i < 16) && (threadOf s t).beatFlags.getLsbD (i - 8))) := by
  refine ⟨_, rfl, fun i hi => ?_⟩
  rw [threadOf_modThread_same s t _ ht]
  by_cases hr : (threadOf s t).runsAt = s.cyc
  · simp only [hr, if_true, true_and]
    rw [getLsbD_orFlags _ _ hi, getLsbD_statusWritten _ _ hi]
  · simp only [hr, if_false, false_and, decide_false, Bool.false_and, Bool.or_false]
    exact getLsbD_statusWritten _ _ hi

/-- R201. The test of a CHPOOL write finds an endpoint of the core that holds a buffer slot. -/
theorem chpoolHeld_iff (c : CoreId) :
    (s.eps.any fun e => decide (e.1.1 = c) && e.2.held) = true ↔ ∃ e ∈ s.eps, e.1.1 = c ∧ e.2.held = true := by
  simp only [List.any_eq_true, Bool.and_eq_true, decide_eq_true_eq]

/-- R201. CHPOOL takes a write while no endpoint of its core holds a buffer slot. -/
theorem chpoolWrite_gives (c : CoreId) (v : Word) (h : ∀ e ∈ s.eps, e.1.1 = c → e.2.held = false) :
    Gives (.chpoolWrite c v) s fun u => (coreOf u c).chpool = v &&& 0x000FFFFF00003FFF#64 := by
  have hfree : ¬ (s.eps.any fun e => decide (e.1.1 = c) && e.2.held) = true := by
    rw [chpoolHeld_iff]
    rintro ⟨e, he, hc, hheld⟩
    exact Bool.false_ne_true ((h e he hc).symm.trans hheld)
  exact gives_coreOf (fun k => { k with chpool := v &&& 0x000FFFFF00003FFF#64 }) (·.chpool = _) (if_neg hfree) rfl

/-- R201. CHPOOL ignores a write while an endpoint of its core holds a buffer slot. -/
theorem chpoolWrite_ignored (c : CoreId) (v : Word) (h : ∃ e ∈ s.eps, e.1.1 = c ∧ e.2.held = true) :
    exec (.chpoolWrite c v) s = .next s := by
  rw [exec_chpoolWrite, execChpoolWrite, if_pos ((chpoolHeld_iff c).mpr h)]

/-- R76. An error counter is cleared by a written 0, and keeps its value otherwise. -/
theorem errorCounterWrite_gives (die n : Nat) (v : Word) :
    Gives (.errorCounterWrite die n v) s fun u =>
      u.dieRegs.get (die, 0x20000 + 8 * n) 0 = if v = 0 then 0 else s.dieRegs.get (die, 0x20000 + 8 * n) 0 := by
  refine ⟨_, rfl, ?_⟩
  by_cases hv : v = 0
  · subst hv
    simp only [putDie, SMap.get_put, if_true]
  · rw [if_neg hv, if_neg hv]

/-- R122. A BCE register is cleared by a written 0, and keeps its counts otherwise. -/
theorem bceWrite_gives (k : CreelId) (r : Nat) (v : Word) :
    Gives (.bceWrite k r v) s fun u => (creelOf u k).bce.get r 0 = if v = 0 then 0 else (creelOf s k).bce.get r 0 := by
  refine ⟨_, rfl, ?_⟩
  by_cases hv : v = 0
  · subst hv
    simp only [creelOf_modCreel, SMap.get, SMap.find_del, if_true, Option.getD_none]
  · rw [if_neg hv, if_neg hv]

/-! ## Accesses through DEV_DATA (R269) -/

/-- A release lets the thread run again at the address that its parked instruction noted. -/
theorem release_runs (t : ThreadId) (ht : (s.threads.find t).isSome = true) :
    (threadOf (release s t) t).wait = .run ∧ (threadOf (release s t) t).pc = (threadOf s t).next ∧
      (threadOf (release s t) t).base = (threadOf s t).base := by
  unfold release
  rw [threadOf_modThread_same s t _ ht]
  exact ⟨rfl, rfl, rfl⟩

/-- A release leaves every register as it was. -/
theorem regOf_release (t : ThreadId) (n : Nat) (ht : (s.threads.find t).isSome = true) :
    regOf (release s t) t n = regOf s t n := by
  obtain ⟨-, -, hbase⟩ := release_runs t ht
  have hregs : (release s t).regs = s.regs := modThread_regs ..
  unfold regOf
  rw [hbase, hregs]

/-- R269. The read, where its thread is parked on it. -/
theorem execDevDataRead_parked {t : ThreadId} (d : BitVec 7) (hw : (threadOf s t).wait = .redo .device) :
    execDevDataRead t d s = .next (release (setRegOf s t d.toNat
      ((dieRead s t.core.die ((threadOf s t).answer.getD 0).toNat).getD 0) false) t) := by
  unfold execDevDataRead
  rw [hw]

/-- R269. The write, where its thread is parked on it. -/
theorem execDevDataWrite_parked {t : ThreadId} (v : Word) (hw : (threadOf s t).wait = .redo .device) :
    execDevDataWrite t v s =
      .next (release (dieWrite s t.core.die ((threadOf s t).answer.getD 0).toNat v (some t)) t) := by
  unfold execDevDataWrite
  rw [hw]

/-- R269. The read through DEV_DATA writes the device register's value and completes its thread's instruction. -/
theorem devDataRead_gives (t : ThreadId) (d : BitVec 7) (ht : (s.threads.find t).isSome = true)
    (hw : (threadOf s t).wait = .redo .device) :
    Gives (.devDataRead t d) s fun u => (threadOf u t).wait = .run ∧ (threadOf u t).pc = (threadOf s t).next ∧
      (d ≠ 0 → regOf u t d.toNat =
        mkEntry ((dieRead s t.core.die ((threadOf s t).answer.getD 0).toNat).getD 0) false) := by
  refine ⟨_, execDevDataRead_parked d hw, ?_⟩
  generalize (dieRead s t.core.die ((threadOf s t).answer.getD 0).toNat).getD 0 = x
  have ht' : ((setRegOf s t d.toNat x false).threads.find t).isSome = true := by rwa [setRegOf_threads]
  obtain ⟨hwait, hpc, -⟩ := release_runs t ht'
  refine ⟨hwait, by rw [hpc, threadOf_setRegOf], fun hd => ?_⟩
  have hn : d.toNat ≠ 0 := fun h => hd (BitVec.eq_of_toNat_eq h)
  rw [regOf_release t _ ht', regOf_setRegOf_same s t _ x false hn]

/-- R269. The write through DEV_DATA completes its thread's instruction. -/
theorem devDataWrite_gives (t : ThreadId) (v : Word) (ht : (s.threads.find t).isSome = true)
    (hw : (threadOf s t).wait = .redo .device) :
    Gives (.devDataWrite t v) s fun u => (threadOf u t).wait = .run ∧ (threadOf u t).pc = (threadOf s t).next := by
  refine ⟨_, execDevDataWrite_parked v hw, ?_⟩
  generalize ((threadOf s t).answer.getD 0).toNat = off
  have hth : (dieWrite s t.core.die off v (some t)).threads = s.threads := dieWrite_threads ..
  obtain ⟨hwait, hpc, -⟩ := release_runs (s := dieWrite s t.core.die off v (some t)) t (by rwa [hth])
  refine ⟨hwait, hpc.trans ?_⟩
  unfold threadOf
  rw [hth]

/-! ## The obligation -/

/-- Settles O28: each register event, by the lemma that says what its write does. -/
theorem registerWrites : Obligations.RegisterWrites := by
  intro s t v ht
  refine ⟨statusWrite_gives t v ht, ?xpc, ?xcause, ?xinfo, ?xvec, ?xsca, ?xscb, fun c => chpoolWrite_gives c v,
    fun c => chpoolWrite_ignored c v, fun die n => errorCounterWrite_gives die n v, fun k r => bceWrite_gives k r v,
    fun hw d => ⟨devDataRead_gives t d ht hw, devDataWrite_gives t v ht hw⟩⟩
  case xpc => exact gives_threadOf (fun th => { th with xpc := v &&& 0x01FFFFFFFFFFFFFE#64 }) (·.xpc = _) ht rfl rfl
  case xcause => exact gives_threadOf (fun th => { th with xcause := v &&& 0xFF }) (·.xcause = _) ht rfl rfl
  case xinfo => exact gives_threadOf (fun th => { th with xinfo := v }) (·.xinfo = _) ht rfl rfl
  case xvec => exact gives_coreOf (fun c => { c with xvec := v &&& 0x01FFFFFFFFFFF001#64 }) (·.xvec = _) rfl rfl
  case xsca => exact gives_threadOf (fun th => { th with xsca := v }) (·.xsca = _) ht rfl rfl
  case xscb => exact gives_threadOf (fun th => { th with xscb := v }) (·.xscb = _) ht rfl rfl

end Sys2Proof.Machine
end

section
/-! SUPPORT. How replies end the waits of threads (R147, R162, R171, R207, R225, R316, R317): what a completion writes, the
path of a reply to its requester, the line that serves a fetch, and the resend and the cancel of a wait. -/

namespace Sys2Proof.Machine

variable {s : State}

/-! ## Completing a parked instruction (R162) -/

/-- A change of a thread that keeps its window of registers changes no register. -/
theorem regOf_modThread (t v : ThreadId) (f : Thread → Thread) (n : Nat) (hf : ∀ th, (f th).base = th.base) :
    regOf (modThread s t f) v n = regOf s v n := by
  have hbase : (threadOf (modThread s t f) v).base = (threadOf s v).base := by
    unfold threadOf
    rw [find_modThread]
    by_cases h : t = v
    · rw [if_pos h]
      cases s.threads.find v with
      | none => rfl
      | some th => exact hf th
    · rw [if_neg h]
  unfold regOf
  rw [hbase, modThread_regs]

/-- R162. A thread's instruction is complete: it goes on at the next address from its next own slot, and no memory and no other
thread has changed. -/
def Completed (s u : State) (t : ThreadId) : Prop :=
  (threadOf u t).pc = (threadOf s t).next ∧ (threadOf u t).wait = .run ∧ (threadOf u t).ready = nextOwn s.cyc t.slot ∧
    u.mem = s.mem ∧ ∀ v, v ≠ t → u.threads.find v = s.threads.find v

/-- What a reply does that writes a register: the write, the flags, and the release of the thread. -/
def writeAndRelease (s : State) (t : ThreadId) (n : Nat) (w : Word) (b : Bool) (fl : Flags) : State :=
  release (modThread (setRegOf s t n w b) t fun th => { th with status := orFlags th.status fl }) t

/-- A write of a register and a release complete the instruction, with the register as written. -/
theorem completed_writeAndRelease (t : ThreadId) (n : Nat) (w : Word) (b : Bool) (fl : Flags)
    (ht : (s.threads.find t).isSome = true) :
    Completed s (writeAndRelease s t n w b fl) t ∧ (n ≠ 0 → regOf (writeAndRelease s t n w b fl) t n = mkEntry w b) := by
  let written := setRegOf s t n w b
  let flagged := modThread written t fun th => { th with status := orFlags th.status fl }
  have hw : (written.threads.find t).isSome = true := by rwa [setRegOf_threads]
  have hf : (flagged.threads.find t).isSome = true := by rw [find_modThread, if_pos rfl, Option.isSome_map]; exact hw
  have hcyc : flagged.cyc = s.cyc := by rw [modThread_cyc, setRegOf_cyc]
  have hthread : threadOf flagged t =
      { threadOf s t with status := orFlags (threadOf s t).status fl } := by
    rw [threadOf_modThread_same written t _ hw, threadOf_setRegOf]
  have hreleased := threadOf_modThread_same flagged t (fun th => { th with
    pc := th.next, wait := .run, req := none, answer := none, awaited := 0, gathered := []
    parked := none, going := false, delay := 0, finishing := false, ready := nextOwn flagged.cyc t.slot
    skipBreak := false, skipWatch := false }) hf
  refine ⟨⟨?pc, ?wait, ?ready, ?mem, fun v hv => ?others⟩, fun hn => ?reg⟩
  case pc => exact (congrArg Thread.pc hreleased).trans (by rw [hthread])
  case wait => exact congrArg Thread.wait hreleased
  case ready => exact (congrArg Thread.ready hreleased).trans (by rw [hcyc])
  case mem => unfold writeAndRelease release; rw [modThread_mem, modThread_mem, setRegOf_mem]
  case others =>
    unfold writeAndRelease release
    rw [find_modThread, if_neg hv.symm, find_modThread, if_neg hv.symm, setRegOf_threads]
  case reg =>
    rw [← regOf_setRegOf_same s t n w b hn]
    exact (regOf_release t n hf).trans (regOf_modThread t t _ n fun _ => rfl)

/-! ## The way of a reply to its requester (R147, R207) -/

/-- R147. A thread's stepped instruction is parked, and its creel stands halted. -/
def StepParked (s : State) (t : ThreadId) : Prop :=
  ∃ h, (creelOf s t.core.creel).halt = some h ∧ h.stepped.contains t = true ∧ haltedNow s t.core = true

/-- The test that a reply is kept is that of a parked stepped instruction, for a request that is not posted. -/
theorem keeps_iff (t : ThreadId) (p : Bool) :
    (match (creelOf s t.core.creel).halt with
      | some h => h.stepped.contains t && haltedNow s t.core && !p
      | none => false) = true ↔ StepParked s t ∧ p = false := by
  unfold StepParked
  cases (creelOf s t.core.creel).halt with
  | none => simp
  | some h => simp [and_assoc]

/-- R147. The reply to a stepped instruction waits for the end of the halt. -/
theorem execMemoryReply_kept {r : MemReply} {t : ThreadId} (hwho : r.req.who = .slot t) (hp : r.req.posted = false)
    (h : StepParked s t) : execMemoryReply r s =
      .next (modCreel s t.core.creel fun c => { c with halt := c.halt.map fun h => { h with kept := h.kept ++ [r] } }) := by
  unfold execMemoryReply
  simp only [hwho]
  exact congrArg Host.Outcome.next (if_pos ((keeps_iff t _).mpr ⟨h, hp⟩))

/-- R162, R207. The reply that a parked thread waits for completes its instruction. -/
theorem execMemoryReply_parked {r : MemReply} {t : ThreadId} {k : Compl} (hwho : r.req.who = .slot t)
    (hp : r.req.posted = false) (h : ¬ StepParked s t) (hw : (threadOf s t).wait = .reply k)
    (htok : (threadOf s t).req.map (fun x => x.tok) = some r.req.tok) (hst : r.status = 0) :
    execMemoryReply r s = .next (finishReply s t k r) := by
  have hawaits : awaits (threadOf s t) r.req = true := by
    obtain ⟨x, hx, htok⟩ := Option.map_eq_some_iff.mp htok
    simp only [awaits, hx, htok, decide_true]
  have hparked : parkedReply s t k r = finishReply s t k r := by
    unfold parkedReply
    rw [hst]
    rfl
  unfold execMemoryReply
  simp only [hwho]
  refine congrArg Host.Outcome.next ((if_neg fun hk => h ((keeps_iff t _).mp hk).1).trans ?_)
  simp only [hp, Bool.false_eq_true, if_false, hw, hawaits, if_true, hparked]

/-- R225. The acknowledgement of a posted write that its thread has outstanding. -/
theorem execMemoryReply_posted {r : MemReply} {t : ThreadId} (hwho : r.req.who = .slot t) (hp : r.req.posted = true)
    (hmine : ((threadOf s t).posted.any fun p => decide (p.tok = r.req.tok)) = true) :
    execMemoryReply r s = .next (postedReply s t r) := by
  unfold execMemoryReply
  simp only [hwho]
  refine congrArg Host.Outcome.next ((if_neg fun hk => ?_).trans ?_)
  · exact Bool.false_ne_true (((keeps_iff t _).mp hk).2.symm.trans hp)
  · rw [if_pos hp, if_pos hmine]

/-- R147. A kept reply changes nothing but the halt that keeps it. -/
theorem keptReply_gives {r : MemReply} {t : ThreadId} (hwho : r.req.who = .slot t) (hp : r.req.posted = false)
    (h : StepParked s t) : Gives (.memoryReply r) s fun u => u.threads = s.threads ∧ u.mem = s.mem ∧ u.regs = s.regs ∧
      ∃ h, (creelOf u t.core.creel).halt = some h ∧ r ∈ h.kept := by
  refine ⟨_, execMemoryReply_kept hwho hp h, rfl, rfl, rfl, ?_⟩
  obtain ⟨halt, hhalt, -, -⟩ := h
  refine ⟨{ halt with kept := halt.kept ++ [r] }, ?_, List.mem_append_right _ (List.mem_singleton_self r)⟩
  rw [creelOf_modCreel, if_pos rfl, hhalt]
  rfl

/-- R162. A reply whose completion writes a register completes the instruction with that value. -/
theorem parkedReply_gives {r : MemReply} {t : ThreadId} {k : Compl} {d : BitVec 7} {w : Word} {b : Bool} {fl : Flags}
    (ht : (s.threads.find t).isSome = true) (hexec : execMemoryReply r s = .next (finishReply s t k r))
    (hfinish : finishReply s t k r = writeAndRelease s t d.toNat w b fl) :
    Gives (.memoryReply r) s fun u => Completed s u t ∧ (d ≠ 0 → regOf u t d.toNat = mkEntry w b) := by
  obtain ⟨hdone, hreg⟩ := completed_writeAndRelease t d.toNat w b fl ht
  exact ⟨_, hexec.trans (congrArg Host.Outcome.next hfinish), hdone, fun hd => hreg fun h => hd (BitVec.eq_of_toNat_eq h)⟩

/-- R225. The posted write that an acknowledgement of status 0 ends, taken from its thread. -/
def endPosted (s : State) (t : ThreadId) (tok : Nat) : State :=
  modThread s t fun th => { th with posted := th.posted.filter fun p => decide (p.tok ≠ tok), trap := th.trap.or none }

/-- R225. An acknowledgement takes the write from its thread; an instruction that waits for it is taken up again. -/
theorem postedReply_acknowledged {r : MemReply} (t : ThreadId) (hst : r.status = 0) :
    postedReply s t r = match (threadOf (endPosted s t r.req.tok) t).wait with
      | .redo .ack => (endPosted s t r.req.tok).at s.cyc (.redo t)
      | .redo .ending => (endPosted s t r.req.tok).at s.cyc (.redo t)
      | _ => endPosted s t r.req.tok := by
  obtain ⟨q, st, data, tags⟩ := r
  subst hst
  have hcyc : (endPosted s t q.tok).cyc = s.cyc := modThread_cyc ..
  rw [← hcyc]
  rfl

/-- R225. An acknowledgement ends its posted write. -/
theorem postedReply_gives {r : MemReply} {t : ThreadId} (hwho : r.req.who = .slot t) (hp : r.req.posted = true)
    (hst : r.status = 0) (ht : (s.threads.find t).isSome = true)
    (hmine : ((threadOf s t).posted.any fun p => decide (p.tok = r.req.tok)) = true) :
    Gives (.memoryReply r) s fun u =>
      (threadOf u t).posted = (threadOf s t).posted.filter (fun p => decide (p.tok ≠ r.req.tok)) ∧ u.mem = s.mem ∧
        u.regs = s.regs ∧ ((threadOf s t).wait = .redo .ack → ⟨s.cyc, .redo t⟩ ∈ u.agenda) := by
  have hthread := threadOf_modThread_same s t
    (fun th => { th with posted := th.posted.filter fun p => decide (p.tok ≠ r.req.tok), trap := th.trap.or none }) ht
  have hposted : (threadOf (endPosted s t r.req.tok) t).posted =
      (threadOf s t).posted.filter (fun p => decide (p.tok ≠ r.req.tok)) := congrArg Thread.posted hthread
  have hwait : (threadOf (endPosted s t r.req.tok) t).wait = (threadOf s t).wait := by rw [endPosted, hthread]
  have hmem : (endPosted s t r.req.tok).mem = s.mem := modThread_mem ..
  have hregs : (endPosted s t r.req.tok).regs = s.regs := modThread_regs ..
  refine ⟨_, (execMemoryReply_posted hwho hp hmine).trans (congrArg Host.Outcome.next (postedReply_acknowledged t hst)), ?_⟩
  rw [hwait]
  split
  · exact ⟨hposted, hmem, hregs, fun _ => (mem_at ..).mpr (.inl rfl)⟩
  · exact ⟨hposted, hmem, hregs, fun _ => (mem_at ..).mpr (.inl rfl)⟩
  next hack _ => exact ⟨hposted, hmem, hregs, fun h => absurd h hack⟩

/-! ## Lines (R171, R323) -/

/-- An installed line changes nothing but the cores. -/
theorem installLine_eq (c : CoreId) (asid : BitVec 16) (va : Nat) (bytes : List Byte) :
    installLine s c asid va bytes = { s with cores := (installLine s c asid va bytes).cores } := by
  unfold installLine
  extract_lets inSet free fresh old
  clear_value free old
  split
  · rfl
  · split <;> rfl

/-- R171. Where a way of its set is free, a line is installed. -/
theorem mem_icache_installLine {c : CoreId} {asid : BitVec 16} {va : Nat} {bytes : List Byte}
    (h : ∃ w ∈ icWays s c, ∀ l ∈ setLines s c va, l.way ≠ w) :
    ∃ l ∈ (coreOf (installLine s c asid va bytes) c).icache, l.va = va / 64 * 64 ∧ l.asid = asid ∧ l.bytes = bytes := by
  obtain ⟨w, hw, hfree⟩ := h
  unfold installLine
  extract_lets inSet free fresh old
  have hmem : w ∈ free := List.mem_filter.mpr ⟨hw, by simpa [inSet] using hfree⟩
  clear_value free
  split
  next v _ =>
    refine ⟨fresh v, ?_, rfl, rfl, rfl⟩
    rw [coreOf_modCore, if_pos rfl]
    exact List.mem_append_right _ (List.mem_singleton_self _)
  next => exact absurd hmem List.not_mem_nil

/-- R171. The thread that a line serves, and its core's note that the fetch is over. -/
def serveLine (s : State) (t : ThreadId) (va : Nat) (bytes : List Byte) : State :=
  modThread (modCore (modThread s t fun th => { th with wait := .run, ready := nextOwn s.cyc t.slot }) t.core fun k =>
    { k with noInstall := k.noInstall.filter fun n => n ≠ t.slot }) t fun th => { th with lent := some (va, bytes) }

/-- R171, R323. A line without error serves the fetch, and is installed unless an IFENCE has passed. -/
theorem execIcacheLineFill_served {t : ThreadId} {va : Nat} (pa : Nat) (bytes : List Byte)
    (hw : (threadOf s t).wait = .line va) : execIcacheLineFill t va pa bytes 0 s =
      .next (if (coreOf s t.core).noInstall.contains t.slot then serveLine s t va bytes
        else installLine (serveLine s t va bytes) t.core (threadOf s t).asid va bytes) := by
  have hcore : coreOf (modThread s t fun th => { th with wait := .run, ready := nextOwn s.cyc t.slot }) t.core =
      coreOf s t.core := by unfold coreOf; rw [modThread_cores]
  unfold execIcacheLineFill
  rw [if_neg (not_not_intro hw)]
  simp only [ne_eq, not_true_eq_false, decide_false, Bool.false_and, Bool.false_eq_true, if_false, hcore]
  rfl

/-- What serving a fetch leaves: the thread with the line, and everything but the threads and the cores as before. -/
theorem serveLine_spec (t : ThreadId) (va : Nat) (bytes : List Byte) (ht : (s.threads.find t).isSome = true) :
    threadOf (serveLine s t va bytes) t =
        { threadOf s t with wait := .run, ready := nextOwn s.cyc t.slot, lent := some (va, bytes) } ∧
      coreOf (serveLine s t va bytes) t.core = { coreOf s t.core with
        noInstall := (coreOf s t.core).noInstall.filter fun n => n ≠ t.slot } ∧
      (serveLine s t va bytes).mem = s.mem ∧ (serveLine s t va bytes).regs = s.regs ∧
      (serveLine s t va bytes).creels = s.creels := by
  let woken := modThread s t fun th => { th with wait := .run, ready := nextOwn s.cyc t.slot }
  let noted := modCore woken t.core fun k => { k with noInstall := k.noInstall.filter fun n => n ≠ t.slot }
  have hnoted : (noted.threads.find t).isSome = true := by
    show (woken.threads.find t).isSome = true
    rw [find_modThread, if_pos rfl, Option.isSome_map]
    exact ht
  refine ⟨?_, ?_, ?_, ?_, ?_⟩
  · refine (threadOf_modThread_same noted t _ hnoted).trans ?_
    have hth : threadOf noted t = { threadOf s t with wait := .run, ready := nextOwn s.cyc t.slot } :=
      threadOf_modThread_same s t _ ht
    rw [hth]
  · have hcores : (serveLine s t va bytes).cores = noted.cores := modThread_cores ..
    have hwoken : coreOf woken t.core = coreOf s t.core := by unfold coreOf; rw [modThread_cores]
    have hread : coreOf (serveLine s t va bytes) t.core = coreOf noted t.core := by unfold coreOf; rw [hcores]
    rw [hread, coreOf_modCore, if_pos rfl, hwoken]
  · unfold serveLine; rw [modThread_mem, modCore_mem, modThread_mem]
  · unfold serveLine; rw [modThread_regs, modCore_regs, modThread_regs]
  · unfold serveLine; rw [modThread_creels, modCore_creels, modThread_creels]

/-- R171, R323. The line that a thread waits for. -/
theorem lineFill_gives {t : ThreadId} {va : Nat} (pa : Nat) (bytes : List Byte) (ht : (s.threads.find t).isSome = true)
    (hw : (threadOf s t).wait = .line va) : Gives (.icacheLineFill t va pa bytes 0) s fun u =>
      (threadOf u t).wait = .run ∧ (threadOf u t).ready = nextOwn s.cyc t.slot ∧ (threadOf u t).lent = some (va, bytes) ∧
      (threadOf u t).pc = (threadOf s t).pc ∧ u.mem = s.mem ∧ u.regs = s.regs ∧
      ((coreOf s t.core).noInstall.contains t.slot = true → (coreOf u t.core).icache = (coreOf s t.core).icache) ∧
      ((coreOf s t.core).noInstall.contains t.slot = false →
        (∃ w ∈ icWays s t.core, ∀ l ∈ setLines s t.core va, l.way ≠ w) →
        ∃ l ∈ (coreOf u t.core).icache, l.va = va / 64 * 64 ∧ l.asid = (threadOf s t).asid ∧ l.bytes = bytes) := by
  obtain ⟨hthread, hcore, hmem, hregs, hcreels⟩ := serveLine_spec t va bytes ht
  refine ⟨_, execIcacheLineFill_served pa bytes hw, ?_⟩
  cases hbar : (coreOf s t.core).noInstall.contains t.slot with
  | true =>
    simp only [if_true]
    rw [hthread, hcore]
    exact ⟨rfl, rfl, rfl, rfl, hmem, hregs, fun _ => rfl, nofun⟩
  | false =>
    simp only [Bool.false_eq_true, if_false]
    have hinst := installLine_eq (s := serveLine s t va bytes) t.core (threadOf s t).asid va bytes
    have hth : threadOf (installLine (serveLine s t va bytes) t.core (threadOf s t).asid va bytes) t =
        threadOf (serveLine s t va bytes) t := by rw [hinst]; rfl
    have hways : icWays (serveLine s t va bytes) t.core = icWays s t.core := by
      unfold icWays capOf creelOf; rw [hcreels]
    have hset : setLines (serveLine s t va bytes) t.core va = setLines s t.core va := by
      unfold setLines; rw [hcore]
    rw [hth, hthread]
    refine ⟨rfl, rfl, rfl, rfl, by rw [hinst]; exact hmem, by rw [hinst]; exact hregs, nofun, fun _ hfree => ?_⟩
    exact mem_icache_installLine (by rwa [hways, hset])

/-! ## Waits sent again and cancelled (R316, R317) -/

/-- A request of a thread whose creel no fence holds is set on its way. -/
theorem onLane_slot (q : MemReq) (t : ThreadId) (head n : Nat) (a : Act) (hwho : q.who = .slot t)
    (hf : fencedAt s t.core.creel = false) : s.onLane (requestLane s q false) head n a =
      s.at (max (s.cyc + head + (n - 1)) (lastArrival s (requestLane s q false) (s.cyc + head))) a := by
  have hpass : stopsAtFence s (requestLane s q false) a = false := by
    unfold requestLane
    rw [hwho]
    cases homeOf s q.pa with
    | none => rfl
    | some h => simp only [requesterNode, Bool.false_eq_true, if_false, stopsAtFence, hf, Bool.and_false, Bool.false_and]
  unfold State.onLane
  rw [if_neg (by rw [hpass]; exact Bool.false_ne_true)]

/-- R316. A wait held at its source is set on its way again, and nothing else changes. -/
theorem execWaiterStoreResend_sent (q : MemReq) (hf : ∀ t, q.who = .slot t → fencedAt s t.core.creel = false) :
    ∃ c, execWaiterStoreResend q s = .next (s.at c (.event (requestEvent q))) := by
  unfold execWaiterStoreResend
  split
  next h t _ hwho => exact ⟨_, congrArg Host.Outcome.next (onLane_slot q t _ _ _ hwho (hf t hwho))⟩
  · exact ⟨_, rfl⟩

/-- With no wait held for want of a record, a record is only removed. -/
theorem dropWaiter_of_heldWaits_nil (w : Waiter) (h : s.heldWaits = []) :
    dropWaiter s w = { s with waiters := s.waiters.erase w } := by
  unfold dropWaiter
  simp only [h, List.find?_nil]

/-- R317. The cancel of a wait that stands recorded removes the record and stops the thread. -/
theorem execWaitCancel_found {q : MemReq} {t : ThreadId} {w : Waiter} (hwho : q.who = .slot t) (hheld : s.heldWaits = [])
    (hfind : (s.waiters.find? fun x => match x.q with
      | some y => decide (y.tok = q.tok ∧ y.who = q.who)
      | none => false) = some w) :
    execWaitCancel q s = .next (modThread { s with waiters := s.waiters.erase w, heldWaits := [] } t fun th =>
      if th.req.map (fun x => x.tok) = some q.tok then { th with wait := .stopped, req := none } else th) := by
  unfold execWaitCancel
  extract_lets mine found held dropped cleared
  have hfound : found = some w := hfind
  have hdropped : dropped = { s with waiters := s.waiters.erase w } := by
    simp only [dropped, hfound, dropWaiter_of_heldWaits_nil w hheld]
  have hcleared : cleared = { s with waiters := s.waiters.erase w, heldWaits := [] } := by
    simp only [cleared, hdropped, hheld, List.filter_nil]
  simp only [hfound, hcleared, hwho, Option.isSome_some, Bool.true_or, if_true]

/-- R317. A cancel that finds the record stops the thread before its instruction. -/
theorem waitCancel_gives {q : MemReq} {t : ThreadId} {w : Waiter} (hwho : q.who = .slot t) (hheld : s.heldWaits = [])
    (hfind : (s.waiters.find? fun x => match x.q with
      | some y => decide (y.tok = q.tok ∧ y.who = q.who)
      | none => false) = some w)
    (ht : (s.threads.find t).isSome = true) (htok : (threadOf s t).req.map (fun x => x.tok) = some q.tok) :
    Gives (.waitCancel q) s fun u => u.waiters = s.waiters.erase w ∧ (threadOf u t).wait = .stopped ∧
      (threadOf u t).pc = (threadOf s t).pc ∧ u.mem = s.mem ∧ u.regs = s.regs := by
  let u : State := { s with waiters := s.waiters.erase w, heldWaits := [] }
  have hthread := threadOf_modThread_same u t (fun th =>
    if th.req.map (fun x => x.tok) = some q.tok then { th with wait := .stopped, req := none } else th) ht
  rw [show threadOf u t = threadOf s t from rfl, if_pos htok] at hthread
  refine ⟨_, execWaitCancel_found hwho hheld hfind, ?_, ?_, ?_, ?_, ?_⟩
  · rw [modThread_waiters]
  · rw [hthread]
  · rw [hthread]
  · rw [modThread_mem]
  · rw [modThread_regs]

/-! ## The obligation -/

/-- Settles O47: a reply by what it completes, and the acknowledgement, the line, the resend and the cancel by their lemmas. -/
theorem repliesComplete : Obligations.RepliesComplete := by
  refine ⟨fun s r t k hwho hp ht hw htok hst => ⟨keptReply_gives hwho hp, fun hfree => ?completes⟩,
    fun s r t hwho hp hst ht hmine => postedReply_gives hwho hp hst ht hmine, fun s r t va hwho => ?fetch,
    fun s t va pa bytes ht hw => lineFill_gives pa bytes ht hw, fun s q hf => ?resend,
    fun s q t w hwho hheld hfind ht htok => waitCancel_gives hwho hheld hfind ht htok⟩
  case completes =>
    have hexec := execMemoryReply_parked hwho hp hfree hw htok hst
    refine ⟨?_, ?_, ?_, ?_, ?_, ?_⟩
    · rintro d code rfl; exact parkedReply_gives ht hexec rfl
    · rintro d rfl; exact parkedReply_gives ht hexec rfl
    · rintro d rfl; exact parkedReply_gives ht hexec rfl
    · rintro d rfl; exact parkedReply_gives ht hexec rfl
    · rintro d rfl; exact parkedReply_gives ht hexec rfl
    · rintro rfl; exact parkedReply_gives (d := 0) ht hexec rfl
  case fetch =>
    refine ⟨now s (.icacheLineFill t va r.req.pa r.data r.status), ?_, (mem_at ..).mpr (.inl rfl)⟩
    rw [exec_memoryReply, execMemoryReply, hwho]
  case resend =>
    obtain ⟨c, hsent⟩ := execWaiterStoreResend_sent q hf
    exact ⟨_, hsent, ⟨c, (mem_at ..).mpr (.inl rfl)⟩, rfl, rfl, rfl⟩

end Sys2Proof.Machine
end

section
/-! SUPPORT. The debug conversation (R144 to R148), dumps (R153) and samples (R152): what each operation answers, and the rules
of halts, of the debug block's registers, of the teams' leave and of the index block that they rest on. -/

namespace Sys2Proof.Machine

variable {s : State}

/-! ## What stays undisturbed -/

/-- A change of a creel disturbs nothing that programs see. -/
theorem undisturbed_modCreel (s : State) (k : CreelId) (f : CreelSt → CreelSt) : Undisturbed s (modCreel s k f) :=
  ⟨rfl, rfl, rfl, rfl, rfl, rfl, rfl⟩

/-- A happening set disturbs nothing more. -/
theorem undisturbed_at {s u : State} (h : Undisturbed s u) (c : Nat) (a : Act) : Undisturbed s (u.at c a) := h

theorem undisturbed_refl (s : State) : Undisturbed s s := ⟨rfl, rfl, rfl, rfl, rfl, rfl, rfl⟩

/-! ## Halts (R145, R146) -/

/-- A halt without a resume is in force. -/
theorem isHalted_of_resume_none {c : CreelId} {h : Halt} (hh : (creelOf s c).halt = some h) (hr : h.resume = none) :
    isHalted s c = true := by
  unfold isHalted
  rw [hh]
  simp only [hr]

/-- Whether a creel is halted depends on its creels and the cycle alone. -/
theorem isHalted_congr {u : State} (hcreels : u.creels = s.creels) (hcyc : u.cyc = s.cyc) (c : CreelId) :
    isHalted u c = isHalted s c := by
  unfold isHalted creelOf
  rw [hcreels, hcyc]

/-- A node below the lengthsman cores belongs to the creel of its coordinates. -/
theorem creel_of_lt (c : CreelId) {node : Nat} (h : node < 8) : (⟨c.x, c.y, node⟩ : CoreId).creel = c := by
  have hl : CoreId.isLengthsman ⟨c.x, c.y, node⟩ = false := decide_eq_false (Nat.not_le.mpr h)
  unfold CoreId.creel
  rw [if_neg (by rw [hl]; exact Bool.false_ne_true)]

/-- A creel's halt after a change of that creel. -/
theorem halt_modCreel (s : State) (c : CreelId) (f : CreelSt → CreelSt) :
    (creelOf (modCreel s c f) c).halt = (f (creelOf s c)).halt := by
  rw [creelOf_modCreel, if_pos rfl]

/-- R145. The record of a halt at cycle h, of a cause, at the creel's ring position 0. -/
def haltRecord (h cause : Nat) (prior : Option (Nat × Nat)) : Halt := ⟨h, 0, cause, 0, 0, none, none, prior, [], [], []⟩

/-- R145. A creel with a halt in force, its cycle in DBG_CYC. -/
def haltedCreel (s : State) (c : CreelId) (h cause : Nat) (prior : Option (Nat × Nat)) : State :=
  modCreel s c fun k => { k with
    halt := some (haltRecord h cause prior), rehalt := false, dbg := k.dbg.put 0x10 (BitVec.ofNat 64 h) }

/-- The halt and the debug registers of a creel so halted: DBG_CYC is the cycle, and the others are as before. -/
theorem creelOf_haltedCreel (c : CreelId) (h cause : Nat) (prior : Option (Nat × Nat)) :
    (creelOf (haltedCreel s c h cause prior) c).halt = some (haltRecord h cause prior) ∧
      ∀ off, dbgReg (haltedCreel s c h cause prior) c off = if 0x10 = off then BitVec.ofNat 64 h else dbgReg s c off := by
  unfold dbgReg haltedCreel
  rw [creelOf_modCreel, if_pos rfl]
  exact ⟨rfl, fun off => SMap.get_put ..⟩

/-- The selection of the trace does not depend on a halt. -/
theorem traceOn_haltedCreel (c : CreelId) (h cause : Nat) (prior : Option (Nat × Nat)) (kind node slot : Nat) :
    traceOn (haltedCreel s c h cause prior) c kind node slot = traceOn s c kind node slot := by
  obtain ⟨-, hreg⟩ := creelOf_haltedCreel (s := s) c h cause prior
  unfold traceOn
  rw [hreg, hreg, if_neg (by decide), if_neg (by decide)]

/-- R145. A halt by the host or by a cross-trigger, where the trace does not record it: the halt, and the end of its skew. -/
theorem haltAt_untraced {c : CreelId} {cause : Nat} (h : Nat) (hrun : isHalted s c = false)
    (hcause : ¬ (2 ≤ cause ∧ cause ≤ 4)) (htrace : traceOn s c 6 0 0 = false) :
    ∃ prior, haltAt s c h cause 0 0 0 = (haltedCreel s c h cause prior).at (h + 2) (.haltSkewOver c) := by
  refine ⟨(match (creelOf s c).halt with
    | some o => o.resume.map fun r => (r, o.ring)
    | none => none), ?_⟩
  unfold haltAt
  rw [if_neg (by rw [hrun]; exact Bool.false_ne_true)]
  extract_lets prior halted t traced team
  have htraced : traced = halted := by
    refine traceRec_off _ ?_
    rw [creel_of_lt c (by decide)]
    exact (traceOn_haltedCreel c h cause prior 6 0 0).trans htrace
  have hteam : team = none := by
    simp only [team, decide_eq_false hcause, Bool.false_and, Bool.false_eq_true, if_false]
  rw [htraced, hteam]
  rfl

/-- What a halt by the host or by a cross-trigger leaves. -/
theorem haltAt_spec {c : CreelId} {cause : Nat} (hrun : isHalted s c = false) (hcause : ¬ (2 ≤ cause ∧ cause ≤ 4))
    (htrace : traceOn s c 6 0 0 = false) :
    let u := haltAt s c (s.cyc + 1) cause 0 0 0
    ∃ h, (creelOf u c).halt = some h ∧ h.h = s.cyc + 1 ∧ h.cause = cause ∧ h.ring = 0 ∧ h.resume = none ∧
      dbgReg u c 0x10 = BitVec.ofNat 64 (s.cyc + 1) ∧ Undisturbed s u := by
  obtain ⟨prior, hu⟩ := haltAt_untraced (s.cyc + 1) hrun hcause htrace
  rw [hu]
  obtain ⟨hhalt, hreg⟩ := creelOf_haltedCreel (s := s) c (s.cyc + 1) cause prior
  refine ⟨_, hhalt, rfl, rfl, rfl, rfl, ?_, undisturbed_at (undisturbed_modCreel s c _) ..⟩
  show dbgReg (haltedCreel s c (s.cyc + 1) cause prior) c 0x10 = _
  rw [hreg, if_pos rfl]

/-! ## Answers (R144) -/

/-- An operation whose meaning is a response alone answers it. -/
theorem gives_answer {i : Instr} {status : Nat} {v : Word} (h : exec i s = .next (debugReply s status v)) :
    Gives i s fun t => t = debugReply s status v := ⟨_, h, rfl⟩

/-- The same of a response under a test that holds. -/
theorem gives_answer_if {i : Instr} {status : Nat} {v : Word} {p : Prop} [Decidable p] {u : State}
    (h : exec i s = .next (if p then debugReply s status v else u)) (hp : p) :
    Gives i s fun t => t = debugReply s status v :=
  gives_answer (h.trans (congrArg Host.Outcome.next (if_pos hp)))

theorem debugCreel_test {c : CreelId} (h : creelThere s c = true) : ¬ (!debugCreel s c) = true := by
  unfold debugCreel
  rw [h]
  exact Bool.false_ne_true

theorem debugCreel_absent {c : CreelId} (h : creelThere s c = false) : (!debugCreel s c) = true := by
  unfold debugCreel
  rw [h]
  rfl

theorem debugSlot_there {c : CreelId} {node slot : Nat} (h : creelThere s c = true) (hn : node ≤ 6) (hs : slot ≤ 15) :
    debugSlot s ⟨⟨c.x, c.y, node⟩, slot⟩ = true := by
  unfold debugSlot debugCreel
  rw [h, decide_eq_true ⟨hn, hs⟩]
  rfl

theorem debugSlot_absent {c : CreelId} (node slot : Nat) (h : creelThere s c = false) :
    (!debugSlot s ⟨⟨c.x, c.y, node⟩, slot⟩) = true := by
  unfold debugSlot debugCreel
  rw [h]
  rfl

/-- R144, R145. The host's halt, where the creel is there: the halt, and the h in force. -/
theorem execDbgHalt_there {c : CreelId} (h : creelThere s c = true) : execDbgHalt c s =
    .next (debugReply (haltAt s c (s.cyc + 1) 1 0 0 0) 0 (dbgReg (haltAt s c (s.cyc + 1) 1 0 0 0) c 0x10)) :=
  congrArg Host.Outcome.next (if_neg (debugCreel_test h))

/-- R145. A halt of a running creel, by the host and by a cross-trigger. -/
theorem halt_gives {c : CreelId} (h : creelThere s c = true) (hrun : isHalted s c = false)
    (htrace : traceOn s c 6 0 0 = false) :
    let haltsBy := fun (u : State) (cause : Nat) => ∃ h, (creelOf u c).halt = some h ∧ h.h = s.cyc + 1 ∧ h.cause = cause ∧
      h.ring = 0 ∧ h.resume = none ∧ dbgReg u c 0x10 = BitVec.ofNat 64 (s.cyc + 1) ∧ Undisturbed s u
    (Gives (.dbgHalt c) s fun t => ∃ u, t = debugReply u 0 (BitVec.ofNat 64 (s.cyc + 1)) ∧ haltsBy u 1) ∧
      Gives (.haltCrossTrigger c) s fun t => haltsBy t 5 := by
  intro haltsBy
  have hhost := haltAt_spec (cause := 1) hrun (by decide) htrace
  have hcross := haltAt_spec (cause := 5) hrun (by decide) htrace
  refine ⟨⟨_, execDbgHalt_there h, haltAt s c (s.cyc + 1) 1 0 0 0, ?_, hhost⟩, ⟨_, ?_, hcross⟩⟩
  · obtain ⟨-, -, -, -, -, -, hreg, -⟩ := hhost
    rw [hreg]
  · exact congrArg Host.Outcome.next (if_pos h)

/-- R144. A halt of a halted creel answers the h in force. -/
theorem execDbgHalt_halted {c : CreelId} (h : creelThere s c = true) (hhalt : isHalted s c = true) :
    execDbgHalt c s = .next (debugReply s 0 (dbgReg s c 0x10)) := by
  have hsame : haltAt s c (s.cyc + 1) 1 0 0 0 = s := if_pos hhalt
  rw [execDbgHalt_there h, hsame]

/-- R144. A creel that runs is not resumed. -/
theorem execDbgResume_running {c : CreelId} (h : creelThere s c = true) (hrun : isHalted s c = false) :
    execDbgResume c s = .next (debugReply s 2 0) := by
  refine congrArg Host.Outcome.next ((if_neg (debugCreel_test h)).trans ?_)
  split
  · exact if_pos (by rw [hrun]; rfl)
  · rfl

/-- R144. A creel that runs is not dumped. -/
theorem execDbgDumpCreel_running {c : CreelId} (h : creelThere s c = true) (hrun : isHalted s c = false) :
    execDbgDumpCreel c s = .next (debugReply s 2 0) :=
  congrArg Host.Outcome.next ((if_neg (debugCreel_test h)).trans (if_pos (by rw [hrun]; rfl)))

/-! ## Resume (R147) -/

/-- R147. The cycle of a resume is the first after this one with the remainder of h. -/
theorem resumeCycle_spec (cyc h : Nat) :
    cyc < resumeCycle cyc (h % 16) ∧ resumeCycle cyc (h % 16) ≤ cyc + 16 ∧ resumeCycle cyc (h % 16) % 16 = h % 16 := by
  unfold resumeCycle
  simp only
  omega

/-- R144, R147. A halted creel is resumed: r is answered, and just before it the creel's resume point comes. -/
theorem dbgResume_gives {c : CreelId} {h : Halt} (hthere : creelThere s c = true) (hh : (creelOf s c).halt = some h)
    (hr : h.resume = none) : ∃ r, s.cyc < r ∧ r ≤ s.cyc + 16 ∧ r % 16 = h.h % 16 ∧
      Gives (.dbgResume c) s fun t => ∃ u, t = debugReply u 0 (BitVec.ofNat 64 r) ∧ Undisturbed s u ∧
        (creelOf u c).halt = some { h with resume := some r } ∧ ⟨r - 1, .event (.debugResumePoint c)⟩ ∈ u.agenda := by
  obtain ⟨hlo, hhi, hmod⟩ := resumeCycle_spec s.cyc h.h
  refine ⟨resumeCycle s.cyc (h.h % 16), hlo, hhi, hmod, ?_⟩
  generalize hcycle : resumeCycle s.cyc (h.h % 16) = r
  let resumed := modCreel s c fun q => { q with halt := some { h with resume := some r } }
  let u := resumed.at (r - 1) (.event (.debugResumePoint c))
  have hhalt : (creelOf resumed c).halt = some { h with resume := some r } := halt_modCreel s c _
  have hexec : execDbgResume c s = .next (debugReply u 0 (BitVec.ofNat 64 r)) := by
    unfold execDbgResume
    rw [if_neg (debugCreel_test hthere), hh]
    simp only [isHalted_of_resume_none hh hr, hr, hcycle, Bool.not_true, Bool.false_eq_true, if_false, Option.getD_none,
      Option.isSome_none]
    rfl
  refine ⟨_, hexec, u, rfl, undisturbed_at (undisturbed_modCreel s c _) .., hhalt, (mem_at ..).mpr (.inl rfl)⟩

/-! ## The debug block's registers (R144) -/

/-- A register of the debug block read. -/
theorem execDbgRegRead_there {c : CreelId} {off : Nat} (h : creelThere s c = true) (ho : off % 8 = 0 ∧ off < 0x200) :
    execDbgRegRead c off s = .next (debugReply s 0 ((dbgRead s c off).getD 0)) :=
  congrArg Host.Outcome.next ((if_neg (debugCreel_test h)).trans (if_neg (by omega)))

/-- An offset outside the block, or within a doubleword, is not a register. -/
theorem execDbgReg_badOffset {c : CreelId} {off : Nat} (h : creelThere s c = true) (ho : ¬ (off % 8 = 0 ∧ off < 0x200)) :
    execDbgRegRead c off s = .next (debugReply s 4 0) ∧ ∀ v, execDbgRegWrite c off v s = .next (debugReply s 4 0) := by
  have hbad : off % 8 ≠ 0 ∨ 0x200 ≤ off := by omega
  exact ⟨congrArg Host.Outcome.next ((if_neg (debugCreel_test h)).trans (if_pos hbad)),
    fun v => congrArg Host.Outcome.next ((if_neg (debugCreel_test h)).trans (if_pos hbad))⟩

/-- The offsets of DBG_CTL, the breakpoint and watchpoint registers, and the two selections. -/
def PlainDbgOffset (off : Nat) : Prop := off % 8 = 0 ∧ (off = 0 ∨ 0x18 ≤ off ∧ off < 0x78 ∨ off = 0x80 ∨ off = 0x88)

/-- Each of them has bits that are written. -/
theorem dbgMask_ne_zero {off : Nat} (ho : off = 0 ∨ 0x18 ≤ off ∧ off < 0x78 ∨ off = 0x80 ∨ off = 0x88) :
    dbgMask off ≠ 0 := by
  rcases ho with rfl | ⟨hlo, hhi⟩ | rfl | rfl
  · decide
  · unfold dbgMask
    rw [if_neg (by omega)]
    by_cases h38 : off < 0x38
    · rw [if_pos ⟨hlo, h38⟩]; decide
    rw [if_neg (by omega)]
    by_cases h58 : off < 0x58
    · rw [if_pos ⟨by omega, h58⟩]; decide
    rw [if_neg (by omega)]
    by_cases h68 : off < 0x68
    · rw [if_pos ⟨by omega, h68⟩]; decide
    rw [if_neg (by omega), if_pos ⟨by omega, hhi⟩]
    decide
  · decide
  · decide

/-- R8, R143. A write of a register without a meaning of its own: the written bits within its mask. -/
theorem dbgWrite_plain {off : Nat} (c : CreelId) (v : Word) (ho : PlainDbgOffset off) : dbgWrite s c off v =
    modCreel s c fun q => { q with dbg := q.dbg.put off (maskWrite (dbgReg s c off) v (dbgMask off)) } := by
  obtain ⟨hal, ho⟩ := ho
  have hacct : acctOffset off = false := decide_eq_false (by omega)
  have hidle : acctIdle off = false := by rw [acctIdle, hacct, Bool.false_and]
  have hmask := dbgMask_ne_zero ho
  unfold dbgWrite
  rw [if_neg (by omega), if_neg (by omega), if_neg (by omega), if_neg (by omega), if_neg (by simp [hidle]),
    if_neg (by simp [hacct]), if_neg hmask]

/-- R144. A written register of the debug block, and every other one. -/
theorem dbgRegWrite_gives {c : CreelId} {off : Nat} (v : Word) (h : creelThere s c = true) (ho : PlainDbgOffset off) :
    Gives (.dbgRegWrite c off v) s fun t => ∃ u, t = debugReply u 0 0 ∧ Undisturbed s u ∧
      dbgReg u c off = (dbgReg s c off &&& ~~~dbgMask off) ||| (v &&& dbgMask off) ∧
      ∀ o, o ≠ off → dbgReg u c o = dbgReg s c o := by
  have hin : ¬ (off % 8 ≠ 0 ∨ 0x200 ≤ off) := by
    obtain ⟨hal, ho⟩ := ho
    omega
  have hcreel := (creelOf_modCreel s c c fun q => { q with
    dbg := q.dbg.put off (maskWrite (dbgReg s c off) v (dbgMask off)) }).trans (if_pos rfl)
  refine ⟨_, congrArg Host.Outcome.next ((if_neg (debugCreel_test h)).trans (if_neg hin)), _, rfl, ?_⟩
  rw [dbgWrite_plain c v ho]
  refine ⟨undisturbed_modCreel s c _, ?_, fun o hne => ?_⟩
  · rw [dbgReg, hcreel, SMap.get_put, if_pos rfl]
    rfl
  · rw [dbgReg, hcreel, SMap.get_put, if_neg hne.symm]
    rfl

/-! ## Threads of a halted creel (R144, R147) -/

section Slots

variable {i : ThreadId}

/-- R144. Where the creel runs, no register of a thread is read and no step is taken. -/
theorem execDbgSlot_running (hslot : debugSlot s i = true) (hrun : isHalted s ⟨i.core.x, i.core.y⟩ = false) :
    (∀ n, execDbgThreadRegRead i n s = .next (debugReply s 2 0)) ∧ execDbgStep i s = .next (debugReply s 2 0) := by
  simp only [execDbgThreadRegRead, execDbgStep, hslot, hrun, Bool.not_true, Bool.not_false, Bool.false_eq_true, if_false,
    if_true]
  refine ⟨fun _ => trivial, ?_⟩
  cases (creelOf s ⟨i.core.x, i.core.y⟩).halt <;> rfl

/-- R144. A slot of a halted creel that is free has no registers to read. -/
theorem execDbgThreadRegRead_free (hslot : debugSlot s i = true) (hhalt : isHalted s ⟨i.core.x, i.core.y⟩ = true)
    (hfree : s.threads.find i = none) (n : Nat) : execDbgThreadRegRead i n s = .next (debugReply s 3 0) := by
  simp only [execDbgThreadRegRead, hslot, hhalt, hfree, Bool.not_true, Bool.false_eq_true, if_false]

/-- R144. The registers of a halted thread: those it has are answered with S in bit 7. -/
theorem execDbgThreadRegRead_halted {th : Thread} (hslot : debugSlot s i = true)
    (hhalt : isHalted s ⟨i.core.x, i.core.y⟩ = true) (hth : s.threads.find i = some th) (n : Nat) :
    (n < th.nregs → execDbgThreadRegRead i n s =
      .next (debugReply s (if (regOf s i n).s then 0x80 else 0) (regOf s i n).d)) ∧
    (th.nregs ≤ n → execDbgThreadRegRead i n s = .next (debugReply s 4 0)) := by
  simp only [execDbgThreadRegRead, hslot, hhalt, hth, Bool.not_true, Bool.false_eq_true, if_false]
  exact ⟨fun h => by rw [if_pos h], fun h => by rw [if_neg (Nat.not_lt.mpr h)]⟩

/-- R147. A step of a halted creel's slot that holds a thread: it is released where the thread runs, and refused elsewhere. -/
theorem execDbgStep_halted {h : Halt} {th : Thread} (hslot : debugSlot s i = true)
    (hh : (creelOf s ⟨i.core.x, i.core.y⟩).halt = some h) (hr : h.resume = none) (hth : s.threads.find i = some th) :
    execDbgStep i s = .next (if th.wait = .run ∧ th.stopping = false then
        modCreel s ⟨i.core.x, i.core.y⟩ fun q => { q with halt := some { h with step := some i } }
      else debugReply s 3 0) := by
  simp only [execDbgStep, hslot, hh, isHalted_of_resume_none hh hr, hth, Bool.not_true, Bool.false_eq_true, if_false]

/-- R147. Once the issue of a step has taken place, the answer is the PC, and an instruction that parks is noted. -/
theorem execDebugStepComplete_tried {h : Halt} (hh : (creelOf s ⟨i.core.x, i.core.y⟩).halt = some h)
    (hstep : h.step = some i) (htried : s.tried.contains (i, true) = true) :
    let u := modCreel s ⟨i.core.x, i.core.y⟩ fun q => { q with halt := some { h with
      step := none, cause := 6, stepped := if (threadOf s i).wait ≠ .run then i :: h.stepped else h.stepped } }
    execDebugStepComplete i s = .next (debugReply u 0 ((threadOf s i).pc.setWidth 64)) := by
  simp only [execDebugStepComplete, hh, hstep, htried, and_self, if_true, decide_eq_true_eq]
  rfl

/-- R147. A turn that came to no issue answers nothing. -/
theorem execDebugStepComplete_untried {h : Halt} (hh : (creelOf s ⟨i.core.x, i.core.y⟩).halt = some h)
    (htried : s.tried.contains (i, true) = false) : execDebugStepComplete i s = .next s := by
  simp only [execDebugStepComplete, hh, htried, Bool.false_eq_true, and_false, if_false]

end Slots

/-! ## The dump of a team (R153) -/

/-- A change of a team keeps every other part of the state. -/
theorem modTeam_eq (k : TeamKey) (f : TeamSt → TeamSt) : modTeam s k f = { s with teams := (modTeam s k f).teams } := by
  unfold modTeam
  split <;> rfl

/-- A team changed is there as changed, and every other team is as before. -/
theorem find_modTeam (k q : TeamKey) (f : TeamSt → TeamSt) :
    (modTeam s k f).teams.find q = if k = q then (s.teams.find q).map f else s.teams.find q := by
  unfold modTeam
  cases h : s.teams.find k with
  | none =>
    by_cases hk : k = q
    · subst hk; rw [if_pos rfl, h, Option.map_none]
    · rw [if_neg hk]
  | some t =>
    simp only [SMap.find_put]
    by_cases hk : k = q
    · subst hk; rw [if_pos rfl, if_pos rfl, h, Option.map_some]
    · rw [if_neg hk, if_neg hk]

/-- Teams change, and happenings are set; the cycle, memory, registers and threads are as before, and the team k is still
there. -/
def LeavesTeam (s u : State) (k : TeamKey) : Prop :=
  u.cyc = s.cyc ∧ u.mem = s.mem ∧ u.regs = s.regs ∧ u.threads = s.threads ∧
    (u.teams.find k).isSome = (s.teams.find k).isSome

theorem leavesTeam_modTeam {u : State} {k : TeamKey} (h : LeavesTeam s u k) (q : TeamKey) (f : TeamSt → TeamSt) :
    LeavesTeam s (modTeam u q f) k := by
  obtain ⟨hcyc, hmem, hregs, hthreads, hfind⟩ := h
  have hkept : ((modTeam u q f).teams.find k).isSome = (s.teams.find k).isSome := by
    rw [find_modTeam, ← hfind]
    split
    · exact Option.isSome_map
    · rfl
  unfold LeavesTeam
  rw [hkept, modTeam_eq]
  exact ⟨hcyc, hmem, hregs, hthreads, rfl⟩

/-- The beginning of a leave changes teams alone. -/
theorem leavesTeam_beginLeave (k : TeamKey) (a due : Nat) : LeavesTeam s (beginLeave s k a due) k := by
  unfold beginLeave
  generalize withDescendants s k = l
  have hfold : ∀ (l : List TeamKey) (u : State), LeavesTeam s u k → LeavesTeam s (l.foldl (fun s q => modTeam s q fun u =>
      if u.phase = .fenced then u else { u with phase := .leaving a, asked := s.cyc, deadline := due }) u) k := by
    intro l
    induction l with
    | nil => exact fun _ h => h
    | cons q l ih => exact fun u h => ih _ (leavesTeam_modTeam h q _)
  exact hfold l s ⟨rfl, rfl, rfl, rfl, rfl⟩

/-- R112, R153. A pre-emption by save keeps its team there; of a placed team the boundary's stop is set. -/
theorem preempt_save {k : TeamKey} {u : TeamSt} (hu : s.teams.find k = some u) :
    LeavesTeam s (preempt s k none 1).1 k ∧
      (u.phase = .placed → ⟨boundaryEve s.cyc, .event (.preemptBoundaryStop k)⟩ ∈ (preempt s k none 1).1.agenda) := by
  have hrefl : LeavesTeam s s k := ⟨rfl, rfl, rfl, rfl, rfl⟩
  have hleave := leavesTeam_beginLeave (s := s) k 2
  unfold preempt
  simp only [hu]
  split
  next hph =>
    obtain ⟨hcyc, -⟩ := hleave (2 ^ 64)
    simp only [show ¬ ((1 : Nat) = 2) by decide, false_and, if_false, if_true]
    exact ⟨hleave (2 ^ 64), fun _ => (mem_at ..).mpr (.inl (by rw [hcyc]))⟩
  next hph =>
    rw [if_pos trivial]
    exact ⟨hleave _, fun h => absurd (hph.symm.trans h) nofun⟩
  next hph => exact ⟨leavesTeam_modTeam hrefl k _, fun h => absurd (hph.symm.trans h) nofun⟩
  next hph => exact ⟨leavesTeam_modTeam hrefl k _, fun h => absurd (hph.symm.trans h) nofun⟩
  next hph => exact ⟨hrefl, fun h => absurd (hph.symm.trans h) nofun⟩
  next hplaced _ _ _ _ => exact ⟨hrefl, fun h => absurd h hplaced⟩

section DumpTeam

variable {i : ThreadId} {l : Nat} (hslot : debugSlot s i = true)
include hslot

/-- R144. No team at the level holds the creel. -/
theorem execDbgDumpTeam_none
    (hnone : ((teamsAt s ⟨i.core.x, i.core.y⟩).find? fun q => decide (q.1.level = l)) = none) :
    execDbgDumpTeam i l s = .next (debugReply s 4 0) := by
  simp only [execDbgDumpTeam, hslot, hnone, Bool.not_true, Bool.false_eq_true, if_false]

variable {k : TeamKey} {u : TeamSt}
  (hfind : ((teamsAt s ⟨i.core.x, i.core.y⟩).find? fun q => decide (q.1.level = l)) = some (k, u))
include hfind

/-- R153. A team that is fenced or discarded cannot be dumped. -/
theorem execDbgDumpTeam_refused (hph : u.phase = .fenced ∨ u.phase = .leaving 1) :
    execDbgDumpTeam i l s = .next (debugReply s 4 0) := by
  rcases hph with hph | hph
  · simp only [execDbgDumpTeam, hslot, hfind, hph, Bool.not_true, Bool.false_eq_true, if_false]
  · simp only [execDbgDumpTeam, hslot, hfind, hph, Bool.not_true, Bool.false_eq_true, if_false]
    exact congrArg Host.Outcome.next (if_neg (by decide))

/-- R153. A team that is placed, or leaves by drain, save or restoration, is pre-empted by save, its image to be kept. -/
theorem execDbgDumpTeam_saves
    (hph : u.phase = .placed ∨ u.phase = .leaving 0 ∨ u.phase = .leaving 2 ∨ u.phase = .leaving 3) :
    execDbgDumpTeam i l s = .next (modTeam (preempt s k none 1).1 k fun v =>
      { v with dump := true, dumpJoined := decide (u.phase = .leaving 2) && !u.dump }) := by
  rcases hph with hph | hph | hph | hph <;>
    simp only [execDbgDumpTeam, hslot, hfind, hph, Bool.not_true, Bool.false_eq_true, if_false] <;> rfl

/-- R153. The dump of a team: the save is under way, and the team's image is to be kept. -/
theorem dbgDumpTeam_gives (hu : s.teams.find k = some u)
    (hph : u.phase = .placed ∨ u.phase = .leaving 0 ∨ u.phase = .leaving 2 ∨ u.phase = .leaving 3) :
    Gives (.dbgDumpTeam i l) s fun t => (∃ v, t.teams.find k = some v ∧ v.dump = true) ∧
      (u.phase = .placed → ⟨boundaryEve s.cyc, .event (.preemptBoundaryStop k)⟩ ∈ t.agenda) ∧
      t.mem = s.mem ∧ t.regs = s.regs ∧ t.threads = s.threads := by
  obtain ⟨⟨-, hmem, hregs, hthreads, hkept⟩, hstop⟩ := preempt_save hu
  refine ⟨_, execDbgDumpTeam_saves hslot hfind hph, ?_⟩
  generalize (preempt s k none 1).1 = p at *
  obtain ⟨v, hv⟩ := Option.isSome_iff_exists.mp (hkept.trans (by rw [hu]; rfl))
  refine ⟨⟨_, by rw [find_modTeam, if_pos rfl, hv]; rfl, rfl⟩, ?_⟩
  rw [modTeam_eq]
  exact ⟨hstop, hmem, hregs, hthreads⟩

end DumpTeam

/-! ## The dump of a creel (R153) -/

/-- The first bytes of those written are read back. -/
theorem readBytes_writeBytes_prefix (s : State) (pa : Nat) {a bs : List Byte} {n : Nat} (tag : Bool) (h : a <+: bs)
    (hn : a.length = n) : readBytes (writeBytes s pa bs tag) pa n = a := by
  obtain ⟨b, rfl⟩ := h
  rw [readBytes_eq]
  refine List.ext_getElem (by simp [hn]) fun i h₁ h₂ => ?_
  have hlen : i < (a ++ b).length := by rw [List.length_append]; omega
  rw [List.getElem_map, List.getElem_range]
  exact (cellGet_putBytes_same (a ++ b) s.mem pa i hlen).trans (List.getElem_append_left h₂)

/-- The registers, the threads, the creels and the cycle are as before. -/
def KeepsCreels (s u : State) : Prop :=
  u.regs = s.regs ∧ u.threads = s.threads ∧ u.creels = s.creels ∧ u.cyc = s.cyc

/-- R116. An image is written to memory alone. -/
theorem writeImage_eq (cur : State) (k : Option TeamKey) (a : Nat) (parts : List ImagePart) :
    writeImage s cur k a parts = { cur with
      mem := (writeImage s cur k a parts).mem, bits := (writeImage s cur k a parts).bits
      err := (writeImage s cur k a parts).err } := by
  unfold writeImage
  split <;> rfl

/-- R153. The index block of a dump is laid, where its place is in HBM4 or LPDDR, with DUMP, version 1 and its cause first. -/
theorem dumpIndex_eq (image cause num team level : Nat) (parts : List ImagePart) :
    ∃ block, leBytes 4 0x44554D50 ++ leBytes 2 1 ++ leBytes 2 cause <+: block ∧
      dumpIndex s image cause num team level parts =
        ((match homeOf s.drawn (Config.poolAddress s.free).toNat with
          | some (.control ..) => writeBytes s.drawn (Config.poolAddress s.free).toNat block false
          | _ => s.drawn), Config.poolAddress s.free) := by
  unfold dumpIndex
  generalize List.foldl _ _ parts = laid
  obtain ⟨entries, len⟩ := laid
  refine ⟨_, ?_, rfl⟩
  simp only [List.append_assoc, List.prefix_append_right_inj, List.prefix_append]

/-- R153. The index block of a dump: where it is placed, what it leaves unchanged, and the first doubleword of what it holds
where it lies in HBM4 or LPDDR. -/
theorem dumpIndex_spec (image cause num team level : Nat) (parts : List ImagePart) :
    let r := dumpIndex s image cause num team level parts
    r.2 = Config.poolAddress s.free ∧ KeepsCreels s r.1 ∧
      ((∃ d cap north, homeOf s (Config.poolAddress s.free).toNat = some (.control d cap north)) →
        readBytes r.1 (Config.poolAddress s.free).toNat 8 = leBytes 4 0x44554D50 ++ leBytes 2 1 ++ leBytes 2 cause) := by
  obtain ⟨block, hblock, hr⟩ := dumpIndex_eq (s := s) image cause num team level parts
  have hhome : ∀ pa, homeOf s.drawn pa = homeOf s pa := fun _ => rfl
  rw [hr, hhome]
  refine ⟨rfl, ?_, fun ⟨d, cap, north, hcontrol⟩ => ?_⟩
  · dsimp only
    split
    · exact ⟨rfl, rfl, rfl, rfl⟩
    · exact ⟨rfl, rfl, rfl, rfl⟩
  · rw [hcontrol]
    exact readBytes_writeBytes_prefix s.drawn _ false hblock (by simp only [List.length_append, leBytes_length])

/-- R153. A dump of a halted creel: its blocks are written, then its index block, and the pool's place is taken. -/
theorem execDbgDumpCreel_halted {c : CreelId} (hthere : creelThere s c = true) (hhalt : isHalted s c = true) :
    ∃ image num team level parts,
      let r := dumpIndex (writeImage s s none image parts).drawn image 2 num team level parts
      execDbgDumpCreel c s = .next (debugReply { r.1 with free := r.1.free + 4096 } 0 r.2) := by
  have hhalt' : ¬ (!isHalted s c) = true := by rw [hhalt]; exact Bool.false_ne_true
  unfold execDbgDumpCreel
  rw [if_neg (debugCreel_test hthere), if_neg hhalt']
  extract_lets key f here bound cores parts image
  refine ⟨image, (key.map fun k => launchNum s k.lslot).getD 0, (key.map (·.num)).getD 0, (key.map (·.level)).getD 0,
    parts, ?_⟩
  generalize dumpIndex _ _ _ _ _ _ _ = r
  rfl

/-- R153. A halted creel's dump answers with the index block, and the creel stays halted. -/
theorem dbgDumpCreel_gives {c : CreelId} (hthere : creelThere s c = true) (hhalt : isHalted s c = true) :
    Gives (.dbgDumpCreel c) s fun t => ∃ u, t = debugReply u 0 (Config.poolAddress (s.free + 1)) ∧
      u.regs = s.regs ∧ u.threads = s.threads ∧ isHalted u c = true ∧
      ((∃ d cap north, homeOf s (Config.poolAddress (s.free + 1)).toNat = some (.control d cap north)) →
        readBytes u (Config.poolAddress (s.free + 1)).toNat 8 = leBytes 4 0x44554D50 ++ leBytes 2 1 ++ leBytes 2 2) := by
  obtain ⟨image, num, team, level, parts, hexec⟩ := execDbgDumpCreel_halted hthere hhalt
  have himage := writeImage_eq (s := s) s none image parts
  generalize writeImage s s none image parts = written at *
  obtain ⟨haddr, ⟨hregs, hthreads, hcreels, hcyc⟩, hbytes⟩ :=
    dumpIndex_spec (s := written.drawn) image 2 num team level parts
  have hfree : written.drawn.free = s.free + 1 := by rw [himage]; rfl
  have hhome : ∀ pa, homeOf written.drawn pa = homeOf s pa := fun pa => by rw [himage]; rfl
  rw [hfree] at haddr hbytes
  rw [hhome] at hbytes
  dsimp only at hexec
  rw [haddr] at hexec
  generalize (dumpIndex written.drawn image 2 num team level parts).1 = u at *
  refine ⟨_, hexec, { u with free := u.free + 4096 }, rfl, hregs.trans ?_, hthreads.trans ?_, ?_, hbytes⟩
  · rw [himage]; rfl
  · rw [himage]; rfl
  · have hcreels' : u.creels = s.creels := hcreels.trans (by rw [himage]; rfl)
    have hcyc' : u.cyc = s.cyc := hcyc.trans (by rw [himage]; rfl)
    exact (isHalted_congr (u := { u with free := u.free + 4096 }) hcreels' hcyc' c).trans hhalt

/-! ## The resume point (R146, R147) -/

/-- R147. The skew is over and no step is unanswered: the halt is gone. -/
theorem execDebugResumePoint_over {c : CreelId} {h : Halt} {r : Nat} (hh : (creelOf s c).halt = some h)
    (hr : h.resume = some r) (hle : r ≤ s.cyc) (hstep : h.step = none) :
    execDebugResumePoint c s = .next (modCreel s c fun q => { q with halt := none }) := by
  simp only [execDebugResumePoint, hh, hr, Nat.not_lt.mpr hle, if_false, hstep, Option.isSome_none, Bool.false_eq_true]

/-- R147. A step that is still to be answered keeps the halt for another rotation. -/
theorem execDebugResumePoint_stepped {c : CreelId} {h : Halt} {r : Nat} (hh : (creelOf s c).halt = some h)
    (hr : h.resume = some r) (hle : r ≤ s.cyc) (hstep : h.step ≠ none) :
    execDebugResumePoint c s = .next (s.after 16 (.event (.debugResumePoint c))) := by
  simp only [execDebugResumePoint, hh, hr, Nat.not_lt.mpr hle, if_false, Option.isSome_iff_ne_none.mpr hstep, if_true]

/-- R146. A matrix unit with nothing in work and nothing queued has nothing to move. -/
theorem thawMatrix_idle {core : CoreId} (n froze : Nat) (h : (coreOf s core).mrun = none ∧ (coreOf s core).mqueue = []) :
    thawMatrix s core n froze = s := by
  obtain ⟨hrun, hqueue⟩ := h
  simp only [thawMatrix, hrun, hqueue, List.isEmpty_nil, if_true]

/-- A trace record changes no thread. -/
theorem traceRec_threads (t : ThreadId) (kind : Nat) (p : List Byte) : (traceRec s t kind p).threads = s.threads := by
  have hframe := traceFrame_traceRec s t kind p
  rw [hframe]

/-- Happenings set one after the other change no thread. -/
theorem threads_foldl_at {α : Type} (l : List α) (when : α → Nat) (what : α → Act) :
    ∀ s : State, (l.foldl (fun s x => s.at (when x) (what x)) s).threads = s.threads := by
  induction l with
  | nil => exact fun _ => rfl
  | cons x l ih => exact fun s => ih (s.at (when x) (what x))

/-- R146. A frozen operation's cycle, moved by the length of the halt. -/
def movedCycle (h : Halt) (x d w : Nat) : Nat := if x = w ∧ h.h + 16 ≤ w then w + d else x

/-- R146. A thread with an operation frozen until w, as the resume at r leaves it. -/
def thawThread (h : Halt) (r w d : Nat) (th : Thread) : Thread := { th with
  ready := if th.wait = .run then movedCycle h th.ready (r - h.h) w else th.ready
  rep := { th.rep with due := if th.rep.running then movedCycle h th.rep.due (r - h.h) d else th.rep.due } }

/-- R146, R147. Just before r, with the matrix units idle: the one thread that stands frozen is moved, and the end of the skew is
set. -/
theorem execDebugResumePoint_due {c : CreelId} {h : Halt} {r : Nat} {i : ThreadId} {w d : Nat}
    (hh : (creelOf s c).halt = some h) (hr : h.resume = some r) (hlt : s.cyc < r)
    (hidle : ∀ n ∈ [3, 4, 5, 6], (coreOf s ⟨c.x, c.y, n⟩).mrun = none ∧ (coreOf s ⟨c.x, c.y, n⟩).mqueue = [])
    (hwaits : h.waits = [(i, w, d)]) :
    ∃ u : State, execDebugResumePoint c s = .next (u.at (r + 2) (.event (.debugResumePoint c))) ∧
      u.threads = (modThread s i (thawThread h r w d)).threads := by
  have hthaw : ∀ n ∈ [3, 4, 5, 6], ∀ m froze, thawMatrix s ⟨c.x, c.y, n⟩ m froze = s :=
    fun n hn m froze => thawMatrix_idle m froze (hidle n hn)
  simp only [execDebugResumePoint, hh, hr, hlt, hwaits, if_true, List.foldl_cons, List.foldl_nil, hthaw 3 (by decide),
    hthaw 4 (by decide), hthaw 5 (by decide), hthaw 6 (by decide)]
  refine ⟨_, rfl, ?_⟩
  rw [traceRec_threads, modCreel_threads, threads_foldl_at, threads_foldl_at]
  rfl

/-- R146, R147. The resume point before r moves the frozen thread's cycle by the length of the halt. -/
theorem resumePoint_moves {c : CreelId} {h : Halt} {r : Nat} {i : ThreadId} {w d : Nat}
    (hh : (creelOf s c).halt = some h) (hr : h.resume = some r) (hlt : s.cyc < r)
    (hidle : ∀ n ∈ [3, 4, 5, 6], (coreOf s ⟨c.x, c.y, n⟩).mrun = none ∧ (coreOf s ⟨c.x, c.y, n⟩).mqueue = [])
    (hwaits : h.waits = [(i, w, d)]) (hi : (s.threads.find i).isSome = true) (hrun : (threadOf s i).wait = .run)
    (hready : (threadOf s i).ready = w) (hfrozen : h.h + 16 ≤ w) :
    Gives (.debugResumePoint c) s fun t => (threadOf t i).ready = w + (r - h.h) ∧
      ⟨r + 2, .event (.debugResumePoint c)⟩ ∈ t.agenda ∧ ∀ j, j ≠ i → t.threads.find j = s.threads.find j := by
  obtain ⟨u, hexec, hthreads⟩ := execDebugResumePoint_due hh hr hlt hidle hwaits
  have hthread : threadOf u i = thawThread h r w d (threadOf s i) := by
    rw [← threadOf_modThread_same s i (thawThread h r w d) hi]
    unfold threadOf
    rw [hthreads]
  refine ⟨_, hexec, ?_, (mem_at ..).mpr (.inl rfl), fun j hj => ?_⟩
  · show (threadOf u i).ready = _
    rw [hthread]
    simp only [thawThread, movedCycle, hrun, hready, hfrozen, and_self, if_true]
  · show u.threads.find j = _
    rw [hthreads, find_modThread, if_neg hj.symm]

/-! ## Samples (R152) -/

/-- R152. A sample that the trace does not take moves on to the next position. -/
theorem sampleTick_gives (c : CreelId) :
    let ctl := dbgReg s c 0x90
    let p := (creelOf s c).sample % 112
    let log2p := (ctl.extractLsb' 0 5).toNat
    (ctl.getLsbD 8 = true → 8 ≤ log2p → log2p ≤ 24 → traceOn s c 7 (p / 16) (p % 16) = false →
      Gives (.sampleTick c) s fun t => (creelOf t c).sample = (p + 1) % 112 ∧
        InCycles t (2 ^ log2p) (.sampleTick c) ∧ Undisturbed s t) ∧
    (ctl.getLsbD 8 = false ∨ log2p < 8 ∨ 24 < log2p → Gives (.sampleTick c) s fun t => t = s) := by
  intro ctl p log2p
  have htest : (!ctl.getLsbD 8 || decide (log2p < 8 ∨ 24 < log2p)) = true ↔
      ctl.getLsbD 8 = false ∨ log2p < 8 ∨ 24 < log2p := by
    rw [Bool.or_eq_true, Bool.not_eq_true', decide_eq_true_eq]
  refine ⟨fun hon hlo hhi htrace => ?_, fun hoff => ⟨s, congrArg Host.Outcome.next (if_pos (htest.mpr hoff)), rfl⟩⟩
  have hruns : ¬ (!ctl.getLsbD 8 || decide (log2p < 8 ∨ 24 < log2p)) = true := by
    rw [htest]
    rintro (hoff | hout)
    · exact Bool.false_ne_true (hoff.symm.trans hon)
    · omega
  have hnode : (⟨c.x, c.y, p / 16⟩ : CoreId).creel = c := creel_of_lt c (by omega)
  have hrec : ∀ payload, traceRec s ⟨⟨c.x, c.y, p / 16⟩, p % 16⟩ 7 payload = s := fun payload =>
    traceRec_off payload (by rw [hnode]; exact htrace)
  let moved := modCreel s c fun q => { q with sample := (p + 1) % 112 }
  have hexec : execSampleTick c s = .next (moved.after (2 ^ log2p) (.event (.sampleTick c))) := by
    refine congrArg Host.Outcome.next ((if_neg hruns).trans ?_)
    exact congrArg (fun u => (modCreel u c fun q => { q with sample := (p + 1) % 112 }).after (2 ^ log2p)
      (.event (.sampleTick c))) (hrec _)
  have hsample : (creelOf moved c).sample = (p + 1) % 112 := by
    rw [creelOf_modCreel, if_pos rfl]
  exact ⟨_, hexec, hsample, inCycles_after .., undisturbed_at (undisturbed_modCreel s c _) ..⟩

/-! ## The obligation -/

/-- R144. Where there is no creel, every operation answers that. -/
theorem debug_absent {c : CreelId} (h : creelThere s c = false) :
    let answers := fun (i : Instr) (status : Nat) (v : Word) => Gives i s fun t => t = debugReply s status v
    let at_ : Nat → Nat → ThreadId := fun node slot => ⟨⟨c.x, c.y, node⟩, slot⟩
    answers (.dbgHalt c) 1 0 ∧ answers (.dbgResume c) 1 0 ∧ answers (.dbgDumpCreel c) 1 0 ∧
      (∀ off, answers (.dbgRegRead c off) 1 0) ∧ (∀ off v, answers (.dbgRegWrite c off v) 1 0) ∧
      (∀ node slot, answers (.dbgStep (at_ node slot)) 1 0) ∧
      (∀ node slot n, answers (.dbgThreadRegRead (at_ node slot) n) 1 0) ∧
      ∀ node slot l, answers (.dbgDumpTeam (at_ node slot) l) 1 0 := by
  have hcreel := debugCreel_absent h
  have hslot := fun node slot => debugSlot_absent node slot h
  intro answers at_
  exact ⟨gives_answer_if rfl hcreel, gives_answer_if rfl hcreel, gives_answer_if rfl hcreel,
    fun off => gives_answer_if rfl hcreel, fun off v => gives_answer_if rfl hcreel,
    fun node slot => gives_answer_if rfl (hslot node slot), fun node slot n => gives_answer_if rfl (hslot node slot),
    fun node slot l => gives_answer_if rfl (hslot node slot)⟩

/-- R144, R147. The registers and the step of a halted creel's slot that holds a thread. -/
theorem haltedThread_gives {i : ThreadId} {th : Thread} (hslot : debugSlot s i = true)
    (hhalt : isHalted s ⟨i.core.x, i.core.y⟩ = true) (hth : s.threads.find i = some th) :
    let answers := fun (i : Instr) (status : Nat) (v : Word) => Gives i s fun t => t = debugReply s status v
    (∀ n, (n < th.nregs → answers (.dbgThreadRegRead i n) (if (regOf s i n).s then 0x80 else 0) (regOf s i n).d) ∧
      (th.nregs ≤ n → answers (.dbgThreadRegRead i n) 4 0)) ∧
    ∀ h, (creelOf s ⟨i.core.x, i.core.y⟩).halt = some h → h.resume = none →
      (th.wait = .run → th.stopping = false → Gives (.dbgStep i) s fun t =>
        (creelOf t ⟨i.core.x, i.core.y⟩).halt = some { h with step := some i } ∧ Undisturbed s t) ∧
      (th.wait ≠ .run → answers (.dbgStep i) 3 0) := by
  intro answers
  refine ⟨fun n => ?_, fun h hh hr => ?_⟩
  · obtain ⟨hin, hout⟩ := execDbgThreadRegRead_halted hslot hhalt hth n
    exact ⟨fun hn => gives_answer (hin hn), fun hn => gives_answer (hout hn)⟩
  · have hexec := execDbgStep_halted hslot hh hr hth
    refine ⟨fun hrun hgo => ⟨_, hexec.trans (congrArg Host.Outcome.next (if_pos ⟨hrun, hgo⟩)), halt_modCreel s _ _,
      undisturbed_modCreel s _ _⟩, fun hwait => gives_answer (hexec.trans (congrArg Host.Outcome.next (if_neg ?_)))⟩
    exact fun hboth => hwait hboth.1

/-- R147. The completion of a step. -/
theorem stepComplete_gives {i : ThreadId} {h : Halt} (hh : (creelOf s ⟨i.core.x, i.core.y⟩).halt = some h)
    (hstep : h.step = some i) :
    (s.tried.contains (i, true) = true → Gives (.debugStepComplete i) s fun t =>
      ∃ u, t = debugReply u 0 ((threadOf s i).pc.setWidth 64) ∧ Undisturbed s u ∧
        (creelOf u ⟨i.core.x, i.core.y⟩).halt = some { h with
          step := none, cause := 6, stepped := if (threadOf s i).wait ≠ .run then i :: h.stepped else h.stepped }) ∧
    (s.tried.contains (i, true) = false → Gives (.debugStepComplete i) s fun t => t = s) :=
  ⟨fun htried => ⟨_, execDebugStepComplete_tried hh hstep htried, _, rfl, undisturbed_modCreel s _ _, halt_modCreel s _ _⟩,
    fun htried => ⟨s, execDebugStepComplete_untried hh htried, rfl⟩⟩

/-- Settles O50: each operation of the debug conversation, the resume point and the samples by their lemmas. -/
theorem debugOperations : Obligations.DebugOperations := by
  intro s c answers at_
  refine ⟨debug_absent, fun hthere => ?there, fun h r hh hr => ?resumePoint, sampleTick_gives c⟩
  case there =>
    refine ⟨halt_gives hthere, fun hhalt => gives_answer (execDbgHalt_halted hthere hhalt), fun hrun => ?running,
      fun h hh hr => dbgResume_gives hthere hh hr, fun off => ?register,
      fun off v hal ho => dbgRegWrite_gives v hthere ⟨hal, ho⟩,
      fun node hn slot hs => ?slots, dbgDumpCreel_gives hthere⟩
    case running =>
      exact ⟨gives_answer (execDbgResume_running hthere hrun), gives_answer (execDbgDumpCreel_running hthere hrun)⟩
    case register =>
      refine ⟨fun hal hin => gives_answer (execDbgRegRead_there hthere ⟨hal, hin⟩), fun hbad => ?_⟩
      obtain ⟨hread, hwrite⟩ := execDbgReg_badOffset hthere hbad
      exact ⟨gives_answer hread, fun v => gives_answer (hwrite v)⟩
    case slots =>
      have hslot : debugSlot s (at_ node slot) = true := debugSlot_there hthere hn hs
      refine ⟨fun hrun => ?_, fun hhalt => ⟨fun hfree n => ?_, fun th hth => haltedThread_gives hslot hhalt hth⟩,
        fun h hh hstep => stepComplete_gives hh hstep, fun l hnone => gives_answer (execDbgDumpTeam_none hslot hnone),
        fun l k u hfind hu => ⟨dbgDumpTeam_gives hslot hfind hu, fun hph => ?_⟩⟩
      · obtain ⟨hread, hstep⟩ := execDbgSlot_running hslot hrun
        exact ⟨fun n => gives_answer (hread n), gives_answer hstep⟩
      · exact gives_answer (execDbgThreadRegRead_free hslot hhalt hfree n)
      · exact gives_answer (execDbgDumpTeam_refused hslot hfind hph)
  case resumePoint =>
    refine ⟨fun hle hstep => ?_, fun hle hstep => ?_, fun hlt hidle i w d hwaits hi hrun hready hfrozen =>
      resumePoint_moves hh hr hlt hidle hwaits hi hrun hready hfrozen⟩
    · exact ⟨_, execDebugResumePoint_over hh hr hle hstep, halt_modCreel s c _, undisturbed_modCreel s c _⟩
    · exact ⟨_, execDebugResumePoint_stepped hh hr hle hstep, hh, inCycles_after .., undisturbed_at (undisturbed_refl s) ..⟩

end Sys2Proof.Machine
end
